-- ==== Sys2Proof/Word.lean ====
section
/-! DEFINITION. The words the CK-4100's messages and packets are made of, and the blocks of parameters
that the rows of the table carry (spec 11_formats_and_characteristics.md, R176, R177). -/

namespace Sys2Proof

/-- One byte of a station message or a kit packet. -/
abbrev Byte := BitVec 8

/-- A kit id as the messages and packets carry it: four bytes (R4: 1..4,294,967,294 are valid). -/
abbrev KitId := BitVec 32

/-- A grant serial, which wraps from 65,535 to 0 (R100). -/
abbrev Serial := BitVec 16

/-- A value of the link timer, which wraps every 65,536 counts (R28). -/
abbrev Stamp := BitVec 16

/-- The 47-byte record image as it crosses the station port, field by field in the order of R177. -/
structure RecordImage where
  slot : BitVec 16
  lifecycle : Byte
  tag : Byte
  location : BitVec 16
  kit : KitId
  cls : Byte
  presence : Byte
  marks : Byte
  expiry : BitVec 32
  reserve : BitVec 24
  residue : BitVec 16
  outstanding : BitVec 32
  paidTotal : BitVec 32
  issued : Serial
  acknowledged : Serial
  awaiting : Serial
  lastCheckIn : BitVec 32
  drift : BitVec 16
  frozen : BitVec 24
  prior : Byte
  standing : Byte
  deriving DecidableEq, Repr

/-- The 12-byte class block of SET CLASS (spec 11, section 11.2). -/
structure ClassBlock where
  cls : Byte
  price : BitVec 16
  horizon : BitVec 24
  grace : BitVec 16
  silence : BitVec 16
  drift : BitVec 16
  deriving DecidableEq, Repr

/-- The 10-byte link configuration of SET LINK (spec 11, section 11.2). -/
structure LinkBlock where
  bitRate : Byte
  parity : Byte
  stopBits : Byte
  openDelay : BitVec 16
  window : BitVec 16
  timeout : BitVec 16
  keyLevel : Byte
  deriving DecidableEq, Repr

/-- A character as the serial line brings it (R123): the eight data bits, the level of the parity bit
(no meaning when parity is none) and whether the first stop bit is at the stop level. -/
structure LineChar where
  data : Byte
  parityBit : Bool
  stopLevel : Bool
  deriving DecidableEq, Repr

end Sys2Proof
end

