-- ==== Sys2Proof/Syntax.lean ====
section
/-! DEFINITION. The commands of the CK-4100: one constructor for each row of spec/opcode_table.json, with the
row's operands. Parameters of host commands have the widths of their message fields (spec 11, section 11.2). -/

namespace Sys2Proof

/-- The rows of the table: the steps that change the part's state. -/
inductive Instr where
  /-- POWER_ON (R154), with the strap value sampled (R162). -/
  | powerOn (straps : BitVec 2)
  /-- RESET_PIN (R154), with the strap value sampled (R162). -/
  | resetPin (straps : BitVec 2)
  /-- BANK_CLEARING_COMPLETE (R154): start-up clearing of a bank completes. -/
  | bankClearingComplete (bank : Nat)
  /-- DIRECTORY_CLEARING_COMPLETE (R154). -/
  | directoryClearingComplete
  /-- RETURN_BANK_CLEARING_COMPLETE (R160): the clearing of a returned bank completes. -/
  | returnBankClearingComplete (bank : Nat)
  /-- TIME_INPUT_EDGE (R20, R28): one rising edge of the time input. -/
  | timeInputEdge
  /-- RAW_MINUTE_TICK (R21): the time input runs on to the edge that emits the raw minute tick. -/
  | rawMinuteTick
  /-- INPUT_LOST (R29): the 1 ms measure completes with no edge. -/
  | inputLost
  /-- KIT_PACKET (R123, R124): characters the modem passes, as received. -/
  | kitPacket (chars : List LineChar)
  /-- FRAME_END_STROBE (R125). -/
  | frameEndStrobe
  /-- STAMP_OVERDUE (R126): the time input runs on to the count that marks a check-in overdue. -/
  | stampOverdue
  /-- EARLIEST_START (R129): the time input runs on to a SCHEDULED channel's earliest start. -/
  | earliestStart
  /-- LATEST_START_PASSED (R130): the time input runs on past a READY channel's latest start. -/
  | latestStartPassed
  /-- TRANSMIT_DONE_STROBE (R133). -/
  | transmitDoneStrobe
  /-- TRANSMIT_TIMEOUT (R134): the time input runs on to key-on plus T. -/
  | transmitTimeout
  /-- MESSAGE_WRITE (R164): a write transaction to a bus address. -/
  | messageWrite (address : BitVec 7) (bytes : List Byte)
  /-- COLLIDING_WRITE (R166): a write transaction to a bus address while BUSY is set. -/
  | collidingWrite (address : BitVec 7) (bytes : List Byte)
  /-- STATUS_READ (R167): a read transaction of some number of bytes from a bus address. -/
  | statusRead (address : BitVec 7) (count : Nat)
  /-- ENROL (R84). -/
  | enrol (kit : KitId) (cls : Byte) (outstanding : BitVec 32)
  /-- TOP_UP (R85). -/
  | topUp (kit : KitId) (amount : BitVec 24)
  /-- ADJUST (R86), the minutes in two's complement. -/
  | adjust (kit : KitId) (minutes : BitVec 24)
  /-- SUSPEND (R87). -/
  | suspend (kit : KitId)
  /-- RESUME (R88). -/
  | resume (kit : KitId)
  /-- CHANGE_CLASS (R89). -/
  | changeClass (kit : KitId) (cls : Byte)
  /-- RETIRE (R90). -/
  | retire (kit : KitId)
  /-- RETIRE_SLOT (R91). -/
  | retireSlot (slot : BitVec 16)
  /-- RESTORE (R92, R93). -/
  | restore (image : RecordImage)
  /-- READ_RECORD (R17). -/
  | readRecord (kit : KitId)
  /-- READ_SLOT (R17). -/
  | readSlot (slot : BitVec 16)
  /-- FETCH_MARKED (R18). -/
  | fetchMarked
  /-- COMMAND_TURN (R82): a turn granted to COMMAND carries out the held command. -/
  | commandTurn
  /-- SEARCH_STEP (R65): a turn granted to the owner of an in-flight full search. -/
  | searchStep
  /-- USING_TURN (R66): the turn after a search has found its slot. -/
  | usingTurn
  /-- CHECK_IN_TURN (R103): a turn granted to CHECK-IN for the head of the arrival queue. -/
  | checkInTurn
  /-- SWEEP_VISIT (R139): a turn granted to SWEEP. -/
  | sweepVisit
  /-- EVACUATION_MOVE (R157): a turn granted to EVACUATION. -/
  | evacuationMove
  /-- SET_TIME (R23). -/
  | setTime (minute : BitVec 32)
  /-- ADVANCE_TIME (R24). -/
  | advanceTime (minutes : BitVec 16)
  /-- HOLD_TIME (R25). -/
  | holdTime (minutes : BitVec 16)
  /-- READ_TIME (R26). -/
  | readTime
  /-- SET_CLASS (R34). -/
  | setClass (block : ClassBlock)
  /-- READ_CLASS (R35). -/
  | readClass (cls : Byte)
  /-- SET_SWEEP (R145). -/
  | setSweep (rate : Byte)
  /-- READ_SWEEP (R145). -/
  | readSweep
  /-- SET_LINK (R118). -/
  | setLink (block : LinkBlock)
  /-- READ_LINK (R119). -/
  | readLink
  /-- LINK_ENABLE (R120). -/
  | linkEnable
  /-- LINK_DISABLE (R120). -/
  | linkDisable
  /-- READ_LINK_COUNTERS (R135). -/
  | readLinkCounters
  /-- EVACUATE_BANK (R155). -/
  | evacuateBank (bank : Byte)
  /-- CANCEL_EVACUATION (R159). -/
  | cancelEvacuation
  /-- RETURN_BANK (R160). -/
  | returnBank (bank : Byte)
  /-- READ_ERROR_REPORT (R151). -/
  | readErrorReport
  /-- CLEAR_ERROR_REPORT (R151). -/
  | clearErrorReport
  /-- INJECT_RECORD (R152). -/
  | injectRecord (slot : BitVec 16) (mode : Byte)
  /-- INJECT_BUCKET (R152). -/
  | injectBucket (bucket : BitVec 16) (mode : Byte)
  /-- IDENTIFY (R171). -/
  | identify
  /-- READ_STATUS (R172). -/
  | readStatus
  /-- SET_ATTENTION (R170). -/
  | setAttention (mask : Byte)
  /-- CLEAR_COUNTERS (R173). -/
  | clearCounters
  /-- RESTART (R174). -/
  | restart
  /-- KIT_CHARACTER_ERROR (R123): a character received in error. -/
  | kitCharacterError
  deriving DecidableEq, Repr

end Sys2Proof
end

