-- ==== Sys2Proof/Decode.lean ====
section
/-! DEFINITION. The command a table word spells. No row of spec/opcode_table.json gives bits (spec 98_reader.md:
62 rows, none read into fixed bits or fields), so no word spells a command. The bytes of station messages are
judged by the station port (Sys2Proof/Machine/Port.lean), since judging them is the part's own behaviour. -/

namespace Sys2Proof

/-- No row gives bits: no word is a command. -/
def decodeTableWord (_nbits _w : Nat) : Option Instr := none

end Sys2Proof
end

