-- ==== Sys2Proof/Config.lean ====
section
/-! DEFINITION. The fixed figures of the CK-4100, and one free value: the word of a record body in which a field
lies. -/

namespace Sys2Proof

/-- The fields of a record body (R1). -/
inductive RecordField where
  | kit | cls | expiry | reserve | residue | outstanding | paidTotal | issued | acknowledged | awaiting | lastCheckIn
  | drift | frozen | prior | lapseNoted | silenceNoted | marks
  deriving DecidableEq, Repr

end Sys2Proof

namespace Sys2Proof.Config

/-- The word of a record body in which a field lies; word 0 is the first. FREE VALUE (log 10): the manual divides a
body into words (R147) and does not say how. -/
opaque fieldWord : RecordField → Nat

/-- Record slots, numbered 0..4,095 (R9). -/
@[simp] abbrev slots : Nat := 4096

/-- Slots of one bank (R9). -/
@[simp] abbrev bankSlots : Nat := 1024

/-- Directory buckets, numbered 0..2,047 (R59). -/
@[simp] abbrev buckets : Nat := 2048

/-- Spill entries, numbered 0..31 (R60). -/
@[simp] abbrev spillEntries : Nat := 32

/-- Edges of the time input in one minute (R20). -/
@[simp] abbrev minuteEdges : Nat := 1966080

/-- The last station minute (R21, R22). -/
@[simp] abbrev maxMinute : Nat := 4200000000

/-- The highest minute SET TIME accepts (R23). -/
@[simp] abbrev maxSetMinute : Nat := 4000000000

/-- The cap of the hold count and of one ADVANCE TIME or HOLD TIME (R24, R25). -/
@[simp] abbrev maxHold : Nat := 1440

/-- The largest reserve (R38, R46). -/
@[simp] abbrev maxReserve : Nat := 1048575

/-- The largest horizon and the largest adjust (R33, R50). -/
@[simp] abbrev maxHorizon : Nat := 576000

/-- Where the paid total stops (R1). -/
@[simp] abbrev maxPaid : Nat := 4294967295

/-- Where the 16-bit counters stop (R63, R135, R148). -/
@[simp] abbrev maxCount : Nat := 65535

/-- The cap of the visit credits and of the sweep rate (R137, R138). -/
@[simp] abbrev maxCredits : Nat := 64

/-- The entries of the arrival queue (R125). -/
@[simp] abbrev queueLength : Nat := 16

/-- The reply channels, numbered 0..7 (R127). -/
@[simp] abbrev channels : Nat := 8

/-- The largest O, W, T and O + W (R118). -/
@[simp] abbrev maxDelay : Nat := 32000

/-- The waiting count at which a requester has aged (R78). -/
@[simp] abbrev agedCount : Nat := 16

/-- Where a waiting count stops (R77). -/
@[simp] abbrev maxWait : Nat := 255

/-- The longest run of check-in turns while others wait (R77, R78). -/
@[simp] abbrev checkInRun : Nat := 4

/-- Slots examined by one search step (R65). -/
@[simp] abbrev searchSlots : Nat := 64

/-- Bytes of the receive buffer (R164). -/
@[simp] abbrev bufferBytes : Nat := 64

/-- The leap of the issued serial at RESTORE (R95). -/
@[simp] abbrev serialLeap : Serial := 1024

end Sys2Proof.Config
end

