-- ==== Sys2Proof/Machine/State.lean ====
section
/-! DEFINITION. Everything the manual gives the CK-4100 to hold, block by block as the table of functional
blocks lists them (spec 00_scope.md, section 2), the queue of waiting commands, and the state after power-on. -/

namespace Sys2Proof.Machine

/-- Four like things, numbered 0..3: the banks (R9), the ways of a bucket (R59). -/
structure Four (α : Type) where
  b0 : α
  b1 : α
  b2 : α
  b3 : α
  deriving DecidableEq, Repr

/-! ## Record memory and slot tags -/

/-- The lifecycle of a slot (section 1.2). -/
inductive Lifecycle where
  | free | enrolled | running | suspended | owned
  deriving DecidableEq, Repr

/-- The standing of a kit, never stored (R54). -/
inductive Standing where
  | fresh | credit | grace | locked | barred | owned | keep
  deriving DecidableEq, Repr

/-- The set of marks of a record (R14). -/
structure Marks where
  changed : Bool
  delivered : Bool
  lapsed : Bool
  silent : Bool
  tamper : Bool
  drift : Bool
  deriving DecidableEq, Repr

/-- No mark set. -/
def Marks.none : Marks := ⟨false, false, false, false, false, false⟩

/-- The fields of a kit record (R1). An optional field that is absent is `none`. -/
structure Record where
  kit : KitId
  cls : Nat
  expiry : Nat
  reserve : Nat
  residue : Nat
  outstanding : Nat
  paidTotal : Nat
  issued : Serial
  acknowledged : Serial
  awaiting : Option Serial
  lastCheckIn : Option Nat
  drift : Int
  frozen : Option Nat
  prior : Option Lifecycle
  lapseNoted : Bool
  silenceNoted : Bool
  marks : Marks
  deriving DecidableEq, Repr

/-- The cleared body that start-up initialisation, RETURN BANK and a scrub write (R140, R154, R160).
DESIGN CHOICE (log 12): every field 0 or absent. -/
def Record.cleared : Record where
  kit := 0
  cls := 0
  expiry := 0
  reserve := 0
  residue := 0
  outstanding := 0
  paidTotal := 0
  issued := 0
  acknowledged := 0
  awaiting := .none
  lastCheckIn := .none
  drift := 0
  frozen := .none
  prior := .none
  lapseNoted := false
  silenceNoted := false
  marks := Marks.none

/-- What a read through the correction code finds (R147). -/
inductive Check where
  | good | single | double
  deriving DecidableEq, Repr

/-- A record body in checked memory, word by word (R147): the data as it was written, the data as it lies stored, and
the words in which the next read finds an error, each with what it finds, as (number, outcome) pairs in canonical
form. A word not listed is good. In which word a field lies is a free value, `Config.fieldWord` (log 10). -/
structure StoredBody where
  written : Record
  stored : Record
  words : List (Nat × Check)
  deriving DecidableEq, Repr

/-- A cleared body with good check values (R154). -/
def StoredBody.cleared : StoredBody := ⟨Record.cleared, Record.cleared, []⟩

/-- The directory location of a slot tag (R8): none, a way of a bucket, or a spill entry. -/
inductive Location where
  | nowhere
  | way (bucket : Nat) (way : Fin 4)
  | spill (entry : Nat)
  deriving DecidableEq, Repr

/-- A slot tag (R6). -/
structure Tag where
  lifecycle : Lifecycle
  damaged : Bool
  location : Location
  marked : Bool
  deriving DecidableEq, Repr

/-- The tag of a slot that holds no record (R6). -/
def Tag.cleared : Tag := ⟨.free, false, .nowhere, false⟩

/-- The states of a bank (R153). -/
inductive BankState where
  | initialising | inService | evacuating | outOfService
  deriving DecidableEq, Repr

/-- What the part keeps for one bank (R148, R153). -/
structure Bank where
  state : BankState
  free : Nat
  corrected : Nat
  deriving DecidableEq, Repr

/-- The record memory with its slot tag table and the BANK flag (R153). Bodies and tags are lists of
(slot, value) in canonical form; an unlisted slot has the cleared body and the cleared tag. -/
structure RecordMemory where
  banks : Four Bank
  bodies : List (Nat × StoredBody)
  tags : List (Nat × Tag)
  bankFlag : Bool
  deriving DecidableEq, Repr

/-! ## Directory -/

/-- What a way that is not empty holds (R59). -/
structure Entry where
  kit : KitId
  slot : Nat
  deriving DecidableEq, Repr

/-- A way: one word of checked memory (R59, R147). -/
structure StoredWay where
  written : Option Entry
  stored : Option Entry
  check : Check
  deriving DecidableEq, Repr

/-- An empty way with good check values (R154). -/
def StoredWay.empty : StoredWay := ⟨.none, .none, .good⟩

/-- The state of a bucket (R59): NORMAL, or REBUILDING with its marking pass number. -/
inductive BucketState where
  | normal
  | rebuilding (pass : BitVec 16)
  deriving DecidableEq, Repr

/-- A bucket (R59). -/
structure Bucket where
  ways : Four StoredWay
  state : BucketState
  deriving DecidableEq, Repr

/-- An empty NORMAL bucket (R154). -/
def Bucket.cleared : Bucket :=
  ⟨⟨StoredWay.empty, StoredWay.empty, StoredWay.empty, StoredWay.empty⟩, .normal⟩

/-- What a spill entry that is not empty holds (R60). -/
structure SpillEntry where
  kit : KitId
  slot : Nat
  home : Nat
  deriving DecidableEq, Repr

/-- The directory (R59, R60); unlisted buckets are empty and NORMAL, unlisted spill entries empty.
`clearing` is set until start-up initialisation has completed the directory (R154). -/
structure Directory where
  buckets : List (Nat × Bucket)
  spill : List (Nat × Option SpillEntry)
  clearing : Bool
  deriving DecidableEq, Repr

/-! ## Tariff table -/

/-- The five fields of a tariff class (R33). -/
structure TariffClass where
  price : Nat
  horizon : Nat
  grace : Nat
  silence : Nat
  drift : Nat
  deriving DecidableEq, Repr

/-- The reset values of a class (R33). -/
def TariffClass.reset : TariffClass := ⟨0, 43200, 0, 0, 0⟩

/-! ## Time unit -/

/-- The clock state (R22). -/
inductive ClockState where
  | unset | running
  deriving DecidableEq, Repr

/-- The time unit (the table at the head of chapter 2). -/
structure TimeUnit where
  divider : Nat
  clock : ClockState
  minute : Nat
  hold : Nat
  timer : Stamp
  inputLost : Bool
  deriving DecidableEq, Repr

/-! ## Record engine -/

/-- The four requesters of the record memory port (R76). -/
inductive Requester where
  | checkIn | command | evacuation | sweep
  deriving DecidableEq, Repr

/-- The waiting count of each requester (R77). -/
structure WaitCounts where
  checkIn : Nat
  command : Nat
  evacuation : Nat
  sweep : Nat
  deriving DecidableEq, Repr

/-- The record commands with their parameters (R80). -/
inductive RecordCommand where
  | enrol (kit : KitId) (cls : Byte) (outstanding : BitVec 32)
  | topUp (kit : KitId) (amount : BitVec 24)
  | adjust (kit : KitId) (minutes : BitVec 24)
  | suspend (kit : KitId)
  | resume (kit : KitId)
  | changeClass (kit : KitId) (cls : Byte)
  | retire (kit : KitId)
  | retireSlot (slot : BitVec 16)
  | restore (image : RecordImage)
  | readRecord (kit : KitId)
  | readSlot (slot : BitVec 16)
  | fetchMarked
  deriving DecidableEq, Repr

/-- Every command of the station port (section 11.2): a record command, or one the port executes itself. -/
inductive HostCommand where
  | record (command : RecordCommand)
  | setTime (minute : BitVec 32)
  | advanceTime (minutes : BitVec 16)
  | holdTime (minutes : BitVec 16)
  | readTime
  | setClass (block : ClassBlock)
  | readClass (cls : Byte)
  | setSweep (rate : Byte)
  | readSweep
  | setLink (block : LinkBlock)
  | readLink
  | linkEnable
  | linkDisable
  | readLinkCounters
  | evacuateBank (bank : Byte)
  | cancelEvacuation
  | returnBank (bank : Byte)
  | readErrorReport
  | clearErrorReport
  | injectRecord (slot : BitVec 16) (mode : Byte)
  | injectBucket (bucket : BitVec 16) (mode : Byte)
  | identify
  | readStatus
  | setAttention (mask : Byte)
  | clearCounters
  | restart
  deriving DecidableEq, Repr

/-- An in-flight full search (R65); its owner is the field of the engine it stands in. -/
structure Search where
  kit : KitId
  home : Nat
  next : Nat
  found : Option Nat
  deriving DecidableEq, Repr

/-- The payload of a check-in (R101). -/
structure CheckIn where
  kit : KitId
  serial : Byte
  acknowledged : Serial
  remaining : BitVec 24
  flags : Byte
  deriving DecidableEq, Repr

/-- An entry of the arrival queue, or the check-in in service (R125, R126). -/
structure Arrival where
  checkIn : CheckIn
  stamp : Stamp
  overdue : Bool
  deriving DecidableEq, Repr

/-- A check-in turn that was in progress when the link left ENABLED (R116), the model's own: the check-in it serves,
the station minute it read at its start (R27), and the arbiter's counts as its grant left them. DESIGN CHOICE
(log 31). -/
structure BegunTurn where
  arrival : Arrival
  now : Option Nat
  waits : WaitCounts
  consecutive : Nat
  deriving DecidableEq, Repr

/-- The record engine (R10, R12, R16, R19, R65, R77, R80, section 9.7), with the check-in turn the link's leaving
ENABLED found in progress (R116). -/
structure RecordEngine where
  waits : WaitCounts
  consecutive : Nat
  held : Option RecordCommand
  commandSearch : Option Search
  checkInSearch : Option Search
  allocPtr : Nat
  fetchCursor : Nat
  enrolled : Nat
  running : Nat
  suspended : Nat
  owned : Nat
  damaged : Nat
  marked : Nat
  movesMade : Nat
  begun : Option BegunTurn
  deriving DecidableEq, Repr

/-! ## Kit link -/

/-- The bit rates of the serial pair (R118). -/
inductive BitRate where
  | r9600 | r19200 | r38400 | r57600
  deriving DecidableEq, Repr

/-- The parities of the serial pair (R118). -/
inductive Parity where
  | without | even | odd
  deriving DecidableEq, Repr

/-- The seven configuration items of the kit link (R118). -/
structure LinkConfig where
  bitRate : BitRate
  parity : Parity
  twoStopBits : Bool
  openDelay : Nat
  window : Nat
  timeout : Nat
  keyActiveHigh : Bool
  deriving DecidableEq, Repr

/-- The link state (R120). -/
inductive LinkState where
  | disabled | enabled | faulted
  deriving DecidableEq, Repr

/-- The packet parser (R124), with the part of the packet it holds. -/
inductive Parser where
  | hunt
  | length
  | payload (length : Byte) (got : List Byte)
  | crc (length : Byte) (payload : List Byte) (first : Option Byte)
  deriving DecidableEq, Repr

/-- A grant (R102). -/
structure Grant where
  kit : KitId
  serial : Serial
  standing : Standing
  minutes : Nat
  grace : Nat
  echo : Byte
  deriving DecidableEq, Repr

/-- The states of a reply channel that holds a grant (R127). -/
inductive Phase where
  | scheduled | ready | sending
  deriving DecidableEq, Repr

/-- A reply channel that is not FREE (R127). -/
structure Channel where
  phase : Phase
  grant : Grant
  stamp : Stamp
  earliest : Stamp
  latest : Stamp
  deriving DecidableEq, Repr

/-- The transmitter (section 7.5): IDLE, or SENDING a channel since a key-on time. -/
inductive Transmitter where
  | idle
  | sending (channel : Nat) (keyOn : Stamp)
  deriving DecidableEq, Repr

/-- The twelve link counters (R135). -/
structure LinkCounters where
  accepted : Nat
  bad : Nat
  parity : Nat
  queueFull : Nat
  unknown : Nat
  late : Nat
  collided : Nat
  noChannel : Nat
  suppressed : Nat
  sent : Nat
  disorder : Nat
  transmitTimeout : Nat
  deriving DecidableEq, Repr

/-- All twelve counters at 0 (R136, R173). -/
def LinkCounters.zero : LinkCounters := ⟨0, 0, 0, 0, 0, 0, 0, 0, 0, 0, 0, 0⟩

/-- The kit link (chapter 7). Channels are (number, channel) pairs in canonical form; an unlisted channel is
FREE. -/
structure KitLink where
  config : LinkConfig
  state : LinkState
  parser : Parser
  stamp : Option Stamp
  queue : List Arrival
  inService : Option Arrival
  channels : List (Nat × Option Channel)
  tx : Transmitter
  counters : LinkCounters
  deriving DecidableEq, Repr

/-! ## Sweep unit -/

/-- The sweep unit (R137). -/
structure SweepUnit where
  rate : Nat
  credits : Nat
  position : Nat
  pass : BitVec 16
  deriving DecidableEq, Repr

/-! ## Integrity report -/

/-- Where an uncorrectable error was met, with its kind (R150). -/
inductive ErrorPlace where
  | record (slot : Nat)
  | directory (bucket : Nat)
  deriving DecidableEq, Repr

/-- The error the first-error report holds (R150). -/
structure ErrorReport where
  place : ErrorPlace
  metBy : Requester
  minute : Option Nat
  deriving DecidableEq, Repr

/-- The mode of an injection (R152). -/
inductive InjectMode where
  | single | double
  deriving DecidableEq, Repr

/-- The target of an injection (R152). -/
inductive InjectTarget where
  | record (slot : Nat)
  | bucket (bucket : Nat)
  deriving DecidableEq, Repr

/-- An armed injection (R152). -/
structure Injection where
  target : InjectTarget
  mode : InjectMode
  deriving DecidableEq, Repr

/-- The integrity report (R63, R150, R152). -/
structure Integrity where
  report : Option ErrorReport
  recordAgain : Bool
  directoryAgain : Bool
  dirCorrected : Nat
  armed : Option Injection
  deriving DecidableEq, Repr

/-! ## Station port -/

/-- The start-up cause (R168). -/
inductive StartCause where
  | powerOn | resetPin
  deriving DecidableEq, Repr

/-- The station port (R162, R164, R168, R169). BUSY and ATTENTION are views (log 19). `acks` is what the port drove on
the bus in the last transaction, the acknowledgement of its address first (R162; log 18). -/
structure StationPort where
  strap : BitVec 2
  rx : List Byte
  resp : List Byte
  responseReady : Bool
  collision : Bool
  overrun : Bool
  notReady : Bool
  mask : BitVec 6
  cause : StartCause
  acks : List Bool
  deriving DecidableEq, Repr

/-! ## The machine -/

/-- The state of the part: its blocks, the bytes the last read transaction returned to the host (the model's
own, log 18), and the queue of commands that wait, first in, first out. -/
structure State where
  time : TimeUnit
  tariff : List (Nat × TariffClass)
  memory : RecordMemory
  dir : Directory
  engine : RecordEngine
  link : KitLink
  sweep : SweepUnit
  integrity : Integrity
  port : StationPort
  hostRead : List Byte
  pending : List Instr
  deriving DecidableEq, Repr

/-- Reasons the machine stops with a fault. There is none: no event of the manual stops the part
(INVENTORY.md, Faults). -/
inductive Fault where
  deriving DecidableEq, Repr

/-- Reasons a command is refused by the model. -/
inductive Refusal where
  /-- A command whose meaning is not written. Raised by an arm of exec only; safe, since nothing is claimed of
  the command. No arm raises it. -/
  | notModelled (mnemonic : String)
  deriving DecidableEq, Repr

/-- The time unit after power-on and the reset pin (R32). -/
def TimeUnit.reset : TimeUnit := ⟨0, .unset, 0, 0, 0, false⟩

/-- A bank after power-on and the reset pin (R161). -/
def Bank.reset : Bank := ⟨.initialising, 0, 0⟩

/-- The record memory after power-on and the reset pin: every tag as R6 gives it for an INITIALISING bank. -/
def RecordMemory.reset : RecordMemory where
  banks := ⟨Bank.reset, Bank.reset, Bank.reset, Bank.reset⟩
  bodies := []
  tags := []
  bankFlag := false

/-- The directory after power-on and the reset pin (R74), its clearing under way (R154). -/
def Directory.reset : Directory := ⟨[], [], true⟩

/-- The record engine after power-on and the reset pin (R11, R13, R16, R19, R74, R79, R161). -/
def RecordEngine.reset : RecordEngine where
  waits := ⟨0, 0, 0, 0⟩
  consecutive := 0
  held := .none
  commandSearch := .none
  checkInSearch := .none
  allocPtr := 0
  fetchCursor := 0
  enrolled := 0
  running := 0
  suspended := 0
  owned := 0
  damaged := 0
  marked := 0
  movesMade := 0
  begun := .none

/-- The reset configuration of the kit link (R118). -/
def LinkConfig.reset : LinkConfig where
  bitRate := .r19200
  parity := .without
  twoStopBits := false
  openDelay := 3277
  window := 3277
  timeout := 6554
  keyActiveHigh := true

/-- The kit link after power-on and the reset pin (R136). -/
def KitLink.reset : KitLink where
  config := LinkConfig.reset
  state := .disabled
  parser := .hunt
  stamp := .none
  queue := []
  inService := .none
  channels := []
  tx := .idle
  counters := LinkCounters.zero

/-- The sweep unit after power-on and the reset pin (R137). -/
def SweepUnit.reset : SweepUnit := ⟨8, 0, 0, 0⟩

/-- The integrity report after power-on and the reset pin (R63, R150, R152). -/
def Integrity.reset : Integrity := ⟨.none, false, false, 0, .none⟩

/-- The station port after power-on (R168, R169). DESIGN CHOICE (log 17): strap value 0; the rows POWER_ON and
RESET_PIN carry the value sampled. -/
def StationPort.reset : StationPort where
  strap := 0
  rx := []
  resp := []
  responseReady := false
  collision := false
  overrun := false
  notReady := true
  mask := 1
  cause := .powerOn
  acks := []

/-- The machine right after power-on: start-up initialisation is under way and nothing waits. -/
def State.reset : State where
  time := TimeUnit.reset
  tariff := []
  memory := RecordMemory.reset
  dir := Directory.reset
  engine := RecordEngine.reset
  link := KitLink.reset
  sweep := SweepUnit.reset
  integrity := Integrity.reset
  port := StationPort.reset
  hostRead := []
  pending := []

end Sys2Proof.Machine
end

