-- ==== Sys2Proof/Machine/Cells.lean ====
section
/-! DEFINITION. Numbered stores as lists of (number, value) in one canonical form (INVENTORY.md, Memory and
ordering), the four-part values, and the small arithmetic the blocks share. -/

namespace Sys2Proof.Machine

/-- What number `a` of a store holds; a number that is not listed holds `d`. -/
def cellRead {α : Type} (d : α) : List (Nat × α) → Nat → α
  | [], _ => d
  | (k, v) :: m, a => if k = a then v else cellRead d m a

/-- Number `a` of a store takes the value `v`. Writing what an unlisted number holds removes the number. -/
def cellWrite {α : Type} [DecidableEq α] (d : α) : List (Nat × α) → Nat → α → List (Nat × α)
  | [], a, v => if v = d then [] else [(a, v)]
  | (k, w) :: m, a, v =>
    if a < k then (if v = d then (k, w) :: m else (a, v) :: (k, w) :: m)
    else if a = k then (if v = d then m else (a, v) :: m)
    else (k, w) :: cellWrite d m a v

/-- Every number of a store is put through `f` (which keeps the value of an unlisted number). -/
def cellMap {α : Type} [DecidableEq α] (d : α) (f : α → α) (m : List (Nat × α)) : List (Nat × α) :=
  (m.map fun e => (e.1, f e.2)).filter fun e => decide (e.2 ≠ d)

/-- The numbers that satisfy `p` return to what an unlisted number holds. -/
def cellErase {α : Type} (p : Nat → Bool) (m : List (Nat × α)) : List (Nat × α) :=
  m.filter fun e => !p e.1

/-- The canonical form: numbers strictly rising, and no listed value equal to what an unlisted number holds. -/
abbrev cellsWf {α : Type} (d : α) (m : List (Nat × α)) : Prop :=
  m.Pairwise (fun e f => e.1 < f.1) ∧ ∀ e ∈ m, e.2 ≠ d

/-- Part `i` of four. -/
def Four.get {α : Type} (f : Four α) (i : Fin 4) : α :=
  match i with
  | 0 => f.b0
  | 1 => f.b1
  | 2 => f.b2
  | 3 => f.b3

/-- Part `i` of four replaced. -/
def Four.set {α : Type} (f : Four α) (i : Fin 4) (v : α) : Four α :=
  match i with
  | 0 => { f with b0 := v }
  | 1 => { f with b1 := v }
  | 2 => { f with b2 := v }
  | 3 => { f with b3 := v }

/-- The lowest-numbered of four parts that satisfies `p`. -/
def Four.lowest {α : Type} (f : Four α) (p : α → Bool) : Option (Fin 4) :=
  if p f.b0 then some 0 else if p f.b1 then some 1 else if p f.b2 then some 2
  else if p f.b3 then some 3 else none

/-- A counter that stops at 65,535 (R63, R135, R148) rises by 1. -/
def bump (n : Nat) : Nat := min (n + 1) Config.maxCount

/-- 1 when the condition holds, else 0. -/
def oneIf (b : Bool) : Nat := if b then 1 else 0

/-- The first number, of `n` numbers taken in rising order from `a` and wrapping at `size` to 0, that
satisfies `p`. -/
def scan (size : Nat) (p : Nat → Bool) : Nat → Nat → Option Nat
  | 0, _ => none
  | n + 1, a => if p a then some a else scan size p n ((a + 1) % size)

end Sys2Proof.Machine
end

