-- ==== Sys2Proof/Machine/Operands.lean ====
section
/-! DEFINITION. The byte forms of chapter 11: field encodings and codes (R176), the record image (R177), the
message of every command and how a message's parameters are read, the blocks of responses, the packets of the
kit link with their CRC (R124) and their framing (R123). -/

namespace Sys2Proof.Machine

/-! ## Fields -/

/-- The `n` bytes of a field, most significant first (R176). -/
def beBytes : Nat → Nat → List Byte
  | 0, _ => []
  | n + 1, x => BitVec.ofNat 8 (x / 256 ^ n) :: beBytes n (x % 256 ^ n)

/-- The number that the bytes of a field give, most significant first. -/
def ofBytes (bs : List Byte) : Nat := bs.foldl (fun acc b => acc * 256 + b.toNat) 0

/-- A signed field of `n` bytes, in two's complement (R176). -/
def signedBytes (n : Nat) (x : Int) : List Byte := beBytes n (x % (256 ^ n : Nat)).toNat

/-- The field of `n` bytes at an offset of a message's parameters (R176). -/
def fieldAt (offset n : Nat) (bs : List Byte) : Nat := ofBytes ((bs.drop offset).take n)

/-- A set-or-clear byte (01h set, 00h clear). -/
def flagByte (b : Bool) : Byte := if b then 1 else 0

/-- The check byte that makes a message or response sum to 0 mod 256 (R163). -/
def checkByte (bs : List Byte) : Byte := 0 - bs.foldl (· + ·) 0

/-- A length byte, the content and the check byte (R163): a message from its code and parameters, or a response
from its code, status and fields. -/
def frame (content : List Byte) : List Byte :=
  let body := BitVec.ofNat 8 (content.length + 1) :: content
  body ++ [checkByte body]

/-! ## Codes of R176 -/

/-- The codes of the lifecycles. -/
def Lifecycle.code : Lifecycle → Byte
  | .free => 0
  | .enrolled => 1
  | .running => 2
  | .suspended => 3
  | .owned => 4

/-- The lifecycle a code names. -/
def lifecycleOf (b : Byte) : Option Lifecycle :=
  match b.toNat with
  | 0 => some .free
  | 1 => some .enrolled
  | 2 => some .running
  | 3 => some .suspended
  | 4 => some .owned
  | _ => none

/-- The codes of the standings (R54); 0 where there is no standing (R177). -/
def standingCode : Option Standing → Byte
  | none => 0
  | some .fresh => 1
  | some .credit => 2
  | some .grace => 3
  | some .locked => 4
  | some .barred => 5
  | some .owned => 6
  | some .keep => 7

/-- The codes of the clock state. -/
def ClockState.code : ClockState → Byte
  | .unset => 0
  | .running => 1

/-- The codes of the link state. -/
def LinkState.code : LinkState → Byte
  | .disabled => 0
  | .enabled => 1
  | .faulted => 2

/-- The codes of the bank state. -/
def BankState.code : BankState → Byte
  | .initialising => 0
  | .inService => 1
  | .evacuating => 2
  | .outOfService => 3

/-- The codes of the bit rate. -/
def BitRate.code : BitRate → Byte
  | .r9600 => 0
  | .r19200 => 1
  | .r38400 => 2
  | .r57600 => 3

/-- The bit rate a code names. -/
def bitRateOf (b : Byte) : Option BitRate :=
  match b.toNat with
  | 0 => some .r9600
  | 1 => some .r19200
  | 2 => some .r38400
  | 3 => some .r57600
  | _ => none

/-- The codes of the parity. -/
def Parity.code : Parity → Byte
  | .without => 0
  | .even => 1
  | .odd => 2

/-- The parity a code names. -/
def parityOf (b : Byte) : Option Parity :=
  match b.toNat with
  | 0 => some .without
  | 1 => some .even
  | 2 => some .odd
  | _ => none

/-- The stop bits a code names: 01h or 02h. -/
def twoStopBitsOf (b : Byte) : Option Bool :=
  match b.toNat with
  | 1 => some false
  | 2 => some true
  | _ => none

/-- The key line active level a code names: 00h low, 01h high. -/
def keyLevelOf (b : Byte) : Option Bool :=
  match b.toNat with
  | 0 => some false
  | 1 => some true
  | _ => none

/-- The codes of the injection mode. -/
def InjectMode.code : InjectMode → Byte
  | .single => 1
  | .double => 2

/-- The injection mode a code names. -/
def injectModeOf (b : Byte) : Option InjectMode :=
  match b.toNat with
  | 1 => some .single
  | 2 => some .double
  | _ => none

/-- The codes of the requester that met an error. -/
def Requester.code : Requester → Byte
  | .checkIn => 0
  | .command => 1
  | .sweep => 2
  | .evacuation => 3

/-- The marks byte: bit 0 CHANGED, 1 DELIVERED, 2 LAPSED, 3 SILENT, 4 TAMPER, 5 DRIFT. -/
def Marks.toByte (m : Marks) : Byte :=
  BitVec.ofNat 8 (oneIf m.changed + 2 * oneIf m.delivered + 4 * oneIf m.lapsed + 8 * oneIf m.silent
    + 16 * oneIf m.tamper + 32 * oneIf m.drift)

/-- The marks that bits 0 to 5 of a byte name. -/
def marksOf (b : Byte) : Marks :=
  ⟨b.getLsbD 0, b.getLsbD 1, b.getLsbD 2, b.getLsbD 3, b.getLsbD 4, b.getLsbD 5⟩

/-- Some mark is set. -/
def Marks.any (m : Marks) : Bool :=
  m.changed || m.delivered || m.lapsed || m.silent || m.tamper || m.drift

/-! ## Status codes (section 11.2) -/

/-- The statuses of a response. -/
inductive Status where
  | ok | badMessage | unknownCommand | badValue | notReady | clockUnset | notFound | kitExists | tableFull
  | directoryFull | rebuilding | classClosed | wrongLifecycle | creditFull | recordDamaged | noRoom | wrongState
  deriving DecidableEq, Repr

/-- The status codes. -/
def Status.code : Status → Byte
  | .ok => 0x00
  | .badMessage => 0x01
  | .unknownCommand => 0x02
  | .badValue => 0x03
  | .notReady => 0x04
  | .clockUnset => 0x05
  | .notFound => 0x06
  | .kitExists => 0x07
  | .tableFull => 0x08
  | .directoryFull => 0x09
  | .rebuilding => 0x0A
  | .classClosed => 0x0B
  | .wrongLifecycle => 0x0C
  | .creditFull => 0x0D
  | .recordDamaged => 0x0E
  | .noRoom => 0x0F
  | .wrongState => 0x10

/-! ## The record image (R177) -/

/-- The 47 bytes of a record image, field by field at the offsets of R177. -/
def imageBytes (i : RecordImage) : List Byte :=
  beBytes 2 i.slot.toNat ++ [i.lifecycle, i.tag] ++ beBytes 2 i.location.toNat ++ beBytes 4 i.kit.toNat
    ++ [i.cls, i.presence, i.marks] ++ beBytes 4 i.expiry.toNat ++ beBytes 3 i.reserve.toNat
    ++ beBytes 2 i.residue.toNat ++ beBytes 4 i.outstanding.toNat ++ beBytes 4 i.paidTotal.toNat
    ++ beBytes 2 i.issued.toNat ++ beBytes 2 i.acknowledged.toNat ++ beBytes 2 i.awaiting.toNat
    ++ beBytes 4 i.lastCheckIn.toNat ++ beBytes 2 i.drift.toNat ++ beBytes 3 i.frozen.toNat
    ++ [i.prior, i.standing]

/-- The record image that 47 bytes give. -/
def imageOf (bs : List Byte) : RecordImage where
  slot := BitVec.ofNat 16 (fieldAt 0 2 bs)
  lifecycle := BitVec.ofNat 8 (fieldAt 2 1 bs)
  tag := BitVec.ofNat 8 (fieldAt 3 1 bs)
  location := BitVec.ofNat 16 (fieldAt 4 2 bs)
  kit := BitVec.ofNat 32 (fieldAt 6 4 bs)
  cls := BitVec.ofNat 8 (fieldAt 10 1 bs)
  presence := BitVec.ofNat 8 (fieldAt 11 1 bs)
  marks := BitVec.ofNat 8 (fieldAt 12 1 bs)
  expiry := BitVec.ofNat 32 (fieldAt 13 4 bs)
  reserve := BitVec.ofNat 24 (fieldAt 17 3 bs)
  residue := BitVec.ofNat 16 (fieldAt 20 2 bs)
  outstanding := BitVec.ofNat 32 (fieldAt 22 4 bs)
  paidTotal := BitVec.ofNat 32 (fieldAt 26 4 bs)
  issued := BitVec.ofNat 16 (fieldAt 30 2 bs)
  acknowledged := BitVec.ofNat 16 (fieldAt 32 2 bs)
  awaiting := BitVec.ofNat 16 (fieldAt 34 2 bs)
  lastCheckIn := BitVec.ofNat 32 (fieldAt 36 4 bs)
  drift := BitVec.ofNat 16 (fieldAt 40 2 bs)
  frozen := BitVec.ofNat 24 (fieldAt 42 3 bs)
  prior := BitVec.ofNat 8 (fieldAt 45 1 bs)
  standing := BitVec.ofNat 8 (fieldAt 46 1 bs)

/-- The tag byte of an image: bit 7 DAMAGED, bits 1 and 0 the location kind. -/
def Tag.imageByte (t : Tag) : Byte :=
  let kind : Byte := match t.location with
    | .nowhere => 0
    | .way _ _ => 1
    | .spill _ => 2
  if t.damaged then 128 + kind else kind

/-- The location field of an image: bucket × 4 + way, or the spill entry, or 0. -/
def Location.imageField : Location → BitVec 16
  | .nowhere => 0
  | .way b w => BitVec.ofNat 16 (b * 4 + w.val)
  | .spill e => BitVec.ofNat 16 e

/-- The presence byte of an image (R177). -/
def Record.presenceByte (r : Record) : Byte :=
  BitVec.ofNat 8 (oneIf r.awaiting.isSome + 2 * oneIf r.lastCheckIn.isSome + 4 * oneIf r.frozen.isSome
    + 8 * oneIf r.prior.isSome + 16 * oneIf r.lapseNoted + 32 * oneIf r.silenceNoted)

/-- The code of an optional lifecycle, 0 when absent (R176). -/
def priorCode : Option Lifecycle → Byte
  | none => 0
  | some l => l.code

/-- The record image of a slot (R177): absent optional values are 0 and their presence bit tells them apart. -/
def recordImage (slot : Nat) (t : Tag) (r : Record) (st : Option Standing) : RecordImage where
  slot := BitVec.ofNat 16 slot
  lifecycle := t.lifecycle.code
  tag := t.imageByte
  location := t.location.imageField
  kit := r.kit
  cls := BitVec.ofNat 8 r.cls
  presence := r.presenceByte
  marks := r.marks.toByte
  expiry := BitVec.ofNat 32 r.expiry
  reserve := BitVec.ofNat 24 r.reserve
  residue := BitVec.ofNat 16 r.residue
  outstanding := BitVec.ofNat 32 r.outstanding
  paidTotal := BitVec.ofNat 32 r.paidTotal
  issued := r.issued
  acknowledged := r.acknowledged
  awaiting := r.awaiting.getD 0
  lastCheckIn := BitVec.ofNat 32 (r.lastCheckIn.getD 0)
  drift := BitVec.ofInt 16 r.drift
  frozen := BitVec.ofNat 24 (r.frozen.getD 0)
  prior := priorCode r.prior
  standing := standingCode st

/-- The image READ SLOT returns for a FREE slot (R17, R177): the slot number, every other field 0. -/
def freeImage (slot : Nat) : RecordImage :=
  recordImage slot Tag.cleared Record.cleared none

/-! ## Commands (section 11.2) -/

/-- The command code of a record command. -/
def RecordCommand.code : RecordCommand → Byte
  | .enrol _ _ _ => 0x10
  | .topUp _ _ => 0x11
  | .adjust _ _ => 0x12
  | .suspend _ => 0x13
  | .resume _ => 0x14
  | .changeClass _ _ => 0x15
  | .retire _ => 0x16
  | .retireSlot _ => 0x17
  | .restore _ => 0x18
  | .readRecord _ => 0x19
  | .readSlot _ => 0x1A
  | .fetchMarked => 0x1B

/-- The command code of a command. -/
def HostCommand.code : HostCommand → Byte
  | .record c => c.code
  | .setTime _ => 0x20
  | .advanceTime _ => 0x21
  | .holdTime _ => 0x22
  | .readTime => 0x23
  | .setClass _ => 0x28
  | .readClass _ => 0x29
  | .setSweep _ => 0x2A
  | .readSweep => 0x2B
  | .setLink _ => 0x30
  | .readLink => 0x31
  | .linkEnable => 0x32
  | .linkDisable => 0x33
  | .readLinkCounters => 0x34
  | .evacuateBank _ => 0x38
  | .cancelEvacuation => 0x39
  | .returnBank _ => 0x3A
  | .readErrorReport => 0x40
  | .clearErrorReport => 0x41
  | .injectRecord _ _ => 0x42
  | .injectBucket _ _ => 0x43
  | .identify => 0x50
  | .readStatus => 0x51
  | .setAttention _ => 0x52
  | .clearCounters => 0x53
  | .restart => 0x54

/-- The parameter bytes of a record command, in order. -/
def RecordCommand.params : RecordCommand → List Byte
  | .enrol kit cls outstanding => beBytes 4 kit.toNat ++ [cls] ++ beBytes 4 outstanding.toNat
  | .topUp kit amount => beBytes 4 kit.toNat ++ beBytes 3 amount.toNat
  | .adjust kit minutes => beBytes 4 kit.toNat ++ beBytes 3 minutes.toNat
  | .suspend kit => beBytes 4 kit.toNat
  | .resume kit => beBytes 4 kit.toNat
  | .changeClass kit cls => beBytes 4 kit.toNat ++ [cls]
  | .retire kit => beBytes 4 kit.toNat
  | .retireSlot slot => beBytes 2 slot.toNat
  | .restore image => imageBytes image
  | .readRecord kit => beBytes 4 kit.toNat
  | .readSlot slot => beBytes 2 slot.toNat
  | .fetchMarked => []

/-- The parameter bytes of a class block. -/
def classBlockBytes (b : ClassBlock) : List Byte :=
  [b.cls] ++ beBytes 2 b.price.toNat ++ beBytes 3 b.horizon.toNat ++ beBytes 2 b.grace.toNat
    ++ beBytes 2 b.silence.toNat ++ beBytes 2 b.drift.toNat

/-- The parameter bytes of a link configuration. -/
def linkBlockBytes (b : LinkBlock) : List Byte :=
  [b.bitRate, b.parity, b.stopBits] ++ beBytes 2 b.openDelay.toNat ++ beBytes 2 b.window.toNat
    ++ beBytes 2 b.timeout.toNat ++ [b.keyLevel]

/-- The parameter bytes of a command, in order. -/
def HostCommand.params : HostCommand → List Byte
  | .record c => c.params
  | .setTime minute => beBytes 4 minute.toNat
  | .advanceTime minutes => beBytes 2 minutes.toNat
  | .holdTime minutes => beBytes 2 minutes.toNat
  | .setClass block => classBlockBytes block
  | .readClass cls => [cls]
  | .setSweep rate => [rate]
  | .setLink block => linkBlockBytes block
  | .evacuateBank bank => [bank]
  | .returnBank bank => [bank]
  | .injectRecord slot mode => beBytes 2 slot.toNat ++ [mode]
  | .injectBucket bucket mode => beBytes 2 bucket.toNat ++ [mode]
  | .setAttention mask => [mask]
  | .readTime | .readSweep | .readLink | .linkEnable | .linkDisable | .readLinkCounters => []
  | .cancelEvacuation | .readErrorReport | .clearErrorReport | .identify | .readStatus | .clearCounters => []
  | .restart => []

/-- The message of a command (R163): length, code, parameters, check byte. -/
def HostCommand.message (c : HostCommand) : List Byte := frame (c.code :: c.params)

/-- What a code and its parameters are found to be (R165 steps 1 and 2). -/
inductive Parsed where
  | unknown
  | badLength
  | command (c : HostCommand)
  deriving DecidableEq, Repr

/-- A known code's command, when its parameters have the fixed length of that command (R165 step 2). -/
def sized (n : Nat) (ps : List Byte) (c : HostCommand) : Parsed :=
  if ps.length = n then .command c else .badLength

/-- The class block that 12 parameter bytes give. -/
def classBlockOf (ps : List Byte) : ClassBlock where
  cls := BitVec.ofNat 8 (fieldAt 0 1 ps)
  price := BitVec.ofNat 16 (fieldAt 1 2 ps)
  horizon := BitVec.ofNat 24 (fieldAt 3 3 ps)
  grace := BitVec.ofNat 16 (fieldAt 6 2 ps)
  silence := BitVec.ofNat 16 (fieldAt 8 2 ps)
  drift := BitVec.ofNat 16 (fieldAt 10 2 ps)

/-- The link configuration that 10 parameter bytes give. -/
def linkBlockOf (ps : List Byte) : LinkBlock where
  bitRate := BitVec.ofNat 8 (fieldAt 0 1 ps)
  parity := BitVec.ofNat 8 (fieldAt 1 1 ps)
  stopBits := BitVec.ofNat 8 (fieldAt 2 1 ps)
  openDelay := BitVec.ofNat 16 (fieldAt 3 2 ps)
  window := BitVec.ofNat 16 (fieldAt 5 2 ps)
  timeout := BitVec.ofNat 16 (fieldAt 7 2 ps)
  keyLevel := BitVec.ofNat 8 (fieldAt 9 1 ps)

/-- The kit id at the head of the parameters. -/
def kitParam (ps : List Byte) : KitId := BitVec.ofNat 32 (fieldAt 0 4 ps)

/-- The 16-bit number at the head of the parameters. -/
def wordParam (ps : List Byte) : BitVec 16 := BitVec.ofNat 16 (fieldAt 0 2 ps)

/-- The byte at an offset of the parameters. -/
def byteParam (offset : Nat) (ps : List Byte) : Byte := BitVec.ofNat 8 (fieldAt offset 1 ps)

/-- The command a code and its parameters are, every parameter at its fixed offset (R165, R176). -/
def parseCommand (code : Byte) (ps : List Byte) : Parsed :=
  match code.toNat with
  | 0x10 => sized 9 ps (.record (.enrol (kitParam ps) (byteParam 4 ps) (BitVec.ofNat 32 (fieldAt 5 4 ps))))
  | 0x11 => sized 7 ps (.record (.topUp (kitParam ps) (BitVec.ofNat 24 (fieldAt 4 3 ps))))
  | 0x12 => sized 7 ps (.record (.adjust (kitParam ps) (BitVec.ofNat 24 (fieldAt 4 3 ps))))
  | 0x13 => sized 4 ps (.record (.suspend (kitParam ps)))
  | 0x14 => sized 4 ps (.record (.resume (kitParam ps)))
  | 0x15 => sized 5 ps (.record (.changeClass (kitParam ps) (byteParam 4 ps)))
  | 0x16 => sized 4 ps (.record (.retire (kitParam ps)))
  | 0x17 => sized 2 ps (.record (.retireSlot (wordParam ps)))
  | 0x18 => sized 47 ps (.record (.restore (imageOf ps)))
  | 0x19 => sized 4 ps (.record (.readRecord (kitParam ps)))
  | 0x1A => sized 2 ps (.record (.readSlot (wordParam ps)))
  | 0x1B => sized 0 ps (.record .fetchMarked)
  | 0x20 => sized 4 ps (.setTime (kitParam ps))
  | 0x21 => sized 2 ps (.advanceTime (wordParam ps))
  | 0x22 => sized 2 ps (.holdTime (wordParam ps))
  | 0x23 => sized 0 ps .readTime
  | 0x28 => sized 12 ps (.setClass (classBlockOf ps))
  | 0x29 => sized 1 ps (.readClass (byteParam 0 ps))
  | 0x2A => sized 1 ps (.setSweep (byteParam 0 ps))
  | 0x2B => sized 0 ps .readSweep
  | 0x30 => sized 10 ps (.setLink (linkBlockOf ps))
  | 0x31 => sized 0 ps .readLink
  | 0x32 => sized 0 ps .linkEnable
  | 0x33 => sized 0 ps .linkDisable
  | 0x34 => sized 0 ps .readLinkCounters
  | 0x38 => sized 1 ps (.evacuateBank (byteParam 0 ps))
  | 0x39 => sized 0 ps .cancelEvacuation
  | 0x3A => sized 1 ps (.returnBank (byteParam 0 ps))
  | 0x40 => sized 0 ps .readErrorReport
  | 0x41 => sized 0 ps .clearErrorReport
  | 0x42 => sized 3 ps (.injectRecord (wordParam ps) (byteParam 2 ps))
  | 0x43 => sized 3 ps (.injectBucket (wordParam ps) (byteParam 2 ps))
  | 0x50 => sized 0 ps .identify
  | 0x51 => sized 0 ps .readStatus
  | 0x52 => sized 1 ps (.setAttention (byteParam 0 ps))
  | 0x53 => sized 0 ps .clearCounters
  | 0x54 => sized 0 ps .restart
  | _ => .unknown

/-- What the bytes of a write transaction, its first byte among them, are found to be (R163, R164). -/
inductive Judged where
  /-- More than 64 data bytes. -/
  | tooLong
  /-- Not well framed; the code echoed is the second byte received, or 00h. -/
  | malformed (echo : Byte)
  /-- Well framed, with its code, its parameters, and whether further bytes followed. -/
  | framed (code : Byte) (params : List Byte) (more : Bool)
  deriving DecidableEq, Repr

/-- The first case of R164's table that holds. -/
def judge : List Byte → Judged
  | [] => .malformed 0
  | len :: rest =>
    if 64 < (len :: rest).length then .tooLong
    else if len.toNat < 2 ∨ 63 < len.toNat ∨ rest.length < len.toNat then .malformed (rest.headD 0)
    else if (len :: rest.take len.toNat).foldl (· + ·) 0 ≠ 0 then .malformed (rest.headD 0)
    else .framed (rest.headD 0) ((rest.take (len.toNat - 1)).drop 1) (decide (len.toNat < rest.length))

/-! ## Kit link packets (section 11.4) -/

/-- One bit of the CRC of R124, most significant first: polynomial x^16 + x^12 + x^5 + 1. -/
def crcBit (c : BitVec 16) : BitVec 16 :=
  if c.msb then (c <<< 1) ^^^ 0x1021#16 else c <<< 1

/-- One byte of the CRC of R124. -/
def crcByte (c : BitVec 16) (b : Byte) : BitVec 16 :=
  let x := c ^^^ (b.zeroExtend 16 <<< 8)
  crcBit (crcBit (crcBit (crcBit (crcBit (crcBit (crcBit (crcBit x)))))))

/-- The CRC of R124 over some bytes, from FFFFh, neither reflected nor inverted. -/
def crc (bs : List Byte) : BitVec 16 := bs.foldl crcByte 0xFFFF#16

/-- A packet of the kit link: marker, length, payload, CRC over length and payload (R124). -/
def packet (payload : List Byte) : List Byte :=
  let body := BitVec.ofNat 8 payload.length :: payload
  0xA7#8 :: (body ++ beBytes 2 (crc body).toNat)

/-- The 12-byte check-in payload that bytes are, when the kind is 01h and the kit id valid (R124). -/
def checkInOf (bs : List Byte) : Option CheckIn :=
  let kit : KitId := BitVec.ofNat 32 (fieldAt 1 4 bs)
  if bs.length = 12 ∧ fieldAt 0 1 bs = 1 ∧ kit ≠ 0 ∧ kit ≠ 0xFFFFFFFF#32 then
    some ⟨kit, BitVec.ofNat 8 (fieldAt 5 1 bs), BitVec.ofNat 16 (fieldAt 6 2 bs),
      BitVec.ofNat 24 (fieldAt 8 3 bs), BitVec.ofNat 8 (fieldAt 11 1 bs)⟩
  else none

/-- The tamper flag of a check-in (bit 0 of the kit flags). -/
def CheckIn.tamper (c : CheckIn) : Bool := c.flags.getLsbD 0

/-- The button flag of a check-in (bit 1 of the kit flags); it takes no part in the check-in turn (R101). -/
def CheckIn.button (c : CheckIn) : Bool := c.flags.getLsbD 1

/-- The 14-byte grant payload. -/
def grantPayload (g : Grant) : List Byte :=
  [0x02#8] ++ beBytes 4 g.kit.toNat ++ beBytes 2 g.serial.toNat ++ [standingCode (some g.standing)]
    ++ beBytes 3 g.minutes ++ beBytes 2 g.grace ++ [g.echo]

/-- The exclusive-or of the eight data bits of a character: set when the number of ones is odd. -/
def oddOnes (b : Byte) : Bool :=
  ((b.getLsbD 0 ^^ b.getLsbD 1) ^^ (b.getLsbD 2 ^^ b.getLsbD 3))
    ^^ ((b.getLsbD 4 ^^ b.getLsbD 5) ^^ (b.getLsbD 6 ^^ b.getLsbD 7))

/-- The parity bit of a character under a parity setting; the line level has no meaning without parity. -/
def parityBit (p : Parity) (b : Byte) : Bool :=
  match p with
  | .without => false
  | .even => oddOnes b
  | .odd => !oddOnes b

/-- A character is in error: its first stop bit is not at the stop level, or its parity bit does not give the
configured parity (R123). The second stop bit is not checked. -/
def LinkConfig.charError (c : LinkConfig) (ch : LineChar) : Bool :=
  !ch.stopLevel || (decide (c.parity ≠ .without) && ch.parityBit != parityBit c.parity ch.data)

/-- A byte as it is sent, in the configured framing (R123). -/
def LinkConfig.sendChar (c : LinkConfig) (b : Byte) : LineChar := ⟨b, parityBit c.parity b, true⟩

/-- The eight data bits of a character in the order they are sent, least significant first (R123). -/
def dataBits (b : Byte) : List Bool := (List.range 8).map b.getLsbD

/-- The bits of a character on the serial line (R123): one start bit, eight data bits, a parity bit when parity is even
or odd, and the configured number of stop bits. PRESUMED (log 20): a stop bit is at the level written `true`, the start
bit at the other. -/
def LinkConfig.bitsOf (c : LinkConfig) (ch : LineChar) : List Bool :=
  [false] ++ dataBits ch.data ++ (if c.parity = .without then [] else [ch.parityBit]) ++ [ch.stopLevel]
    ++ (if c.twoStopBits then [true] else [])

/-- The bits of some bytes sent character after character, in the configured framing (R123, R132). -/
def LinkConfig.sendBits (c : LinkConfig) (bs : List Byte) : List Bool :=
  (bs.map fun b => c.bitsOf (c.sendChar b)).flatten

/-- The bits per second of the serial pair (R118). -/
def BitRate.bitsPerSecond : BitRate → Nat
  | .r9600 => 9600
  | .r19200 => 19200
  | .r38400 => 38400
  | .r57600 => 57600

end Sys2Proof.Machine
end

