-- ==== Sys2Proof/Machine/Ops.lean ====
section
/-! DEFINITION. The named reads and writes of the part's stores, and the ground every record engine turn stands
on: what it reads, what it writes, and the one write that ends it (R75). -/

namespace Sys2Proof.Machine

/-! ## Reads -/

/-- The slot tag of a slot (R6). -/
def State.tag (s : State) (slot : Nat) : Tag := cellRead Tag.cleared s.memory.tags slot

/-- The stored body of a slot (R147). -/
def State.body (s : State) (slot : Nat) : StoredBody := cellRead StoredBody.cleared s.memory.bodies slot

/-- What a read of one word of a body finds (R147). -/
def StoredBody.word (b : StoredBody) (w : Nat) : Check := cellRead .good b.words w

/-- A word of a body is found so (R147). -/
def StoredBody.holds (b : StoredBody) (c : Check) : Bool := b.words.any fun e => decide (e.2 = c)

/-- What a read finds of a body as a whole: uncorrectable when a word is, else corrected when a word is, else good
(R147). -/
def StoredBody.check (b : StoredBody) : Check :=
  if b.holds .double then .double else if b.holds .single then .single else .good

/-- A field as a read returns it: as it was written where its word is corrected, otherwise as it lies stored (R147). -/
def StoredBody.field {α : Type} (b : StoredBody) (f : RecordField) (get : Record → α) : α :=
  if b.word (Config.fieldWord f) = .single then get b.written else get b.stored

/-- A body as a read returns it, word by word (R147). Data that lies as written is returned so. -/
def StoredBody.read (b : StoredBody) : Record :=
  if b.written = b.stored then b.stored
  else
    { kit := b.field .kit (·.kit)
      cls := b.field .cls (·.cls)
      expiry := b.field .expiry (·.expiry)
      reserve := b.field .reserve (·.reserve)
      residue := b.field .residue (·.residue)
      outstanding := b.field .outstanding (·.outstanding)
      paidTotal := b.field .paidTotal (·.paidTotal)
      issued := b.field .issued (·.issued)
      acknowledged := b.field .acknowledged (·.acknowledged)
      awaiting := b.field .awaiting (·.awaiting)
      lastCheckIn := b.field .lastCheckIn (·.lastCheckIn)
      drift := b.field .drift (·.drift)
      frozen := b.field .frozen (·.frozen)
      prior := b.field .prior (·.prior)
      lapseNoted := b.field .lapseNoted (·.lapseNoted)
      silenceNoted := b.field .silenceNoted (·.silenceNoted)
      marks := b.field .marks (·.marks) }

/-- A bucket of the directory (R59). -/
def State.bucket (s : State) (b : Nat) : Bucket := cellRead Bucket.cleared s.dir.buckets b

/-- A spill entry (R60). -/
def State.spillEntry (s : State) (i : Nat) : Option SpillEntry := cellRead none s.dir.spill i

/-- A tariff class (R33). -/
def State.tariffClass (s : State) (c : Nat) : TariffClass := cellRead TariffClass.reset s.tariff c

/-- A reply channel, `none` when FREE (R127). -/
def State.channel (s : State) (c : Nat) : Option Channel := cellRead none s.link.channels c

/-- The bank of a slot: slot mod 4 (R9). -/
def bankIndex (slot : Nat) : Fin 4 := ⟨slot % 4, Nat.mod_lt _ (by decide)⟩

/-- A bank. -/
def State.bank (s : State) (b : Fin 4) : Bank := s.memory.banks.get b

/-- The station minute when the clock is RUNNING: the two values a turn reads at its start (R27). -/
def State.now (s : State) : Option Nat :=
  match s.time.clock with
  | .unset => none
  | .running => some s.time.minute

/-- The free count (R10), the sum of the bank free counts (R153). -/
def State.freeCount (s : State) : Nat :=
  s.memory.banks.b0.free + s.memory.banks.b1.free + s.memory.banks.b2.free + s.memory.banks.b3.free

/-- The FREE slots of a bank that may be allocated: those of an IN_SERVICE bank (R153). -/
def Bank.allocatable (b : Bank) : Nat := if b.state = .inService then b.free else 0

/-- The allocatable free count (R10): the sum over the IN_SERVICE banks (R153). -/
def State.allocatable (s : State) : Nat :=
  s.memory.banks.b0.allocatable + s.memory.banks.b1.allocatable + s.memory.banks.b2.allocatable
    + s.memory.banks.b3.allocatable

/-- The bank being evacuated, or none (section 9.7): the bank whose state is EVACUATING. -/
def State.evacuatingBank (s : State) : Option (Fin 4) :=
  s.memory.banks.lowest fun b => decide (b.state = .evacuating)

/-- The live slots of a bank: 1,024 less its bank free count (R153). -/
def State.liveIn (s : State) (b : Fin 4) : Nat := Config.bankSlots - (s.bank b).free

/-- A bank whose slots turns read and write: IN_SERVICE or EVACUATING (R9). -/
def Bank.inUse (b : Bank) : Bool := decide (b.state = .inService) || decide (b.state = .evacuating)

/-- The slots in service (R171): 1,024 for each bank IN_SERVICE or EVACUATING. -/
def State.slotsInService (s : State) : Nat :=
  Config.bankSlots * (oneIf s.memory.banks.b0.inUse + oneIf s.memory.banks.b1.inUse
    + oneIf s.memory.banks.b2.inUse + oneIf s.memory.banks.b3.inUse)

/-! ## Writes of the tag table, the banks and the tariff table -/

/-- A bank is replaced. -/
def State.setBank (s : State) (b : Fin 4) (v : Bank) : State :=
  { s with memory := { s.memory with banks := s.memory.banks.set b v } }

/-- A count adjusted by the difference between a tag as it stood and as the turn leaves it (R10). -/
def adjusted (count : Nat) (after before : Bool) : Nat := count + oneIf after - oneIf before

/-- The engine's counts adjusted for a tag that changes from `before` to `after` (R10, R16). -/
def RecordEngine.recount (e : RecordEngine) (after before : Tag) : RecordEngine :=
  { e with
    enrolled := adjusted e.enrolled (decide (after.lifecycle = .enrolled)) (decide (before.lifecycle = .enrolled))
    running := adjusted e.running (decide (after.lifecycle = .running)) (decide (before.lifecycle = .running))
    suspended := adjusted e.suspended (decide (after.lifecycle = .suspended)) (decide (before.lifecycle = .suspended))
    owned := adjusted e.owned (decide (after.lifecycle = .owned)) (decide (before.lifecycle = .owned))
    damaged := adjusted e.damaged after.damaged before.damaged
    marked := adjusted e.marked after.marked before.marked }

/-- A slot tag is written, and every count follows by the difference (R10, R16, R153). -/
def State.putTag (s : State) (slot : Nat) (t : Tag) : State :=
  let before := s.tag slot
  let b := bankIndex slot
  let bank := s.bank b
  let free := adjusted bank.free (decide (t.lifecycle = .free)) (decide (before.lifecycle = .free))
  { s with
    memory := { s.memory with
      tags := cellWrite Tag.cleared s.memory.tags slot t
      banks := s.memory.banks.set b { bank with free := free } }
    engine := s.engine.recount t before }

/-- A tariff class is written (R34). -/
def State.putClass (s : State) (c : Nat) (v : TariffClass) : State :=
  { s with tariff := cellWrite TariffClass.reset s.tariff c v }

/-- A reply channel is written, `none` for FREE (R127). -/
def State.putChannel (s : State) (c : Nat) (v : Option Channel) : State :=
  { s with link := { s.link with channels := cellWrite none s.link.channels c v } }

/-- The bodies of a bank return to cleared bodies with good check values, its tags to the cleared tag
(R6, R154, R160). -/
def State.clearBank (s : State) (b : Fin 4) : State :=
  { s with memory := { s.memory with
      bodies := cellErase (fun slot => decide (bankIndex slot = b)) s.memory.bodies
      tags := cellErase (fun slot => decide (bankIndex slot = b)) s.memory.tags } }

/-! ## Errors (R150) -/

/-- An uncorrectable error is fed to the first-error report: an empty report takes it, otherwise the next-error
flag of its kind is set (R150). -/
def State.feedError (s : State) (place : ErrorPlace) (metBy : Requester) : State :=
  match s.integrity.report with
  | none => { s with integrity := { s.integrity with report := some ⟨place, metBy, s.now⟩ } }
  | some _ =>
    match place with
    | .record _ => { s with integrity := { s.integrity with recordAgain := true } }
    | .directory _ => { s with integrity := { s.integrity with directoryAgain := true } }

/-! ## Turns (R75)

A turn is carried out on the state as its write will leave it. It remembers who took it and which bodies and ways
its write carries, because an armed injection is taken by that one write (R152). -/

/-- A turn in the making. -/
structure Turn where
  s : State
  who : Requester
  bodies : List Nat
  ways : List (Nat × Fin 4)
  deriving DecidableEq, Repr

/-- A turn granted to a requester begins. -/
def Turn.start (who : Requester) (s : State) : Turn := ⟨s, who, [], []⟩

/-- The state of a turn is put through `f`. -/
def Turn.map (t : Turn) (f : State → State) : Turn := { t with s := f t.s }

/-- The turn's write carries the body of a slot, with good check values (R147). -/
def Turn.putBody (t : Turn) (slot : Nat) (r : Record) : Turn :=
  { t with
    s := { t.s with memory := { t.s.memory with
      bodies := cellWrite StoredBody.cleared t.s.memory.bodies slot ⟨r, r, []⟩ } }
    bodies := slot :: t.bodies }

/-- The turn's write carries a tag. -/
def Turn.putTag (t : Turn) (slot : Nat) (tag : Tag) : Turn := t.map (·.putTag slot tag)

/-- The turn's write carries a bucket's ways and state as they stand in `v`; `written` are the ways written. -/
def Turn.putBucket (t : Turn) (b : Nat) (v : Bucket) (written : List (Fin 4)) : Turn :=
  { t with
    s := { t.s with dir := { t.s.dir with buckets := cellWrite Bucket.cleared t.s.dir.buckets b v } }
    ways := written.map (fun w => (b, w)) ++ t.ways }

/-- The turn's write carries a way, with good check values (R62, R147). -/
def Turn.putWay (t : Turn) (b : Nat) (w : Fin 4) (e : Option Entry) : Turn :=
  let k := t.s.bucket b
  t.putBucket b { k with ways := k.ways.set w ⟨e, e, .good⟩ } [w]

/-- The turn's write carries a spill entry. -/
def Turn.putSpill (t : Turn) (i : Nat) (e : Option SpillEntry) : Turn :=
  t.map fun s => { s with dir := { s.dir with spill := cellWrite none s.dir.spill i e } }

/-- The turn's write carries a record body and the tag beside it, whose lifecycle is given and whose marked
indication follows the marks (R16). -/
def Turn.putRecord (t : Turn) (slot : Nat) (lc : Lifecycle) (r : Record) : Turn :=
  (t.putBody slot r).putTag slot { t.s.tag slot with lifecycle := lc, marked := r.marks.any }

/-- The corrected count of a bank rises by 1 (R148). -/
def Turn.countCorrected (t : Turn) (b : Fin 4) : Turn :=
  t.map fun s => s.setBank b { s.bank b with corrected := bump (s.bank b).corrected }

/-- A live slot becomes DAMAGED and the error is reported (R149). -/
def Turn.damage (t : Turn) (slot : Nat) : Turn :=
  (t.putTag slot { t.s.tag slot with damaged := true }).map (·.feedError (.record slot) t.who)

/-- The body of a live slot is read through the correction code (R147 to R149). A body already DAMAGED is
returned as stored. `writeBack` is false only for the source of an evacuation move, whose body is not
written (R157). -/
def Turn.readLive (t : Turn) (slot : Nat) (writeBack : Bool) : Turn × Record :=
  let b := t.s.body slot
  if (t.s.tag slot).damaged then (t, b.stored)
  else match b.check with
    | .good => (t, b.read)
    | .single =>
      let t := t.countCorrected (bankIndex slot)
      (if writeBack then t.putBody slot b.read else t, b.read)
    | .double => (t.damage slot, b.read)

/-- What an injection of a mode stores: one or two check digits wrong (R152). -/
def InjectMode.check : InjectMode → Check
  | .single => .single
  | .double => .double

/-- The lowest-numbered way of a bucket among the ways written. -/
def lowestWritten (b : Nat) (ways : List (Nat × Fin 4)) : Option (Fin 4) :=
  if (b, 0) ∈ ways then some 0 else if (b, 1) ∈ ways then some 1 else if (b, 2) ∈ ways then some 2
  else if (b, 3) ∈ ways then some 3 else none

/-- The check values of the first word of a body are spoiled; the data lies as written (R152). -/
def State.spoilBody (s : State) (slot : Nat) (m : InjectMode) : State :=
  let b := s.body slot
  { s with
    memory := { s.memory with
      bodies := cellWrite StoredBody.cleared s.memory.bodies slot
        { b with words := cellWrite .good b.words 0 m.check } }
    integrity := { s.integrity with armed := none } }

/-- The check values of a way are spoiled; the data lies as written (R152). -/
def State.spoilWay (s : State) (b : Nat) (w : Fin 4) (m : InjectMode) : State :=
  let k := s.bucket b
  { s with
    dir := { s.dir with
      buckets := cellWrite Bucket.cleared s.dir.buckets b
        { k with ways := k.ways.set w { k.ways.get w with check := m.check } } }
    integrity := { s.integrity with armed := none } }

/-- The turn's one write. An injection armed for a body or bucket the write carries is taken by it and disarmed:
the first word of the body, the lowest-numbered way written (R152). -/
def Turn.write (t : Turn) : State :=
  match t.s.integrity.armed with
  | none => t.s
  | some ⟨.record slot, m⟩ => if slot ∈ t.bodies then t.s.spoilBody slot m else t.s
  | some ⟨.bucket b, m⟩ =>
    match lowestWritten b t.ways with
    | none => t.s
    | some w => t.s.spoilWay b w m

/-! ## Allocation (R12) -/

/-- A slot may be allocated: its tag is FREE and its bank IN_SERVICE (R12). -/
def State.mayAllocate (s : State) (slot : Nat) : Bool :=
  decide ((s.tag slot).lifecycle = .free) && decide ((s.bank (bankIndex slot)).state = .inService)

/-- The first slot at or after the allocation pointer that may be allocated (R12). -/
def State.nextFree (s : State) : Option Nat :=
  scan Config.slots s.mayAllocate Config.slots s.engine.allocPtr

/-- The reservation of room holds: an evacuation is in progress and the allocatable free count does not exceed
the live slots remaining in its bank (R156). -/
def State.roomReserved (s : State) : Bool :=
  match s.evacuatingBank with
  | none => false
  | some b => decide (s.allocatable ≤ s.liveIn b)

/-- The slot an ENROL or a new-slot RESTORE takes, or none for TABLE_FULL (R12, R156). -/
def State.allocate (s : State) : Option Nat :=
  if s.allocatable = 0 ∨ s.roomReserved then none else s.nextFree

/-- The allocation pointer moves past the slot taken (R12). -/
def State.pastSlot (s : State) (slot : Nat) : State :=
  { s with engine := { s.engine with allocPtr := (slot + 1) % Config.slots } }

/-! ## Freeing a slot and the end of an evacuation (R90, R158) -/

/-- An evacuation that has left its bank with no live slot completes: the bank is OUT_OF_SERVICE and powered down,
its contents lost, and the BANK flag is set (R158). -/
def State.completeEvacuation (s : State) (b : Fin 4) : State :=
  let s := s.setBank b { s.bank b with state := .outOfService, free := 0 }
  { s with memory := { s.memory with
      bodies := cellErase (fun slot => decide (bankIndex slot = b)) s.memory.bodies
      bankFlag := true } }

/-- After a slot has become FREE, an evacuation whose bank holds no live slot completes in the same event
(R158). -/
def State.checkEvacuation (s : State) : State :=
  match s.evacuatingBank with
  | none => s
  | some b => if s.liveIn b = 0 then s.completeEvacuation b else s

/-- The turn's write makes a slot FREE (R90 step 4, R157 step 4). -/
def Turn.freeSlot (t : Turn) (slot : Nat) : Turn := t.putTag slot Tag.cleared

end Sys2Proof.Machine
end

