-- ==== Sys2Proof/Machine/Flags.lean ====
section
/-! DEFINITION. The port flags and the status byte (R167, R168), the attention sources and the attention line
(R169), the key line (R122), and how a response is formed (R163, R165). -/

namespace Sys2Proof.Machine

/-- BUSY: a well-framed message has been taken whose response is not yet formed. Since a port-executed command
forms its response in the event that takes it, that is a record command held (R165, R168). -/
def State.busy (s : State) : Bool := s.engine.held.isSome

/-- The sources pending, as the byte of R176 numbers them: bit 0 RESPONSE, 1 MARKS, 2 MEMORY, 3 CLOCK, 4 LINK,
5 BANK (R169). -/
def State.sources (s : State) : BitVec 6 :=
  BitVec.ofNat 6 (oneIf s.port.responseReady
    + 2 * oneIf (decide (0 < s.engine.marked))
    + 4 * oneIf s.integrity.report.isSome
    + 8 * oneIf (decide (s.time.clock = .unset) || s.time.inputLost)
    + 16 * oneIf (decide (s.link.state = .faulted))
    + 32 * oneIf s.memory.bankFlag)

/-- The attention line is asserted (driven low) while an enabled source is pending (R169). -/
def State.attention (s : State) : Bool := decide (s.port.mask &&& s.sources ≠ 0)

/-- The port status byte (section 11.2). -/
def State.statusByte (s : State) : Byte :=
  BitVec.ofNat 8 (oneIf s.port.responseReady + 2 * oneIf s.busy + 4 * oneIf s.port.collision
    + 8 * oneIf s.port.overrun + 16 * oneIf s.attention + 32 * oneIf s.port.notReady)

/-- A response: length byte, echoed code, status, fields, check byte (R163). -/
def responseBytes (code : Byte) (st : Status) (fields : List Byte) : List Byte :=
  frame (code :: st.code :: fields)

/-- A response is placed in the response buffer and RESPONSE_READY is set (R165). -/
def State.respond (s : State) (code : Byte) (st : Status) (fields : List Byte) : State :=
  { s with port := { s.port with resp := responseBytes code st fields, responseReady := true } }

/-- A refused command is answered with the echoed code and the status alone (R163). -/
def State.refuse (s : State) (code : Byte) (st : Status) : State := s.respond code st []

/-- The command COMMAND held is finished: BUSY clears and its search, if one was in flight, is over (R165, R66). -/
def State.release (s : State) : State :=
  { s with engine := { s.engine with held := none, commandSearch := none } }

/-- The record engine hands back the response of the held command (R75, R165). -/
def Turn.answer (t : Turn) (code : Byte) (st : Status) (fields : List Byte) : Turn :=
  t.map fun s => s.release.respond code st fields

/-- The held command is refused (R81). -/
def Turn.refuse (t : Turn) (code : Byte) (st : Status) : Turn := t.answer code st []

/-- The level of the key line: active while a reply is being sent, else the opposite level (R122). -/
def State.keyLine (s : State) : Bool :=
  match s.link.tx with
  | .sending _ _ => s.link.config.keyActiveHigh
  | .idle => !s.link.config.keyActiveHigh

/-- The bits a send passes over the serial line to the modem: the packet, character after character, in the
configured framing (R132), or none while nothing is sent. -/
def State.packetOnLine (s : State) : Option (List Bool) :=
  match s.link.tx with
  | .idle => none
  | .sending c _ => (s.channel c).map fun ch => s.link.config.sendBits (packet (grantPayload ch.grant))

end Sys2Proof.Machine
end

