-- ==== Sys2Proof/Machine/Arbiter.lean ====
section
/-! DEFINITION. The turn arbiter: who waits (R76), the waiting counts and the consecutive check-in count (R77), the
choice of the next turn (R78), and how a turn granted to a requester is begun and ended (R75). -/

namespace Sys2Proof.Machine

/-- A bank is EVACUATING and holds at least one live slot (R76). -/
def State.movesWait (s : State) : Bool :=
  match s.evacuatingBank with
  | none => false
  | some b => decide (0 < s.liveIn b)

/-- A requester waits for a turn (R76); none waits until start-up initialisation is complete (R79). -/
def State.waits (s : State) (r : Requester) : Bool :=
  !s.port.notReady &&
  match r with
  | .checkIn => !s.link.queue.isEmpty || s.engine.checkInSearch.isSome
  | .command => s.engine.held.isSome
  | .evacuation => s.movesWait
  | .sweep => decide (0 < s.sweep.credits)

/-- The waiting count of a requester (R77). -/
def WaitCounts.get (w : WaitCounts) : Requester → Nat
  | .checkIn => w.checkIn
  | .command => w.command
  | .evacuation => w.evacuation
  | .sweep => w.sweep

/-- Step 1 of R78 over requesters in the order given: the aged one with the highest count, the first of them
where several share it. -/
def State.aged (s : State) (best : Option Requester) (r : Requester) : Option Requester :=
  if s.waits r && decide (Config.agedCount ≤ s.engine.waits.get r) then
    match best with
    | none => some r
    | some b => if s.engine.waits.get b < s.engine.waits.get r then some r else some b
  else best

/-- The requester the next turn is granted to (R78), or none when no requester waits. -/
def State.arbiter (s : State) : Option Requester :=
  match [Requester.checkIn, .command, .evacuation, .sweep].foldl s.aged none with
  | some r => some r
  | none =>
    if s.waits .checkIn && decide (s.engine.consecutive < Config.checkInRun) then some .checkIn
    else if s.waits .command then some .command
    else if s.waits .evacuation then some .evacuation
    else if s.waits .sweep then some .sweep
    else if s.waits .checkIn then some .checkIn
    else none

/-- The waiting count of `r` after a turn is granted to `granted` (R77). -/
def State.countAfter (s : State) (granted r : Requester) : Nat :=
  if r = granted then 0
  else if s.waits r then min (s.engine.waits.get r + 1) Config.maxWait
  else s.engine.waits.get r

/-- Some requester other than CHECK-IN waits. -/
def State.othersWait (s : State) : Bool := s.waits .command || s.waits .evacuation || s.waits .sweep

/-- The consecutive check-in count after a grant (R77). -/
def State.consecutiveAfter (s : State) : Requester → Nat
  | .checkIn => if s.othersWait then min (s.engine.consecutive + 1) Config.checkInRun else 0
  | _ => 0

/-- A turn is granted: the counts change (R77). -/
def State.grant (s : State) (r : Requester) : State :=
  { s with engine := { s.engine with
      waits := ⟨s.countAfter r .checkIn, s.countAfter r .command, s.countAfter r .evacuation, s.countAfter r .sweep⟩
      consecutive := s.consecutiveAfter r } }

/-- The counts of the requesters that wait, and 0 for those that have stopped (R77). -/
def WaitCounts.kept (w : WaitCounts) (waits : Requester → Bool) : WaitCounts where
  checkIn := if waits .checkIn then w.checkIn else 0
  command := if waits .command then w.command else 0
  evacuation := if waits .evacuation then w.evacuation else 0
  sweep := if waits .sweep then w.sweep else 0

/-- At the event that ends a requester's waiting its waiting count is set to 0 (R77), with a check-in turn in progress
too (log 31). -/
def State.settle (s : State) : State :=
  { s with engine := { s.engine with
      waits := s.engine.waits.kept s.waits
      begun := s.engine.begun.map fun b => { b with waits := b.waits.kept s.waits } } }

/-- No check-in turn was in progress when the link last left ENABLED (log 31): another turn is granted. -/
def State.dropBegun (s : State) : State := { s with engine := { s.engine with begun := none } }

/-- One turn granted to a requester, whole: the grant, the work, the one write (R75). -/
def State.turn (s : State) (r : Requester) (work : Turn → Turn) : State :=
  (work (Turn.start r (s.grant r).dropBegun)).write.settle

end Sys2Proof.Machine
end

