-- ==== Sys2Proof/Machine/Directory.lean ====
section
/-! DEFINITION. The directory (spec 04_the_directory.md): home buckets, reading and wiping a bucket, lookup, insert,
removal, repointing and re-insertion, each as part of a turn's one write. -/

namespace Sys2Proof.Machine

/-- The home bucket of a kit id (R58). -/
def homeBucket (kit : KitId) : Nat :=
  let id := kit.toNat
  ((id % 2048) ^^^ (id / 2048 % 2048) ^^^ (id / 4194304)) % 2048

/-! ## Reading a bucket (R62) -/

/-- What a way reads as when it is not uncorrectable (R147). -/
def StoredWay.value (w : StoredWay) : Option Entry :=
  match w.check with
  | .good => w.stored
  | .single => w.written
  | .double => w.stored

/-- A way is uncorrectable. -/
def StoredWay.broken (w : StoredWay) : Bool := decide (w.check = .double)

/-- The four values of a bucket. -/
def Bucket.values (k : Bucket) : Four (Option Entry) :=
  ⟨k.ways.b0.value, k.ways.b1.value, k.ways.b2.value, k.ways.b3.value⟩

/-- One or more ways of a bucket are uncorrectable. -/
def Bucket.broken (k : Bucket) : Bool :=
  k.ways.b0.broken || k.ways.b1.broken || k.ways.b2.broken || k.ways.b3.broken

/-- The directory corrected count rises by 1 (R63). -/
def Turn.countWay (t : Turn) : Turn :=
  t.map fun s => { s with integrity := { s.integrity with dirCorrected := bump s.integrity.dirCorrected } }

/-- A way read corrected is written back and counted (R62). -/
def Turn.correctWay (b : Nat) (t : Turn) (w : Fin 4) : Turn :=
  let way := (t.s.bucket b).ways.get w
  match way.check with
  | .single => (t.putWay b w way.written).countWay
  | _ => t

/-- A slot tag whose location names a way of bucket `b` loses its location (R71 step 3). -/
def Tag.forget (b : Nat) (t : Tag) : Tag :=
  match t.location with
  | .way b' _ => if b' = b then { t with location := .nowhere } else t
  | _ => t

/-- Every slot tag whose location names a way of a bucket loses its location (R71 step 3). -/
def State.forgetBucket (s : State) (b : Nat) : State :=
  { s with memory := { s.memory with tags := cellMap Tag.cleared (Tag.forget b) s.memory.tags } }

/-- A bucket is wiped (R71): ways empty, REBUILDING under the current pass, the tags that name its ways lose their
location, and the error is reported. -/
def Turn.wipe (t : Turn) (b : Nat) : Turn :=
  let t := t.putBucket b { Bucket.cleared with state := .rebuilding t.s.sweep.pass } [0, 1, 2, 3]
  t.map fun s => (s.forgetBucket b).feedError (.directory b) t.who

/-- The four ways of a bucket are read together (R62): corrected ways are written back and counted, or, when a way
is uncorrectable, the bucket is wiped and the turn goes on with four empty ways. -/
def Turn.readBucket (t : Turn) (b : Nat) : Turn × Four (Option Entry) :=
  let k := t.s.bucket b
  if k.broken then (t.wipe b, ⟨none, none, none, none⟩)
  else ([0, 1, 2, 3].foldl (Turn.correctWay b) t, k.values)

/-! ## Lookup (R64) -/

/-- The slot the ways name for a kit id (R64 step 1). -/
def wayHolding (ways : Four (Option Entry)) (kit : KitId) : Option Nat :=
  match ways.lowest fun e => decide (e.map (·.kit) = some kit) with
  | none => none
  | some w => (ways.get w).map (·.slot)

/-- A spill entry with this home bucket holds this kit id (R64 step 2). -/
def State.spillHolds (s : State) (home : Nat) (kit : KitId) (i : Nat) : Bool :=
  match s.spillEntry i with
  | none => false
  | some e => decide (e.home = home) && decide (e.kit = kit)

/-- The slot the spill list names for a kit id (R64 step 2). -/
def State.spillHolding (s : State) (home : Nat) (kit : KitId) : Option Nat :=
  match scan Config.spillEntries (s.spillHolds home kit) Config.spillEntries 0 with
  | none => none
  | some i => (s.spillEntry i).map (·.slot)

/-- A lookup's end (R64): a slot, or not found with the bucket NORMAL, or not found with the bucket REBUILDING. -/
inductive Lookup where
  | found (slot : Nat)
  | absent
  | rebuilding
  deriving DecidableEq, Repr

/-- The end of a lookup, from the ways as read (R64). -/
def State.lookupEnd (s : State) (ways : Four (Option Entry)) (kit : KitId) : Lookup :=
  match wayHolding ways kit with
  | some slot => .found slot
  | none =>
    match s.spillHolding (homeBucket kit) kit with
    | some slot => .found slot
    | none =>
      match (s.bucket (homeBucket kit)).state with
      | .normal => .absent
      | .rebuilding _ => .rebuilding

/-- A lookup by kit id (R64), with the ways its bucket read left (for the insert that may follow, R68). -/
def Turn.lookup (t : Turn) (kit : KitId) : Turn × Four (Option Entry) × Lookup :=
  let (t, ways) := t.readBucket (homeBucket kit)
  (t, ways, t.s.lookupEnd ways kit)

/-! ## Entries (R68, R69, R70, R72) -/

/-- Where an entry goes: the lowest-numbered empty way, else the lowest-numbered empty spill entry, else
nowhere (R68 step 3, R72). -/
def State.placeFor (s : State) (b : Nat) (ways : Four (Option Entry)) : Location :=
  match ways.lowest (·.isNone) with
  | some w => .way b w
  | none =>
    match scan Config.spillEntries (fun i => (s.spillEntry i).isNone) Config.spillEntries 0 with
    | some i => .spill i
    | none => .nowhere

/-- An entry is written at a location (R68, R72). -/
def Turn.putEntry (t : Turn) (loc : Location) (kit : KitId) (slot home : Nat) : Turn :=
  match loc with
  | .nowhere => t
  | .way b w => t.putWay b w (some ⟨kit, slot⟩)
  | .spill i => t.putSpill i (some ⟨kit, slot, home⟩)

/-- The entry a slot tag names is emptied (R69). -/
def Turn.removeEntry (t : Turn) (loc : Location) : Turn :=
  match loc with
  | .nowhere => t
  | .way b w => t.putWay b w none
  | .spill i => t.putSpill i none

/-- A slot's tag takes a directory location (R8). -/
def Turn.setLocation (t : Turn) (slot : Nat) (loc : Location) : Turn :=
  t.putTag slot { t.s.tag slot with location := loc }

/-- A bucket is marked REBUILDING, or re-marked, with the current pass number (R72). -/
def Turn.markRebuilding (t : Turn) (b : Nat) : Turn :=
  t.putBucket b { t.s.bucket b with state := .rebuilding t.s.sweep.pass } []

/-- A slot is entered at a location, or, when there is none, its home bucket is marked REBUILDING (R72). -/
def Turn.enterAt (t : Turn) (loc : Location) (slot : Nat) (kit : KitId) (home : Nat) : Turn :=
  if loc = .nowhere then t.markRebuilding home
  else (t.putEntry loc kit slot home).setLocation slot loc

/-- A re-insertion (R72) of a live, undamaged slot under a home bucket, made only when its location is none. -/
def Turn.reinsert (t : Turn) (slot : Nat) (kit : KitId) (home : Nat) : Turn :=
  if (t.s.tag slot).location = .nowhere then
    let (t, ways) := t.readBucket home
    t.enterAt (t.s.placeFor home ways) slot kit home
  else t

/-- An entry is repointed to the target of an evacuation move, and the location the target takes (R70). -/
def Turn.repoint (t : Turn) (loc : Location) (target : Nat) : Turn × Location :=
  match loc with
  | .nowhere => (t, .nowhere)
  | .way b w =>
    let way := (t.s.bucket b).ways.get w
    match way.check with
    | .double => (t.wipe b, .nowhere)
    | .single => ((t.putWay b w (way.written.map fun e => { e with slot := target })).countWay, loc)
    | .good => (t.putWay b w (way.stored.map fun e => { e with slot := target }), loc)
  | .spill i => (t.putSpill i ((t.s.spillEntry i).map fun e => { e with slot := target }), loc)

end Sys2Proof.Machine
end

