-- ==== Sys2Proof/Machine/Banks.lean ====
section
/-! DEFINITION. Banks (spec 09_memory_integrity_and_banks.md, sections 9.6 and 9.7): the resets and the clearing they
start, evacuation with its moves, and the bank commands. -/

namespace Sys2Proof.Machine

/-! ## The resets (R154, R161, R168) -/

/-- The part after power-on or the reset pin: every block at its reset value, with the straps sampled, the start-up
cause recorded, and the queue of waiting events as it stands. -/
def State.restarted (s : State) (straps : BitVec 2) (cause : StartCause) : State :=
  { State.reset with
    port := { StationPort.reset with strap := straps, cause := cause }
    pending := s.pending }

/-- POWER_ON (R154, R162, R168). -/
def execPowerOn (straps : BitVec 2) (s : State) : Host.Outcome State Fault Refusal :=
  .next (s.restarted straps .powerOn)

/-- RESET_PIN (R154, R162, R168). -/
def execResetPin (straps : BitVec 2) (s : State) : Host.Outcome State Fault Refusal :=
  .next (s.restarted straps .resetPin)

/-! ## Clearing (R154, R160) -/

/-- A bank whose clearing completes: its bodies and tags cleared, IN_SERVICE with 1,024 FREE slots (R154, R160). -/
def State.bankCleared (s : State) (b : Fin 4) : State :=
  let s := s.clearBank b
  s.setBank b { s.bank b with state := .inService, free := Config.bankSlots }

/-- Start-up initialisation has no clearing left to complete (R154). -/
def State.startUpDone (s : State) : Bool :=
  !s.dir.clearing
    && decide (s.memory.banks.b0.state ≠ .initialising) && decide (s.memory.banks.b1.state ≠ .initialising)
    && decide (s.memory.banks.b2.state ≠ .initialising) && decide (s.memory.banks.b3.state ≠ .initialising)

/-- NOT_READY clears at the event that completes start-up initialisation (R154, R168). -/
def State.checkStartUp (s : State) : State :=
  if s.startUpDone then { s with port := { s.port with notReady := false } } else s

/-- A bank number names a bank whose clearing is under way. -/
def State.clearingBank (s : State) (bank : Nat) : Bool :=
  decide (bank < 4) && decide ((s.bank (bankIndex bank)).state = .initialising)

/-- BANK_CLEARING_COMPLETE (R154). DESIGN CHOICE (log 25): outside start-up initialisation, or for a bank whose
clearing is not under way, no event. -/
def execBankClearingComplete (bank : Nat) (s : State) : Host.Outcome State Fault Refusal :=
  .next (if s.port.notReady ∧ s.clearingBank bank then (s.bankCleared (bankIndex bank)).checkStartUp else s)

/-- DIRECTORY_CLEARING_COMPLETE (R154): the directory is empty and every bucket NORMAL. DESIGN CHOICE (log 25):
outside start-up initialisation, no event. -/
def execDirectoryClearingComplete (s : State) : Host.Outcome State Fault Refusal :=
  .next (if s.port.notReady ∧ s.dir.clearing then ({ s with dir := ⟨[], [], false⟩ }).checkStartUp else s)

/-- RETURN_BANK_CLEARING_COMPLETE (R160). DESIGN CHOICE (log 25): for a bank whose clearing is not under way, or
during start-up initialisation, no event. -/
def execReturnBankClearingComplete (bank : Nat) (s : State) : Host.Outcome State Fault Refusal :=
  .next (if s.port.notReady = false ∧ s.clearingBank bank then
      let s := s.bankCleared (bankIndex bank)
      { s with memory := { s.memory with bankFlag := true } }
    else s)

/-! ## The evacuation move (R157, R158, R70) -/

/-- The lowest-numbered live slot of a bank (R157). -/
def State.lowestLive (s : State) (b : Fin 4) : Option Nat :=
  scan Config.slots (fun slot => decide (bankIndex slot = b) && decide ((s.tag slot).lifecycle ≠ .free))
    Config.slots 0

/-- The directory's part of a move (R70): the entry named is repointed, or the record is re-inserted. -/
def Turn.moveEntry (t : Turn) (loc : Location) (target : Nat) (r : Record) : Turn :=
  if loc = .nowhere then
    if (t.s.tag target).damaged then t else t.reinsert target r.kit (homeBucket r.kit)
  else
    let (t, loc') := t.repoint loc target
    t.setLocation target loc'

/-- One more move has been made since the evacuation began. -/
def State.countMove (s : State) : State :=
  { s with engine := { s.engine with movesMade := s.engine.movesMade + 1 } }

/-- A record is moved from its slot to a target (R157 steps 3 to 5). The source's tag is cleared before the directory
is changed, so that no tag but the target's follows the entry. -/
def Turn.moveRecord (t : Turn) (source target : Nat) (r : Record) : Turn :=
  let tag := t.s.tag source
  let t := (t.map (·.pastSlot target)).putBody target r
  let t := (t.putTag target { tag with location := .nowhere }).freeSlot source
  (t.moveEntry tag.location target r).map fun s => s.countMove.checkEvacuation

/-- The work of an evacuation move (R157). The allocation of a move always finds a slot (R156; log 24). -/
def workEvacuationMove (t : Turn) : Turn :=
  match t.s.evacuatingBank with
  | none => t
  | some b =>
    match t.s.lowestLive b, t.s.nextFree with
    | some source, some target =>
      let (t, r) := t.readLive source false
      t.moveRecord source target r
    | _, _ => t

/-- EVACUATION_MOVE (R157): when the arbiter grants EVACUATION the next turn. DESIGN CHOICE (log 1): otherwise no
event. -/
def execEvacuationMove (s : State) : Host.Outcome State Fault Refusal :=
  if s.arbiter = some .evacuation then .next (s.turn .evacuation workEvacuationMove) else .next s

/-! ## The bank commands (R155, R159, R160) -/

/-- The allocatable FREE slots outside a bank (R155 step 4). -/
def State.roomOutside (s : State) (b : Fin 4) : Nat := s.allocatable - (s.bank b).allocatable

/-- A bank other than `b` is IN_SERVICE (R155 step 3). -/
def State.otherInService (s : State) (b : Fin 4) : Bool :=
  ((s.memory.banks.set b { s.bank b with state := .initialising }).lowest
    fun k => decide (k.state = .inService)).isSome

/-- EVACUATE BANK refuses with WRONG_STATE (R155 step 3). -/
def State.cannotEvacuate (s : State) (b : Fin 4) : Bool :=
  decide ((s.bank b).state ≠ .inService) || s.evacuatingBank.isSome || !s.otherInService b

/-- An accepted EVACUATE BANK (R155): the bank is EVACUATING, and an evacuation of a bank already empty completes in
the same event. -/
def State.startEvacuation (s : State) (b : Fin 4) : State :=
  let s := s.setBank b { s.bank b with state := .evacuating }
  State.checkEvacuation { s with engine := { s.engine with movesMade := 0 } }

/-- EVACUATE BANK as the port executes it (R155). -/
def portEvacuateBank (bank : Byte) (s : State) : State :=
  let b := bankIndex bank.toNat
  if s.port.notReady then s.refuse 0x38 .notReady
  else if 3 < bank.toNat then s.refuse 0x38 .badValue
  else if s.cannotEvacuate b then s.refuse 0x38 .wrongState
  else if s.roomOutside b < s.liveIn b then s.refuse 0x38 .noRoom
  else
    let moves := s.liveIn b
    let s := s.startEvacuation b
    s.respond 0x38 .ok ([bank] ++ beBytes 2 moves ++ [(s.bank b).state.code])

/-- An evacuation is ended before its bank is empty (R159). -/
def State.endEvacuation (s : State) (b : Fin 4) : State :=
  (s.setBank b { s.bank b with state := .inService }).settle

/-- CANCEL EVACUATION as the port executes it (R159). -/
def portCancelEvacuation (s : State) : State :=
  if s.port.notReady then s.refuse 0x39 .notReady
  else
    match s.evacuatingBank with
    | none => s.refuse 0x39 .wrongState
    | some b =>
      let s := s.endEvacuation b
      s.respond 0x39 .ok ([BitVec.ofNat 8 b.val] ++ beBytes 2 s.engine.movesMade ++ beBytes 2 (s.liveIn b))

/-- RETURN BANK as the port executes it (R160). -/
def portReturnBank (bank : Byte) (s : State) : State :=
  let b := bankIndex bank.toNat
  if s.port.notReady then s.refuse 0x3A .notReady
  else if 3 < bank.toNat then s.refuse 0x3A .badValue
  else if (s.bank b).state ≠ .outOfService then s.refuse 0x3A .wrongState
  else
    let s := s.setBank b { s.bank b with state := .initialising }
    s.respond 0x3A .ok [bank, (s.bank b).state.code]

end Sys2Proof.Machine
end

