-- ==== Sys2Proof/Machine/Integrity.lean ====
section
/-! DEFINITION. The integrity commands (R151, R152) with the report and injection blocks of section 11.2. -/

namespace Sys2Proof.Machine

/-- The next-error flags of the report block: bit 0 RECORD AGAIN, bit 1 DIRECTORY AGAIN. -/
def Integrity.flagsByte (i : Integrity) : Byte :=
  BitVec.ofNat 8 (oneIf i.recordAgain + 2 * oneIf i.directoryAgain)

/-- Kind, number and bank of an error's place, in the report block: the bank is FFh for DIRECTORY. -/
def ErrorPlace.bytes : ErrorPlace → List Byte
  | .record slot => [0] ++ beBytes 2 slot ++ [BitVec.ofNat 8 (slot % 4)]
  | .directory b => [1] ++ beBytes 2 b ++ [0xFF]

/-- The 12-byte report block. DEDUCED (log 16): the items of an empty report are 0. -/
def Integrity.reportBlock (i : Integrity) : List Byte :=
  match i.report with
  | none => List.replicate 11 0 ++ [i.flagsByte]
  | some e =>
    [1] ++ e.place.bytes ++ [e.metBy.code] ++ [flagByte e.minute.isSome] ++ beBytes 4 (e.minute.getD 0)
      ++ [i.flagsByte]

/-- Kind and number of an injection's target, in the injection block. -/
def InjectTarget.bytes : InjectTarget → List Byte
  | .record slot => [0] ++ beBytes 2 slot
  | .bucket b => [1] ++ beBytes 2 b

/-- The 5-byte injection block. DEDUCED (log 16): the items are 0 when nothing is armed. -/
def Integrity.injectionBlock (i : Integrity) : List Byte :=
  match i.armed with
  | none => List.replicate 5 0
  | some a => [1] ++ a.target.bytes ++ [a.mode.code]

/-- READ ERROR REPORT as the port executes it (R151). -/
def portReadErrorReport (s : State) : State :=
  s.respond 0x40 .ok (s.integrity.reportBlock
    ++ beBytes 2 s.memory.banks.b0.corrected ++ beBytes 2 s.memory.banks.b1.corrected
    ++ beBytes 2 s.memory.banks.b2.corrected ++ beBytes 2 s.memory.banks.b3.corrected
    ++ beBytes 2 s.integrity.dirCorrected ++ s.integrity.injectionBlock)

/-- CLEAR ERROR REPORT as the port executes it (R151). -/
def portClearErrorReport (s : State) : State :=
  ({ s with integrity :=
      { s.integrity with report := none, recordAgain := false, directoryAgain := false } }).respond
    0x41 .ok s.integrity.reportBlock

/-- An injection is armed, in place of any armed before (R152). -/
def State.arm (s : State) (target : InjectTarget) (mode : InjectMode) : State :=
  { s with integrity := { s.integrity with armed := some ⟨target, mode⟩ } }

/-- INJECT RECORD as the port executes it (R152). -/
def portInjectRecord (slot : BitVec 16) (mode : Byte) (s : State) : State :=
  match injectModeOf mode with
  | none => s.refuse 0x42 .badValue
  | some m =>
    if Config.slots ≤ slot.toNat then s.refuse 0x42 .badValue
    else (s.arm (.record slot.toNat) m).respond 0x42 .ok []

/-- INJECT BUCKET as the port executes it (R152). -/
def portInjectBucket (bucket : BitVec 16) (mode : Byte) (s : State) : State :=
  match injectModeOf mode with
  | none => s.refuse 0x43 .badValue
  | some m =>
    if Config.buckets ≤ bucket.toNat then s.refuse 0x43 .badValue
    else (s.arm (.bucket bucket.toNat) m).respond 0x43 .ok []

end Sys2Proof.Machine
end

