-- ==== Sys2Proof/Machine/Link.lean ====
section
/-! DEFINITION. The kit link (spec 07_reply_timing_and_the_transmitter.md): leaving ENABLED, reception, the stamp
holder and the arrival queue, the hand-over of grants, reply channels and the transmitter; and the rows that are
events of the link. -/

namespace Sys2Proof.Machine

/-- The link's counters are put through `f`. -/
def State.count (s : State) (f : LinkCounters → LinkCounters) : State :=
  { s with link := { s.link with counters := f s.link.counters } }

/-- A check-in is marked overdue (R126). -/
def Arrival.markOverdue (a : Arrival) : Arrival := { a with overdue := true }

/-- The check-in turn that may be in progress as the link leaves ENABLED (R116): the next turn goes to the check-in at
the head of the queue. Its check-in is overdue, as one in service is (R126). The minute it read is the present one
(log 31), after a raw minute tick at the same edge (DESIGN CHOICE, log 4). -/
def State.checkInBegun (s : State) : Option BegunTurn :=
  match s.engine.checkInSearch, s.link.queue with
  | none, a :: _ =>
    if s.arbiter = some .checkIn then
      some ⟨a.markOverdue, s.now, (s.grant .checkIn).engine.waits, (s.grant .checkIn).engine.consecutive⟩
    else none
  | _, _ => none

/-- The link leaves ENABLED for DISABLED or FAULTED, in one event (R121). DESIGN CHOICE (log 31): a check-in turn that
may be in progress is kept, for the row CHECK_IN_TURN to complete (R116). -/
def State.leaveEnabled (s : State) (dest : LinkState) : State :=
  { s with
    engine := { s.engine with begun := s.checkInBegun.or s.engine.begun }
    link := { s.link with
      state := dest
      parser := .hunt
      stamp := none
      queue := []
      inService := s.link.inService.map Arrival.markOverdue
      channels := []
      tx := .idle } }.settle

/-- The link goes to DISABLED or FAULTED: with the effects of leaving ENABLED when it was ENABLED (R120, R121). -/
def State.linkTo (s : State) (dest : LinkState) : State :=
  if s.link.state = .enabled then s.leaveEnabled dest
  else { s with link := { s.link with state := dest } }

/-! ## Reply channels and the transmitter -/

/-- The smallest channel number, of those below `n`, that is FREE (R128 step 3). -/
def State.freeChannel (s : State) : Option Nat :=
  scan Config.channels (fun c => (s.channel c).isNone) Config.channels 0

/-- Counts from the link timer's value up to `target`, mod 65,536 (R131). -/
def remaining (target timer : Stamp) : Nat := (target - timer).toNat

/-- The better of the best channel so far and channel `c`, by the smallest remaining count to the latest start, the
lower number where two share it (R131). -/
def State.betterReady (s : State) (best : Option (Nat × Nat)) (c : Nat) : Option (Nat × Nat) :=
  match s.channel c with
  | none => best
  | some ch =>
    if ch.phase = .ready then
      let left := remaining ch.latest s.time.timer
      match best with
      | none => some (c, left)
      | some (b, l) => if left < l then some (c, left) else some (b, l)
    else best

/-- The READY channel the transmitter takes (R131). -/
def State.chosenChannel (s : State) : Option Nat :=
  ([0, 1, 2, 3, 4, 5, 6, 7].foldl s.betterReady none).map (·.1)

/-- A send starts (R132): the channel and the transmitter become SENDING, with the key-on time. -/
def State.startSend (s : State) (c : Nat) : State :=
  let s := s.putChannel c ((s.channel c).map fun ch => { ch with phase := .sending })
  { s with link := { s.link with tx := .sending c s.time.timer } }

/-- When the transmitter is IDLE and a channel is READY, one is taken and started (R131). -/
def State.offer (s : State) : State :=
  match s.link.tx with
  | .sending _ _ => s
  | .idle =>
    match s.chosenChannel with
    | none => s
    | some c => s.startSend c

/-- The elapsed count of a stamp (R128). -/
def State.elapsed (s : State) (stamp : Stamp) : Nat := (s.time.timer - stamp).toNat

/-- The channel a grant takes (R127, R128 step 3). -/
def State.newChannel (s : State) (g : Grant) (stamp : Stamp) : Channel where
  phase := if s.link.config.openDelay ≤ s.elapsed stamp then .ready else .scheduled
  grant := g
  stamp := stamp
  earliest := stamp + BitVec.ofNat 16 s.link.config.openDelay
  latest := stamp + BitVec.ofNat 16 (s.link.config.openDelay + s.link.config.window)

/-- A grant handed to an ENABLED link is found LATE, finds no channel, or takes a channel (R128). -/
def State.scheduleGrant (s : State) (g : Grant) (a : Arrival) : State :=
  if a.overdue ∨ s.link.config.openDelay + s.link.config.window < s.elapsed a.stamp then
    s.count fun c => { c with late := bump c.late }
  else
    match s.freeChannel with
    | none => s.count fun c => { c with noChannel := bump c.noChannel }
    | some n => (s.putChannel n (some (s.newChannel g a.stamp))).offer

/-- The check-in in service is given up (R126, R128). -/
def State.giveUp (s : State) : State := { s with link := { s.link with inService := none } }

/-- The record engine hands a grant with its check-in to the kit link (R115, R128). -/
def State.handOver (s : State) (g : Grant) (a : Arrival) : State :=
  (if s.link.state = .enabled then s.scheduleGrant g a
   else s.count fun c => { c with suppressed := bump c.suppressed }).giveUp

/-- A notice of an unknown kit in place of a grant (R104, R128). -/
def State.noticeUnknown (s : State) : State :=
  (s.count fun c => { c with unknown := bump c.unknown }).giveUp

/-! ## Reception -/

/-- A character error (R123). -/
def State.charError (s : State) : State :=
  let s := s.count fun c => { c with parity := bump c.parity }
  match s.link.parser with
  | .hunt => s
  | _ => { s with link := { s.link with parser := .hunt, stamp := none } }

/-- A packet is discarded as bad: a stamp held is consumed (R124). -/
def State.badPacket (s : State) : State :=
  let s := s.count fun c => { c with bad := bump c.bad }
  { s with link := { s.link with parser := .hunt, stamp := none } }

/-- A good check-in with its stamp is offered to the arrival queue (R125). -/
def State.offerCheckIn (s : State) (c : CheckIn) (stamp : Stamp) : State :=
  let s := { s with link := { s.link with parser := .hunt, stamp := none } }
  if s.link.queue.length < Config.queueLength then
    ({ s with link := { s.link with queue := s.link.queue ++ [Arrival.mk c stamp false] } }).count
      fun n => { n with accepted := bump n.accepted }
  else s.count fun n => { n with queueFull := bump n.queueFull }

/-- A packet is completed: bad, or a good check-in (R124). -/
def State.completePacket (s : State) (length : Byte) (payload : List Byte) (received : BitVec 16) : State :=
  if received ≠ crc (length :: payload) then s.badPacket
  else
    match checkInOf payload, s.link.stamp with
    | some c, some stamp => s.offerCheckIn c stamp
    | _, _ => s.badPacket

/-- The parser takes a good character (R124). -/
def State.parse (s : State) (b : Byte) : State :=
  match s.link.parser with
  | .hunt => if b = 0xA7#8 then { s with link := { s.link with parser := .length } } else s
  | .length =>
    if 1 ≤ b.toNat ∧ b.toNat ≤ 32 then { s with link := { s.link with parser := .payload b [] } }
    else s.badPacket
  | .payload length got =>
    let got := got ++ [b]
    if length.toNat ≤ got.length then { s with link := { s.link with parser := .crc length got none } }
    else { s with link := { s.link with parser := .payload length got } }
  | .crc length payload none => { s with link := { s.link with parser := .crc length payload (some b) } }
  | .crc length payload (some first) => s.completePacket length payload (first ++ b)

/-- The character receiver takes a character from the line (R123). -/
def State.receive (s : State) (ch : LineChar) : State :=
  if s.link.config.charError ch then s.charError else s.parse ch.data

/-- KIT_PACKET: the characters the modem passes are taken one after the other; a link that is not ENABLED ignores
them (R121, R123, R124). -/
def execKitPacket (chars : List LineChar) (s : State) : Host.Outcome State Fault Refusal :=
  .next (if s.link.state = .enabled then chars.foldl State.receive s else s)

/-- KIT_CHARACTER_ERROR: a character received in error (R123). -/
def execKitCharacterError (s : State) : Host.Outcome State Fault Refusal :=
  .next (if s.link.state = .enabled then s.charError else s)

/-- A frame-end strobe at an ENABLED link (R125). -/
def State.frameEnd (s : State) : State :=
  match s.link.stamp with
  | none => { s with link := { s.link with stamp := some s.time.timer } }
  | some _ =>
    ({ s with link := { s.link with stamp := some s.time.timer, parser := .hunt } }).count
      fun c => { c with disorder := bump c.disorder }

/-- FRAME_END_STROBE (R125); a link that is not ENABLED ignores it (R121). -/
def execFrameEndStrobe (s : State) : Host.Outcome State Fault Refusal :=
  .next (if s.link.state = .enabled then s.frameEnd else s)

/-- A transmit-done strobe at an ENABLED link (R133). -/
def State.transmitDone (s : State) : State :=
  match s.link.tx with
  | .idle => s.count fun c => { c with disorder := bump c.disorder }
  | .sending n _ =>
    let s := s.putChannel n none
    let s := { s with link := { s.link with tx := .idle } }
    (s.count fun c => { c with sent := bump c.sent }).offer

/-- TRANSMIT_DONE_STROBE (R133); a link that is not ENABLED ignores it (R121). -/
def execTransmitDoneStrobe (s : State) : Host.Outcome State Fault Refusal :=
  .next (if s.link.state = .enabled then s.transmitDone else s)

/-! ## What the link timer's counting brings about (R126, R129, R130, R134), at the timer's new value -/

/-- A check-in whose stamp lies 32,768 counts back is marked overdue (R126). -/
def Arrival.age (timer : Stamp) (a : Arrival) : Arrival :=
  if a.stamp + 32768#16 = timer then a.markOverdue else a

/-- The watch on the stamps of the arrival queue and of the check-in in service (R126). -/
def State.watchStamps (s : State) : State :=
  { s with link := { s.link with
      queue := s.link.queue.map (Arrival.age s.time.timer)
      inService := s.link.inService.map (Arrival.age s.time.timer) } }

/-- A READY channel whose latest start has been counted past is given up (R130). -/
def State.collide (s : State) (c : Nat) : State :=
  match s.channel c with
  | none => s
  | some ch =>
    if ch.phase = .ready ∧ ch.latest + 1 = s.time.timer then
      (s.putChannel c none).count fun n => { n with collided := bump n.collided }
    else s

/-- Every READY channel whose latest start has been counted past is given up (R130). -/
def State.collideAll (s : State) : State := [0, 1, 2, 3, 4, 5, 6, 7].foldl State.collide s

/-- A SCHEDULED channel whose earliest start the timer has counted to becomes READY (R129). -/
def State.openChannel (s : State) (c : Nat) : State :=
  match s.channel c with
  | none => s
  | some ch =>
    if ch.phase = .scheduled ∧ ch.earliest = s.time.timer then s.putChannel c (some { ch with phase := .ready })
    else s

/-- Every SCHEDULED channel at its earliest start becomes READY, and the choice of R131 is made once over all
(R129, R131). -/
def State.openAll (s : State) : State := ([0, 1, 2, 3, 4, 5, 6, 7].foldl State.openChannel s).offer

/-- The transmit timeout, when the timer has counted to key-on plus T (R134). -/
def State.timeOut (s : State) : State :=
  match s.link.tx with
  | .idle => s
  | .sending _ keyOn =>
    if keyOn + BitVec.ofNat 16 s.link.config.timeout = s.time.timer then
      (s.count fun c => { c with transmitTimeout := bump c.transmitTimeout }).leaveEnabled .faulted
    else s

end Sys2Proof.Machine
end

