-- ==== Sys2Proof/Machine/LinkCommands.lean ====
section
/-! DEFINITION. The kit link's commands (R118 to R120, R135). -/

namespace Sys2Proof.Machine

/-- A delay of the link configuration lies in 1..32,000 (R118). -/
def goodDelay (d : BitVec 16) : Bool := decide (1 ≤ d.toNat) && decide (d.toNat ≤ Config.maxDelay)

/-- The configuration a link block gives, or none when an item is outside its values or O + W is above 32,000
(R118). -/
def configOf (b : LinkBlock) : Option LinkConfig :=
  match bitRateOf b.bitRate, parityOf b.parity, twoStopBitsOf b.stopBits, keyLevelOf b.keyLevel with
  | some rate, some parity, some two, some high =>
    if goodDelay b.openDelay && goodDelay b.window && goodDelay b.timeout
        && decide (b.openDelay.toNat + b.window.toNat ≤ Config.maxDelay) then
      some ⟨rate, parity, two, b.openDelay.toNat, b.window.toNat, b.timeout.toNat, high⟩
    else none
  | _, _, _, _ => none

/-- The 10 bytes of a link configuration (section 11.2). -/
def LinkConfig.bytes (c : LinkConfig) : List Byte :=
  [c.bitRate.code, c.parity.code, if c.twoStopBits then 2 else 1] ++ beBytes 2 c.openDelay ++ beBytes 2 c.window
    ++ beBytes 2 c.timeout ++ [flagByte c.keyActiveHigh]

/-- The code of the transmitter: 00h IDLE, 01h SENDING. -/
def Transmitter.code : Transmitter → Byte
  | .idle => 0
  | .sending _ _ => 1

/-- The reply channels that are not FREE (R119). -/
def KitLink.channelsInUse (l : KitLink) : Nat := l.channels.length

/-- The 15-byte link report (R119, section 11.2). -/
def KitLink.report (l : KitLink) : List Byte :=
  l.config.bytes ++ [l.state.code] ++ beBytes 1 l.queue.length ++ beBytes 1 l.channelsInUse
    ++ [l.tx.code, flagByte l.stamp.isSome]

/-- SET LINK as the port executes it (R118). -/
def portSetLink (block : LinkBlock) (s : State) : State :=
  match configOf block with
  | none => s.refuse 0x30 .badValue
  | some c =>
    if s.link.state ≠ .disabled then s.refuse 0x30 .wrongState
    else
      let s := { s with link := { s.link with config := c } }
      s.respond 0x30 .ok s.link.report

/-- READ LINK as the port executes it (R119). -/
def portReadLink (s : State) : State := s.respond 0x31 .ok s.link.report

/-- LINK ENABLE as the port executes it (R120). -/
def portLinkEnable (s : State) : State :=
  if s.port.notReady then s.refuse 0x32 .notReady
  else if s.time.inputLost then s.refuse 0x32 .wrongState
  else ({ s with link := { s.link with state := .enabled } }).respond 0x32 .ok []

/-- LINK DISABLE as the port executes it (R120). -/
def portLinkDisable (s : State) : State := (s.linkTo .disabled).respond 0x33 .ok []

/-- The twelve counters in the order of R135. -/
def LinkCounters.bytes (c : LinkCounters) : List Byte :=
  beBytes 2 c.accepted ++ beBytes 2 c.bad ++ beBytes 2 c.parity ++ beBytes 2 c.queueFull ++ beBytes 2 c.unknown
    ++ beBytes 2 c.late ++ beBytes 2 c.collided ++ beBytes 2 c.noChannel ++ beBytes 2 c.suppressed
    ++ beBytes 2 c.sent ++ beBytes 2 c.disorder ++ beBytes 2 c.transmitTimeout

/-- READ LINK COUNTERS as the port executes it (R135). -/
def portReadLinkCounters (s : State) : State := s.respond 0x34 .ok s.link.counters.bytes

end Sys2Proof.Machine
end

