-- ==== Sys2Proof/Machine/Credit.lean ====
section
/-! DEFINITION. The arithmetic of credit (spec 03_credit_arithmetic.md): release, top-up, adjust, suspension and
resumption, standing, the figures of a grant, drift. Each works on a lifecycle and a record, with the station minute
`now` and the class as the turn read them, and writes nothing itself (R37). -/

namespace Sys2Proof.Machine

/-- A lifecycle with the record it goes with, as a computation leaves them. -/
structure Account where
  lc : Lifecycle
  r : Record
  deriving DecidableEq, Repr

/-! ## Release (R39) -/

/-- The room for placing minutes: now + H less the larger of expiry and now, or 0 (R39, R44). -/
def roomFor (expiry now horizon : Nat) : Nat := now + horizon - max expiry now

/-- The minutes a release moves: only for a RUNNING record with a reserve (R39). -/
def releaseMove (lc : Lifecycle) (r : Record) (now horizon : Nat) : Nat :=
  if lc = .running then min r.reserve (roomFor r.expiry now horizon) else 0

/-- The record after release; when nothing moves, nothing changes (R39). -/
def releaseRecord (lc : Lifecycle) (r : Record) (now horizon : Nat) : Record :=
  let move := releaseMove lc r now horizon
  if move = 0 then r else { r with expiry := max r.expiry now + move, reserve := r.reserve - move }

/-! ## Standing (R54) -/

/-- The standing of a slot; a FREE slot has none. `clock` is the station minute while the clock is RUNNING. -/
def standingOf (damaged : Bool) (lc : Lifecycle) (r : Record) (grace : Nat) (clock : Option Nat) :
    Option Standing :=
  match lc, clock with
  | .free, _ => none
  | _, none => some .keep
  | .enrolled, some _ => some (if damaged then .keep else .fresh)
  | .suspended, some _ => some (if damaged then .keep else .barred)
  | .owned, some _ => some (if damaged then .keep else .owned)
  | .running, some now =>
    some (if damaged then .keep
      else if now < r.expiry then .credit
      else if now < r.expiry + grace then .grace
      else .locked)

/-- The standing of an undamaged live account with the clock RUNNING. -/
def Account.standing (a : Account) (grace now : Nat) : Option Standing :=
  standingOf false a.lc a.r grace (some now)

/-- The minutes of a grant (R55). -/
def grantMinutes (st : Standing) (expiry now : Nat) : Nat :=
  match st with
  | .credit => expiry - now
  | _ => 0

/-- The grace of a grant (R55). -/
def grantGrace (st : Standing) (expiry grace now : Nat) : Nat :=
  match st with
  | .credit => grace
  | .grace => expiry + grace - now
  | _ => 0

/-! ## Credit changes (R37) -/

/-- The awaiting serial is armed at the issued serial plus 1 and CHANGED is set (R2, R37). -/
def Record.arm (r : Record) : Record :=
  { r with awaiting := some (r.issued + 1), marks := { r.marks with changed := true } }

/-- A credit change: the record is armed, and lapse noted is cleared when the standing is then CREDIT (R37). -/
def Account.creditChange (a : Account) (grace now : Nat) : Account :=
  let r := a.r.arm
  { a with r := if a.standing grace now = some .credit then { r with lapseNoted := false } else r }

/-! ## Placing minutes (R44 to R46) -/

/-- The minutes applied out of `m`: the smaller of `m` and the room, in the expiry or, when SUSPENDED, in the
frozen credit (R44, R45). -/
def appliedMinutes (a : Account) (m now horizon : Nat) : Nat :=
  match a.lc with
  | .suspended => min m (horizon - a.r.frozen.getD 0)
  | _ => min m (roomFor a.r.expiry now horizon)

/-- The prior lifecycle after minutes are applied: ENROLLED becomes RUNNING when any were (R45). -/
def priorAfter (prior : Option Lifecycle) (applied : Nat) : Option Lifecycle :=
  if 0 < applied ∧ prior = some .enrolled then some .running else prior

/-- The record with `applied` minutes placed (R44 step 4, R45). -/
def placeMinutes (a : Account) (applied now : Nat) : Record :=
  match a.lc with
  | .suspended =>
    { a.r with frozen := some (a.r.frozen.getD 0 + applied), prior := priorAfter a.r.prior applied }
  | _ => { a.r with expiry := max a.r.expiry now + applied }

/-- An ENROLLED record becomes RUNNING (R47, R48); other lifecycles stay. -/
def startRunning (lc : Lifecycle) : Lifecycle := if lc = .enrolled then .running else lc

/-! ## Results -/

/-- What a credit computation hands to the command (R42, R47, R50). -/
structure CreditResult where
  account : Account
  applied : Nat
  toReserve : Int
  unapplied : Nat
  surplus : Nat
  deriving DecidableEq, Repr

/-! ## Top-up (R41 to R47) -/

/-- The money-minutes of a top-up (R43). -/
def moneyMinutes (amount residue : Nat) : Nat := amount * 1440 + residue

/-- The paid total, which stops at 4,294,967,295 (R1). -/
def paidAfter (paid money : Nat) : Nat := min (paid + money) Config.maxPaid

/-- The pay-off of R42, on the record left by the release. -/
def payOff (r : Record) (amount : Nat) : CreditResult :=
  let r' := { r with
    paidTotal := paidAfter r.paidTotal r.outstanding
    outstanding := 0
    reserve := 0
    residue := 0
    frozen := none
    prior := none
    lapseNoted := false }
  ⟨⟨.owned, r'.arm⟩, 0, 0, 0, amount - r.outstanding⟩

/-- The expiry of a top-up that buys no minute of an ENROLLED kit stays at its enrol minute (R47); otherwise the
record is as placed (R44, R45). DEDUCED (log 14). -/
def placeBought (a : Account) (bought applied now : Nat) : Record :=
  if a.lc = .enrolled ∧ bought = 0 then a.r else placeMinutes a applied now

/-- Steps 3 to 7 of a top-up that is no pay-off, on the account left by the release (R41, R43 to R47); `none` is
CREDIT_FULL (R46). -/
def buyMinutes (a : Account) (c : TariffClass) (amount now : Nat) : Option CreditResult :=
  let n := moneyMinutes amount a.r.residue
  let bought := n / c.price
  let applied := appliedMinutes a bought now c.horizon
  let rest := bought - applied
  if Config.maxReserve < a.r.reserve + rest then none
  else
    let r := { placeBought a bought applied now with
      outstanding := a.r.outstanding - amount
      paidTotal := paidAfter a.r.paidTotal amount
      residue := n % c.price
      reserve := a.r.reserve + rest }
    some ⟨(Account.mk (startRunning a.lc) r).creditChange c.grace now, applied, rest, 0, 0⟩

/-- A top-up (R41): release, pay-off test, then money, division, placing and reserve. -/
def topUp (a : Account) (c : TariffClass) (amount now : Nat) : Option CreditResult :=
  let r := releaseRecord a.lc a.r now c.horizon
  if r.outstanding ≤ amount then some (payOff r amount) else buyMinutes ⟨a.lc, r⟩ c amount now

/-! ## Adjust (R48 to R50) -/

/-- An adjust by a positive number of minutes (R48); `none` is CREDIT_FULL. -/
def adjustUp (a : Account) (c : TariffClass) (m now : Nat) : Option CreditResult :=
  let a := Account.mk a.lc (releaseRecord a.lc a.r now c.horizon)
  let applied := appliedMinutes a m now c.horizon
  let rest := m - applied
  if Config.maxReserve < a.r.reserve + rest then none
  else
    let r := { placeMinutes a applied now with reserve := a.r.reserve + rest }
    some ⟨(Account.mk (startRunning a.lc) r).creditChange c.grace now, applied, rest, 0, 0⟩

/-- The minutes a negative adjust may take from running or frozen credit (R49 steps 3 and 4). -/
def takeable (a : Account) (now : Nat) : Nat :=
  match a.lc with
  | .suspended => a.r.frozen.getD 0
  | _ => a.r.expiry - now

/-- Minutes taken from running or frozen credit (R49 steps 3 and 4). -/
def takeMinutes (a : Account) (taken : Nat) : Record :=
  match a.lc with
  | .suspended => { a.r with frozen := a.r.frozen.map (· - taken) }
  | _ => { a.r with expiry := a.r.expiry - taken }

/-- An adjust that takes back `m` minutes: from the reserve, then from running or frozen credit (R49). -/
def adjustDown (a : Account) (c : TariffClass) (m now : Nat) : CreditResult :=
  let a := Account.mk a.lc (releaseRecord a.lc a.r now c.horizon)
  let fromReserve := min m a.r.reserve
  let rest := m - fromReserve
  let taken := min rest (takeable a now)
  let r := { takeMinutes a taken with reserve := a.r.reserve - fromReserve }
  ⟨(Account.mk a.lc r).creditChange c.grace now, taken, -(fromReserve : Int), rest - taken, 0⟩

/-! ## Suspension and resumption (R51, R53) -/

/-- A suspension (R51): release, freeze, and the credit change that leaves lapse noted as it is. -/
def suspendAccount (a : Account) (c : TariffClass) (now : Nat) : Account :=
  let r := releaseRecord a.lc a.r now c.horizon
  ⟨.suspended, { r with frozen := some (r.expiry - now), prior := some a.lc }.arm⟩

/-- A resumption (R53): the expiry is laid down from now, the prior lifecycle returns, and a record then RUNNING is
released. -/
def resumeAccount (a : Account) (c : TariffClass) (now : Nat) : Account :=
  let lc := a.r.prior.getD .running
  let r := { a.r with expiry := now + a.r.frozen.getD 0, frozen := none, prior := none }
  (Account.mk lc (releaseRecord lc r now c.horizon)).creditChange c.grace now

/-! ## Lapse, silence and drift (R56, R57, R142) -/

/-- The LAPSED mark and lapse noted, when the standing is LOCKED and lapse noted is clear (R56). -/
def Record.noteLapse (r : Record) (st : Option Standing) : Record :=
  if st = some .locked ∧ r.lapseNoted = false then
    { r with lapseNoted := true, marks := { r.marks with lapsed := true } }
  else r

/-- The drift of a check-in: the kit's count less the expected remaining minutes, clamped (R57). -/
def driftOf (r : Record) (remaining now : Nat) : Int :=
  max (-32767) (min 32767 ((remaining : Int) - ((r.expiry - now : Nat) : Int)))

/-- The drift is written, and DRIFT set when a limit is set and exceeded (R57). -/
def Record.noteDrift (r : Record) (remaining now limit : Nat) : Record :=
  let d := driftOf r remaining now
  { r with drift := d, marks := { r.marks with drift := r.marks.drift || decide (limit ≠ 0 ∧ limit < d.natAbs) } }

end Sys2Proof.Machine
end

