-- ==== Sys2Proof/Machine/CheckIn.lean ====
section
/-! DEFINITION. Check-ins and grants (spec 06_check_ins_and_grants.md): the serial order, the KEEP turn, the ordinary
check-in turn step by step, and the check-in turn itself. -/

namespace Sys2Proof.Machine

/-- Serial `a` is newer than serial `b`: the distance (a - b) mod 65,536 lies in 1..32,767 (R100). -/
def newer (a b : Serial) : Bool := decide (1 ≤ (a - b).toNat) && decide ((a - b).toNat ≤ 32767)

/-! ## The steps of the ordinary check-in turn -/

/-- The kit was heard: last check-in, silence noted, a reported tamper (R107). -/
def Record.hear (r : Record) (c : CheckIn) (now : Nat) : Record :=
  { r with
    lastCheckIn := some now
    silenceNoted := false
    marks := { r.marks with tamper := r.marks.tamper || c.tamper } }

/-- Drift is evaluated for a RUNNING record (R108). -/
def Record.driftAt (r : Record) (lc : Lifecycle) (c : CheckIn) (cls : TariffClass) (now : Nat) : Record :=
  if lc = .running then r.noteDrift c.remaining.toNat now cls.drift else r

/-- The delivery test against the serial reported (R110). -/
def Record.deliver (r : Record) (s : Serial) : Record :=
  match r.awaiting with
  | none => r
  | some a =>
    if s = a ∨ newer s a then { r with awaiting := none, marks := { r.marks with delivered := true } } else r

/-- The kit's acknowledgement is taken and delivery tested (R109, R110). -/
def Record.acknowledge (r : Record) (s : Serial) : Record :=
  if newer s r.issued then r
  else
    let r' := if newer s r.acknowledged then { r with acknowledged := s } else r
    r'.deliver s

/-- The release of a check-in turn, with its accounting: lapse noted is cleared when minutes moved and the standing
is then CREDIT (R40, R111). -/
def Record.releaseHeard (r : Record) (lc : Lifecycle) (cls : TariffClass) (now : Nat) : Record :=
  let r' := releaseRecord lc r now cls.horizon
  if releaseMove lc r now cls.horizon ≠ 0 ∧ (Account.mk lc r').standing cls.grace now = some .credit then
    { r' with lapseNoted := false }
  else r'

/-- The next serial is issued, and an acknowledged serial left 32,768 behind is drawn forward (R112). -/
def Record.issueNext (r : Record) : Record :=
  let issued := r.issued + 1
  { r with
    issued := issued
    acknowledged := if issued - r.acknowledged = 32768#16 then r.acknowledged + 1 else r.acknowledged }

/-- The record as the ordinary check-in turn leaves it before the serial is issued (R107 to R111). -/
def heardRecord (lc : Lifecycle) (r : Record) (c : CheckIn) (cls : TariffClass) (now : Nat) : Record :=
  let r := (((r.hear c now).driftAt lc c cls now).acknowledge c.acknowledged).releaseHeard lc cls now
  r.noteLapse ((Account.mk lc r).standing cls.grace now)

/-- The record the ordinary check-in turn writes (R107 to R113). -/
def checkedInRecord (lc : Lifecycle) (r : Record) (c : CheckIn) (cls : TariffClass) (now : Nat) : Record :=
  (heardRecord lc r c cls now).issueNext

/-- The grant of an ordinary check-in turn, from the record as written (R102, R113). -/
def ordinaryGrant (lc : Lifecycle) (r : Record) (c : CheckIn) (cls : TariffClass) (now : Nat) : Grant :=
  let st := ((Account.mk lc r).standing cls.grace now).getD .keep
  ⟨c.kit, r.issued, st, grantMinutes st r.expiry now, grantGrace st r.expiry cls.grace now, c.serial⟩

/-- The KEEP grant (R106). -/
def keepGrant (c : CheckIn) (r : Record) : Grant := ⟨c.kit, r.issued, .keep, 0, 0, c.serial⟩

/-! ## Serving a kit (R105, R106, R113, R115) -/

/-- The ordinary check-in turn on an undamaged slot with the clock RUNNING (R107 to R115). -/
def Turn.serveOrdinary (t : Turn) (slot : Nat) (r : Record) (a : Arrival) (now : Nat) : Turn :=
  let lc := (t.s.tag slot).lifecycle
  let cls := t.s.tariffClass r.cls
  let r' := checkedInRecord lc r a.checkIn cls now
  (t.putRecord slot lc r').map (·.handOver (ordinaryGrant lc r' a.checkIn cls now) a)

/-- A kit found in a slot is served, with a KEEP grant or an ordinary turn (R105, R106). -/
def Turn.serve (t : Turn) (slot : Nat) (r : Record) (a : Arrival) : Turn :=
  match (t.s.tag slot).damaged, t.s.now with
  | false, some now => t.serveOrdinary slot r a now
  | _, _ => t.map (·.handOver (keepGrant a.checkIn r) a)

/-! ## The check-in turn (R103) -/

/-- The head of the arrival queue leaves it and is in service (R103). -/
def State.takeArrival (s : State) (a : Arrival) (rest : List Arrival) : State :=
  { s with link := { s.link with queue := rest, inService := some a } }

/-- The check-in is held with a full search for its kit (R65, R103). -/
def State.startCheckInSearch (s : State) (kit : KitId) : State :=
  { s with engine := { s.engine with checkInSearch := some ⟨kit, homeBucket kit, 0, none⟩ } }

/-- The work of a check-in turn for the head of the queue (R103). DESIGN CHOICE (log 23): an entry that names a FREE
slot, which R61 rules out, is an unknown kit. -/
def workCheckIn (a : Arrival) (rest : List Arrival) (t : Turn) : Turn :=
  let t := t.map (·.takeArrival a rest)
  let (t, _, l) := t.lookup a.checkIn.kit
  match l with
  | .absent => t.map State.noticeUnknown
  | .rebuilding => t.map (·.startCheckInSearch a.checkIn.kit)
  | .found slot =>
    if (t.s.tag slot).lifecycle = .free then t.map State.noticeUnknown
    else
      let (t, r) := t.readLive slot true
      t.serve slot r a

/-! ## A check-in turn that the link's leaving ENABLED found in progress (R116) -/

/-- The time unit with the clock and station minute as a turn read them at its start (R27). -/
def BegunTurn.readTime (b : BegunTurn) (t : TimeUnit) : TimeUnit :=
  match b.now with
  | none => { t with clock := .unset }
  | some now => { t with clock := .running, minute := now }

/-- The state a turn in progress stands on: the minute it read, and the counts its grant left. -/
def BegunTurn.resume (b : BegunTurn) (s : State) : State :=
  { s with
    time := b.readTime s.time
    engine := { s.engine with waits := b.waits, consecutive := b.consecutive, begun := none } }

/-- A check-in turn that was in progress completes whole, with its record write and its hand-over (R116). -/
def State.finishTurn (s : State) (b : BegunTurn) : State :=
  let s' := (workCheckIn b.arrival s.link.queue (Turn.start .checkIn (b.resume s))).write
  { s' with time := s.time }.settle

/-- CHECK_IN_TURN (R103): when the arbiter grants CHECK-IN the next turn and no check-in's search is in flight, the
head of the queue is served. Otherwise the check-in turn in progress as the link left ENABLED is completed (R116,
log 31). DESIGN CHOICE (log 1): a turn the arbiter does not grant is no event. -/
def execCheckInTurn (s : State) : Host.Outcome State Fault Refusal :=
  match s.engine.checkInSearch, s.link.queue, s.arbiter, s.engine.begun with
  | none, a :: rest, some .checkIn, _ => .next (s.turn .checkIn (workCheckIn a rest))
  | none, _, _, some b => .next (s.finishTurn b)
  | _, _, _, _ => .next s

end Sys2Proof.Machine
end

