-- ==== Sys2Proof/Machine/Records.lean ====
section
/-! DEFINITION. The record commands (spec 05_record_operations.md; READ RECORD, READ SLOT and FETCH MARKED of spec
01_kit_records_and_the_slot_table.md): the port's checks of their parameters, and the work of the turns that carry
them out. -/

namespace Sys2Proof.Machine

/-! ## Parameters (R81 step 3) -/

/-- A kit id that names no kit (R4). -/
def badKit (kit : KitId) : Bool := decide (kit = 0) || decide (kit = 0xFFFFFFFF#32)

/-- The frozen credit of an image, as its presence bit shows (R177). -/
def imageFrozen (i : RecordImage) : Option Nat := if i.presence.getLsbD 2 then some i.frozen.toNat else none

/-- The code of the prior lifecycle of an image, as its presence bit shows (R177). -/
def imagePrior (i : RecordImage) : Option Byte := if i.presence.getLsbD 3 then some i.prior else none

/-- The last check-in of an image, as its presence bit shows (R177). -/
def imageLastCheckIn (i : RecordImage) : Option Nat :=
  if i.presence.getLsbD 1 then some i.lastCheckIn.toNat else none

/-- The frozen credit and prior lifecycle of an image are refused (R92). -/
def badFreeze (i : RecordImage) : Bool :=
  match imageFrozen i, imagePrior i with
  | none, none => decide (i.lifecycle = 3)
  | none, some _ => true
  | some _, none => true
  | some f, some p => decide (i.lifecycle ≠ 3) || decide (Config.maxHorizon < f) || decide (p ≠ 1 ∧ p ≠ 2)

/-- An image that RESTORE refuses with BAD_VALUE: some row of R92's table holds. -/
def badImage (i : RecordImage) : Bool :=
  badKit i.kit
    || decide (15 < i.cls.toNat)
    || decide (i.lifecycle.toNat < 1 ∨ 4 < i.lifecycle.toNat)
    || decide (4200576000 < i.expiry.toNat)
    || decide (Config.maxReserve < i.reserve.toNat)
    || decide (65534 < i.residue.toNat)
    || decide (i.outstanding = 0 ∧ i.lifecycle ≠ 4 ∨ i.outstanding ≠ 0 ∧ i.lifecycle = 4)
    || decide (i.lifecycle = 4 ∧ (i.reserve ≠ 0 ∨ i.residue ≠ 0))
    || badFreeze i
    || decide (Config.maxMinute < (imageLastCheckIn i).getD 0)
    || decide (31744 ≤ (i.issued - i.acknowledged).toNat)

/-- A record command with a parameter outside its range (R81 step 3). -/
def RecordCommand.badValue : RecordCommand → Bool
  | .enrol kit cls outstanding => badKit kit || decide (15 < cls.toNat) || decide (outstanding = 0)
  | .topUp kit amount => badKit kit || decide (amount = 0)
  | .adjust kit minutes =>
    badKit kit || decide (minutes = 0) || decide (Config.maxHorizon < minutes.toInt.natAbs)
  | .suspend kit => badKit kit
  | .resume kit => badKit kit
  | .changeClass kit cls => badKit kit || decide (15 < cls.toNat)
  | .retire kit => badKit kit
  | .retireSlot slot => decide (4095 < slot.toNat)
  | .restore image => badImage image
  | .readRecord kit => badKit kit
  | .readSlot slot => decide (4095 < slot.toNat)
  | .fetchMarked => false

/-! ## Shared steps of a command's turns -/

/-- A command that needs the station minute is refused with CLOCK_UNSET when the turn reads the clock UNSET
(R81 step 4). -/
def Turn.withClock (t : Turn) (code : Byte) (f : Nat → Turn) : Turn :=
  match t.s.now with
  | none => t.refuse code .clockUnset
  | some now => f now

/-- A full search of COMMAND starts, and the turn ends (R65). -/
def Turn.startCommandSearch (t : Turn) (kit : KitId) : Turn :=
  t.map fun s => { s with engine := { s.engine with commandSearch := some ⟨kit, homeBucket kit, 0, none⟩ } }

/-- A slot found by a lookup is read and used (R82). DESIGN CHOICE (log 23): an entry that names a FREE slot, which
R61 rules out, is answered NOT_FOUND. -/
def Turn.useFound (t : Turn) (code : Byte) (slot : Nat) (use : Turn → Nat → Record → Turn) : Turn :=
  if (t.s.tag slot).lifecycle = .free then t.refuse code .notFound
  else
    let (t, r) := t.readLive slot true
    use t slot r

/-- A slot found by a lookup is read (R64, R82), by a command that takes nothing from the body. DESIGN CHOICE (log 23):
an entry that names a FREE slot, which R61 rules out, has no body to read. -/
def Turn.readFound (t : Turn) (slot : Nat) : Turn :=
  if (t.s.tag slot).lifecycle = .free then t else (t.readLive slot true).1

/-- The command turn of a command that names a kit (R82): the lookup, then NOT_FOUND, a full search, or the use of
the slot found. -/
def Turn.withKit (t : Turn) (code : Byte) (kit : KitId) (use : Turn → Nat → Record → Turn) : Turn :=
  let (t, _, l) := t.lookup kit
  match l with
  | .absent => t.refuse code .notFound
  | .rebuilding => t.startCommandSearch kit
  | .found slot => t.useFound code slot use

/-- A DAMAGED slot refuses the command with RECORD_DAMAGED (R82). -/
def Turn.undamaged (t : Turn) (code : Byte) (slot : Nat) (f : Lifecycle → Turn) : Turn :=
  let tag := t.s.tag slot
  if tag.damaged then t.refuse code .recordDamaged else f tag.lifecycle

/-- The standing of a live slot as the turn leaves it (R54). -/
def Turn.standing (t : Turn) (slot : Nat) (r : Record) : Option Standing :=
  let tag := t.s.tag slot
  standingOf tag.damaged tag.lifecycle r (t.s.tariffClass r.cls).grace t.s.now

/-- The image of a live slot whose body was read as `r` (R177). -/
def Turn.image (t : Turn) (slot : Nat) (r : Record) : RecordImage :=
  recordImage slot (t.s.tag slot) r (t.standing slot r)

/-- The credit result block (section 11.2); the frozen credit is 0 unless SUSPENDED. -/
def creditBytes (res : CreditResult) (st : Option Standing) : List Byte :=
  beBytes 3 res.applied ++ signedBytes 3 res.toReserve ++ beBytes 3 res.unapplied
    ++ beBytes 4 res.account.r.expiry
    ++ beBytes 3 (if res.account.lc = .suspended then res.account.r.frozen.getD 0 else 0)
    ++ beBytes 3 res.account.r.reserve ++ beBytes 4 res.account.r.outstanding ++ beBytes 3 res.surplus
    ++ beBytes 4 res.account.r.paidTotal ++ [standingCode st]

/-- A credit result is written and answered (R83, R85, R86). -/
def Turn.answerCredit (t : Turn) (code : Byte) (slot : Nat) (c : TariffClass) (now : Nat)
    (res : Option CreditResult) : Turn :=
  match res with
  | none => t.refuse code .creditFull
  | some res =>
    (t.putRecord slot res.account.lc res.account.r).answer code .ok
      (creditBytes res (res.account.standing c.grace now))

/-! ## TOP UP and ADJUST (R85, R86) -/

/-- TOP UP on the slot found (R85). -/
def useTopUp (amount : BitVec 24) (t : Turn) (slot : Nat) (r : Record) : Turn :=
  t.withClock 0x11 fun now => t.undamaged 0x11 slot fun lc =>
    let c := t.s.tariffClass r.cls
    if lc = .owned then t.refuse 0x11 .wrongLifecycle
    else if c.price = 0 then t.refuse 0x11 .classClosed
    else t.answerCredit 0x11 slot c now (topUp ⟨lc, r⟩ c amount.toNat now)

/-- ADJUST on the slot found (R86). -/
def useAdjust (minutes : BitVec 24) (t : Turn) (slot : Nat) (r : Record) : Turn :=
  t.withClock 0x12 fun now => t.undamaged 0x12 slot fun lc =>
    let c := t.s.tariffClass r.cls
    if lc = .owned then t.refuse 0x12 .wrongLifecycle
    else t.answerCredit 0x12 slot c now
      (if 0 < minutes.toInt then adjustUp ⟨lc, r⟩ c minutes.toInt.natAbs now
       else some (adjustDown ⟨lc, r⟩ c minutes.toInt.natAbs now))

/-! ## SUSPEND and RESUME (R87, R88) -/

/-- SUSPEND on the slot found (R87). -/
def useSuspend (t : Turn) (slot : Nat) (r : Record) : Turn :=
  t.withClock 0x13 fun now => t.undamaged 0x13 slot fun lc =>
    if lc ≠ .enrolled ∧ lc ≠ .running then t.refuse 0x13 .wrongLifecycle
    else
      let c := t.s.tariffClass r.cls
      let a := suspendAccount ⟨lc, r⟩ c now
      (t.putRecord slot a.lc a.r).answer 0x13 .ok
        (beBytes 3 (a.r.frozen.getD 0) ++ [priorCode a.r.prior] ++ beBytes 3 a.r.reserve
          ++ [standingCode (a.standing c.grace now)])

/-- RESUME on the slot found (R88). -/
def useResume (t : Turn) (slot : Nat) (r : Record) : Turn :=
  t.withClock 0x14 fun now => t.undamaged 0x14 slot fun lc =>
    if lc ≠ .suspended then t.refuse 0x14 .wrongLifecycle
    else
      let c := t.s.tariffClass r.cls
      let a := resumeAccount ⟨lc, r⟩ c now
      (t.putRecord slot a.lc a.r).answer 0x14 .ok
        ([a.lc.code] ++ beBytes 4 a.r.expiry ++ beBytes 3 a.r.reserve
          ++ [standingCode (a.standing c.grace now)])

/-! ## CHANGE CLASS (R89) -/

/-- The record moved to another class, with CHANGED set (R89). -/
def Record.toClass (r : Record) (cls : Nat) : Record :=
  { r with cls := cls, marks := { r.marks with changed := true } }

/-- CHANGE CLASS on the slot found (R89). -/
def useChangeClass (cls : Byte) (t : Turn) (slot : Nat) (r : Record) : Turn :=
  t.undamaged 0x15 slot fun lc =>
    if lc = .owned then t.refuse 0x15 .wrongLifecycle
    else if (t.s.tariffClass cls.toNat).price = 0 then t.refuse 0x15 .classClosed
    else
      let r' := r.toClass cls.toNat
      let t := t.putRecord slot lc r'
      t.answer 0x15 .ok [cls, standingCode (t.standing slot r')]

/-! ## RETIRE and RETIRE SLOT (R90, R91) -/

/-- A live slot whose body was read is retired, and the final image returned (R90 steps 2 to 4). -/
def retireAt (code : Byte) (t : Turn) (slot : Nat) (r : Record) : Turn :=
  let image := t.image slot r
  let t := (t.removeEntry (t.s.tag slot).location).freeSlot slot
  (t.map State.checkEvacuation).answer code .ok (imageBytes image)

/-- RETIRE on the slot found (R90). -/
def useRetire (t : Turn) (slot : Nat) (r : Record) : Turn := retireAt 0x16 t slot r

/-- The command turn of RETIRE SLOT (R91). -/
def workRetireSlot (slot : Nat) (t : Turn) : Turn :=
  if !(t.s.bank (bankIndex slot)).inUse then t.refuse 0x17 .wrongState
  else if (t.s.tag slot).lifecycle = .free then t.refuse 0x17 .notFound
  else
    let (t, r) := t.readLive slot true
    retireAt 0x17 t slot r

/-! ## READ RECORD, READ SLOT and FETCH MARKED (R17, R18) -/

/-- READ RECORD on the slot found (R17). -/
def useReadRecord (t : Turn) (slot : Nat) (r : Record) : Turn :=
  t.answer 0x19 .ok (imageBytes (t.image slot r))

/-- The command turn of READ SLOT (R17). -/
def workReadSlot (slot : Nat) (t : Turn) : Turn :=
  if !(t.s.bank (bankIndex slot)).inUse then t.refuse 0x1A .wrongState
  else if (t.s.tag slot).lifecycle = .free then t.answer 0x1A .ok (imageBytes (freeImage slot))
  else
    let (t, r) := t.readLive slot true
    t.answer 0x1A .ok (imageBytes (t.image slot r))

/-- A live slot whose marked indication or DAMAGED mark is set (R18). -/
def State.needsHost (s : State) (slot : Nat) : Bool :=
  let tag := s.tag slot
  decide (tag.lifecycle ≠ .free) && (tag.marked || tag.damaged)

/-- The slot FETCH MARKED takes: the first from the fetch cursor, wrapping (R18). -/
def State.nextMarked (s : State) : Option Nat :=
  scan Config.slots s.needsHost Config.slots s.engine.fetchCursor

/-- The fetch cursor moves past a slot (R18). -/
def State.fetchPast (s : State) (slot : Nat) : State :=
  { s with engine := { s.engine with fetchCursor := (slot + 1) % Config.slots } }

/-- The command turn of FETCH MARKED (R18). -/
def workFetchMarked (t : Turn) : Turn :=
  match t.s.nextMarked with
  | none => t.refuse 0x1B .notFound
  | some slot =>
    let (t, r) := t.readLive slot true
    let image := t.image slot r
    let t := t.putRecord slot (t.s.tag slot).lifecycle { r with marks := Marks.none }
    (t.map (·.fetchPast slot)).answer 0x1B .ok (imageBytes image)

/-! ## ENROL (R84) -/

/-- The record ENROL creates (R1, R84). -/
def enrolledRecord (kit : KitId) (cls outstanding now : Nat) : Record where
  kit := kit
  cls := cls
  expiry := now
  reserve := 0
  residue := 0
  outstanding := outstanding
  paidTotal := 0
  issued := 0
  acknowledged := 0
  awaiting := none
  lastCheckIn := none
  drift := 0
  frozen := none
  prior := none
  lapseNoted := false
  silenceNoted := false
  marks := { Marks.none with changed := true }

/-- A record is placed in a new slot (R68, R84, R93): the directory entry, the body, the tag that names the entry,
and the allocation pointer past the slot. -/
def Turn.placeNew (t : Turn) (loc : Location) (slot : Nat) (lc : Lifecycle) (r : Record) : Turn :=
  let t := (t.putEntry loc r.kit slot (homeBucket r.kit)).putBody slot r
  (t.putTag slot ⟨lc, false, loc, r.marks.any⟩).map (·.pastSlot slot)

/-- The insert of R68 for a kit the lookup did not find: its refusals in order, then what `place` does with the
entry's location and the slot. -/
def Turn.insert (t : Turn) (code : Byte) (kit : KitId) (ways : Four (Option Entry)) (l : Lookup)
    (place : Turn → Location → Nat → Turn) : Turn :=
  let loc := t.s.placeFor (homeBucket kit) ways
  if l = .rebuilding then t.refuse code .rebuilding
  else if loc = .nowhere then t.refuse code .directoryFull
  else
    match t.s.allocate with
    | none => t.refuse code .tableFull
    | some slot => place t loc slot

/-- The command turn of ENROL (R84). An ENROL whose lookup finds the kit has read the body of the slot found (R64, R82)
and is refused with EXISTS, whether the slot is DAMAGED or not (R68). -/
def workEnrol (kit : KitId) (cls : Byte) (outstanding : BitVec 32) (t : Turn) : Turn :=
  t.withClock 0x10 fun now =>
    if (t.s.tariffClass cls.toNat).price = 0 then t.refuse 0x10 .classClosed
    else
      let (t, ways, l) := t.lookup kit
      match l with
      | .found slot => (t.readFound slot).refuse 0x10 .kitExists
      | l => t.insert 0x10 kit ways l fun t loc slot =>
        (t.placeNew loc slot .enrolled (enrolledRecord kit cls.toNat outstanding.toNat now)).answer 0x10 .ok
          (beBytes 2 slot)

/-! ## RESTORE (R92 to R95) -/

/-- The lifecycle of an image that passed R92. -/
def imageLifecycle (i : RecordImage) : Lifecycle := (lifecycleOf i.lifecycle).getD .enrolled

/-- The excess of an image's expiry over now + H (R94). -/
def imageExcess (i : RecordImage) (c : TariffClass) (now : Nat) : Nat := i.expiry.toNat - (now + c.horizon)

/-- The reserve RESTORE writes: for ENROLLED and RUNNING the excess joins the image's reserve, otherwise it is
discarded (R94). -/
def restoredReserve (i : RecordImage) (c : TariffClass) (now : Nat) : Nat :=
  match imageLifecycle i with
  | .enrolled | .running => i.reserve.toNat + imageExcess i c now
  | _ => i.reserve.toNat

/-- The record RESTORE writes (R94, R95), with the drift of the slot it replaces, or 0. -/
def restoredRecord (i : RecordImage) (c : TariffClass) (now : Nat) (drift : Int) : Record where
  kit := i.kit
  cls := i.cls.toNat
  expiry := min i.expiry.toNat (now + c.horizon)
  reserve := restoredReserve i c now
  residue := i.residue.toNat
  outstanding := i.outstanding.toNat
  paidTotal := i.paidTotal.toNat
  issued := i.issued + Config.serialLeap
  acknowledged := i.acknowledged
  awaiting := some (i.issued + Config.serialLeap + 1)
  lastCheckIn := (imageLastCheckIn i).map (min now)
  drift := drift
  frozen := imageFrozen i
  prior := (imagePrior i).bind lifecycleOf
  lapseNoted := false
  silenceNoted := false
  marks := { marksOf i.marks with changed := false }

/-- The response of RESTORE (R93, section 11.2). -/
def restoreBytes (slot : Nat) (new : Bool) (lc : Lifecycle) (r : Record) (c : TariffClass) (now : Nat) :
    List Byte :=
  beBytes 2 slot ++ [flagByte new] ++ beBytes 4 r.expiry ++ beBytes 3 r.reserve ++ beBytes 2 r.issued.toNat
    ++ [standingCode ((Account.mk lc r).standing c.grace now)]

/-- RESTORE in place (R93): the slot keeps its number and its location, and is no longer DAMAGED. -/
def Turn.restoreInPlace (t : Turn) (i : RecordImage) (c : TariffClass) (now slot : Nat) : Turn :=
  let (t, old) := t.readLive slot true
  let r := restoredRecord i c now old.drift
  let lc := imageLifecycle i
  if Config.maxReserve < r.reserve then t.refuse 0x18 .creditFull
  else
    let t := (t.putBody slot r).putTag slot ⟨lc, false, (t.s.tag slot).location, r.marks.any⟩
    t.answer 0x18 .ok (restoreBytes slot false lc r c now)

/-- The command turn of RESTORE (R93). -/
def workRestore (i : RecordImage) (t : Turn) : Turn :=
  t.withClock 0x18 fun now =>
    let c := t.s.tariffClass i.cls.toNat
    let (t, ways, l) := t.lookup i.kit
    match l with
    | .found slot => t.restoreInPlace i c now slot
    | l => t.insert 0x18 i.kit ways l fun t loc slot =>
      let r := restoredRecord i c now 0
      let lc := imageLifecycle i
      if Config.maxReserve < r.reserve then t.refuse 0x18 .creditFull
      else (t.placeNew loc slot lc r).answer 0x18 .ok (restoreBytes slot true lc r c now)

/-! ## The turns of COMMAND (R82) -/

/-- The command turn of a record command, from its lookup or slot selection (R82). CLOCK_UNSET comes before the
lookup (R81). -/
def RecordCommand.work (c : RecordCommand) (t : Turn) : Turn :=
  match c with
  | .enrol kit cls outstanding => workEnrol kit cls outstanding t
  | .topUp kit amount => t.withClock 0x11 fun _ => t.withKit 0x11 kit (useTopUp amount)
  | .adjust kit minutes => t.withClock 0x12 fun _ => t.withKit 0x12 kit (useAdjust minutes)
  | .suspend kit => t.withClock 0x13 fun _ => t.withKit 0x13 kit useSuspend
  | .resume kit => t.withClock 0x14 fun _ => t.withKit 0x14 kit useResume
  | .changeClass kit cls => t.withKit 0x15 kit (useChangeClass cls)
  | .retire kit => t.withKit 0x16 kit useRetire
  | .retireSlot slot => workRetireSlot slot.toNat t
  | .restore image => workRestore image t
  | .readRecord kit => t.withKit 0x19 kit useReadRecord
  | .readSlot slot => workReadSlot slot.toNat t
  | .fetchMarked => workFetchMarked t

/-- The use of a slot by the held command at its using turn (R66). The commands that start no search (ENROL,
RETIRE SLOT, RESTORE, READ SLOT, FETCH MARKED) have no using turn; DESIGN CHOICE (log 32): in a state that gives them
one, which no run reaches, they are answered NOT_FOUND. -/
def RecordCommand.use (c : RecordCommand) (t : Turn) (slot : Nat) (r : Record) : Turn :=
  match c with
  | .topUp _ amount => useTopUp amount t slot r
  | .adjust _ minutes => useAdjust minutes t slot r
  | .suspend _ => useSuspend t slot r
  | .resume _ => useResume t slot r
  | .changeClass _ cls => useChangeClass cls t slot r
  | .retire _ => useRetire t slot r
  | .readRecord _ => useReadRecord t slot r
  | .enrol _ _ _ | .retireSlot _ | .restore _ | .readSlot _ | .fetchMarked => t.refuse c.code .notFound

/-- COMMAND_TURN (R82): when the arbiter grants COMMAND the next turn and the held command has no search in
flight, the turn carries it out. DESIGN CHOICE (log 1): a turn the arbiter does not grant is no event. -/
def execCommandTurn (s : State) : Host.Outcome State Fault Refusal :=
  match s.engine.held, s.engine.commandSearch with
  | some c, none => if s.arbiter = some .command then .next (s.turn .command c.work) else .next s
  | _, _ => .next s

end Sys2Proof.Machine
end

