-- ==== Sys2Proof/Machine/Search.lean ====
section
/-! DEFINITION. The turns of an in-flight full search (R65, R66): the 64-slot step, and the using turn. -/

namespace Sys2Proof.Machine

/-! ## The search step (R65) -/

/-- One slot is examined, unless the step has already stopped at a match (R65). -/
def searchSlot (kit : KitId) (acc : Turn × Option Nat) (slot : Nat) : Turn × Option Nat :=
  match acc.2 with
  | some _ => acc
  | none =>
    let tag := acc.1.s.tag slot
    if tag.lifecycle = .free ∨ tag.damaged then acc
    else
      let (t, r) := acc.1.readLive slot true
      if (t.s.tag slot).damaged then (t, none)
      else if r.kit = kit then (t, some slot)
      else (t, none)

/-- The slots of one step are examined in increasing order (R65). -/
def Turn.examine (t : Turn) (se : Search) : Turn × Option Nat :=
  ((List.range Config.searchSlots).map (se.next + ·)).foldl (searchSlot se.kit) (t, none)

/-- The in-flight search of an owner is replaced (R65). -/
def State.putSearch (s : State) (owner : Requester) (se : Option Search) : State :=
  match owner with
  | .checkIn => { s with engine := { s.engine with checkInSearch := se } }
  | .command => { s with engine := { s.engine with commandSearch := se } }
  | _ => s

/-- The owner's operation is answered as for a kit not found, and its search is over (R64, R65, R66). DESIGN CHOICE
(log 32): a search of COMMAND without a held command, which no run reaches, changes nothing here. -/
def Turn.searchFails (t : Turn) (owner : Requester) : Turn :=
  match owner, t.s.engine.held with
  | .checkIn, _ => t.map fun s => (s.putSearch .checkIn none).noticeUnknown
  | .command, some c => t.refuse c.code .notFound
  | _, _ => t

/-- One search step (R65). -/
def workSearchStep (owner : Requester) (se : Search) (t : Turn) : Turn :=
  let (t, found) := t.examine se
  match found with
  | some slot =>
    (t.reinsert slot se.kit se.home).map (·.putSearch owner (some { se with found := some slot }))
  | none =>
    if se.next + Config.searchSlots < Config.slots then
      t.map (·.putSearch owner (some { se with next := se.next + Config.searchSlots }))
    else t.searchFails owner

/-- The in-flight search of the requester the next turn goes to. -/
def State.searchOf (s : State) (r : Requester) : Option Search :=
  match r with
  | .checkIn => s.engine.checkInSearch
  | .command => s.engine.commandSearch
  | _ => none

/-- SEARCH_STEP (R65): when the arbiter grants the next turn to the owner of an in-flight search that has not found
its slot, the turn is one step of it. DESIGN CHOICE (log 1): otherwise no event. -/
def execSearchStep (s : State) : Host.Outcome State Fault Refusal :=
  match s.arbiter with
  | none => .next s
  | some owner =>
    match s.searchOf owner with
    | some ⟨kit, home, next, none⟩ => .next (s.turn owner (workSearchStep owner ⟨kit, home, next, none⟩))
    | _ => .next s

/-! ## The using turn (R66) -/

/-- The owner's operation is carried out on the slot its search found (R66). DESIGN CHOICE (log 32): with no check-in in
service, or no command held, which no run reaches, the turn only reads. -/
def Turn.useFor (t : Turn) (owner : Requester) (slot : Nat) (r : Record) : Turn :=
  match owner with
  | .checkIn =>
    let t := t.map (·.putSearch .checkIn none)
    match t.s.link.inService with
    | none => t
    | some a => t.serve slot r a
  | .command =>
    match t.s.engine.held with
    | none => t
    | some c => c.use t slot r
  | _ => t

/-- The using turn: the two checks of R66, then the operation or its not-found answer. -/
def workUsingTurn (owner : Requester) (kit : KitId) (slot : Nat) (t : Turn) : Turn :=
  if (t.s.tag slot).lifecycle = .free then t.searchFails owner
  else
    let (t, r) := t.readLive slot true
    if r.kit = kit then t.useFor owner slot r else t.searchFails owner

/-- USING_TURN (R66): when the arbiter grants the next turn to the owner of a search that holds its found slot, the
turn uses it. DESIGN CHOICE (log 1): otherwise no event. -/
def execUsingTurn (s : State) : Host.Outcome State Fault Refusal :=
  match s.arbiter with
  | none => .next s
  | some owner =>
    match s.searchOf owner with
    | some ⟨kit, _, _, some slot⟩ => .next (s.turn owner (workUsingTurn owner kit slot))
    | _ => .next s

end Sys2Proof.Machine
end

