-- ==== Sys2Proof/Machine/Sweep.lean ====
section
/-! DEFINITION. The sweep (spec 08_the_sweep.md): the visit, what it evaluates, the end of a pass, and SET SWEEP and
READ SWEEP. -/

namespace Sys2Proof.Machine

/-! ## The pass (R73, R139, R144) -/

/-- A bucket at the end of the pass numbered `ending` (R73, R144). -/
def Bucket.endPass (ending : BitVec 16) (k : Bucket) : Bucket :=
  match k.state with
  | .normal => k
  | .rebuilding pass => if pass = ending then k else { k with state := .normal }

/-- A pass ends (R144): buckets return to NORMAL, then the pass number rises. -/
def State.endPass (s : State) : State :=
  { s with
    dir := { s.dir with buckets := cellMap Bucket.cleared (Bucket.endPass s.sweep.pass) s.dir.buckets }
    sweep := { s.sweep with pass := s.sweep.pass + 1 } }

/-- The position moves on by 1; a move from 4,095 to 0 ends the pass (R139, R144). -/
def State.movePosition (s : State) : State :=
  let next := (s.sweep.position + 1) % Config.slots
  let s' := { s with sweep := { s.sweep with position := next } }
  if next = 0 then s'.endPass else s'

/-- The slot at the position lies in a bank that turns may visit (R139). -/
def State.positionInUse (s : State) : Bool := (s.bank (bankIndex s.sweep.position)).inUse

/-- Slots whose bank is OUT_OF_SERVICE or INITIALISING are passed over, at most `n` of them (R139 step 1). -/
def State.passOver : Nat → State → State
  | 0, s => s
  | n + 1, s => if s.positionInUse then s else State.passOver n s.movePosition

/-! ## The visit (R140 to R143) -/

/-- A FREE slot is scrubbed (R140). -/
def Turn.scrub (t : Turn) (slot : Nat) : Turn :=
  let b := t.s.body slot
  match b.check with
  | .good => t
  | .single => (t.countCorrected (bankIndex slot)).putBody slot b.read
  | .double => (t.putBody slot Record.cleared).map (·.feedError (.record slot) t.who)

/-- The release of a visit, a credit change when it moves minutes (R40, R142 steps 1 and 2). -/
def releaseVisited (lc : Lifecycle) (r : Record) (c : TariffClass) (now : Nat) : Record :=
  if releaseMove lc r now c.horizon = 0 then r
  else ((Account.mk lc (releaseRecord lc r now c.horizon)).creditChange c.grace now).r

/-- The class silence limit has passed since the last check-in (R142 step 3). -/
def Record.silentAt (r : Record) (c : TariffClass) (now : Nat) : Bool :=
  match r.lastCheckIn with
  | none => false
  | some last => decide (c.silence ≠ 0) && decide (c.silence ≤ now - last) && !r.silenceNoted

/-- The SILENT mark and silence noted (R142 step 3). -/
def Record.noteSilence (r : Record) (c : TariffClass) (now : Nat) : Record :=
  if r.silentAt c now then { r with silenceNoted := true, marks := { r.marks with silent := true } } else r

/-- The evaluation of a visit with the clock RUNNING (R142). -/
def visitedRecord (lc : Lifecycle) (r : Record) (c : TariffClass) (now : Nat) : Record :=
  let r' := releaseVisited lc r c now
  (r'.noteLapse ((Account.mk lc r').standing c.grace now)).noteSilence c now

/-- The record is evaluated, and written when the evaluation changed it (R141, R142). -/
def Turn.evaluate (t : Turn) (slot : Nat) (r : Record) : Turn :=
  match t.s.now with
  | none => t
  | some now =>
    let lc := (t.s.tag slot).lifecycle
    let r' := visitedRecord lc r (t.s.tariffClass r.cls) now
    if r' = r then t else t.putRecord slot lc r'

/-- A live slot is visited (R141 to R143). -/
def Turn.visitLive (t : Turn) (slot : Nat) : Turn :=
  if (t.s.tag slot).damaged then t
  else
    let (t, r) := t.readLive slot true
    if (t.s.tag slot).damaged then t
    else (t.evaluate slot r).reinsert slot r.kit (homeBucket r.kit)

/-- A slot is visited (R140, R141). -/
def Turn.visit (t : Turn) (slot : Nat) : Turn :=
  if (t.s.tag slot).lifecycle = .free then t.scrub slot else t.visitLive slot

/-- The visit uses one credit, and the position moves past the slot visited (R139). -/
def State.spendCredit (s : State) : State :=
  { s with sweep := { s.sweep with credits := s.sweep.credits - 1 } }

/-- The work of a sweep visit (R139). A slot to visit lies within four slots of the position while a bank is in use
(log 24). -/
def workSweepVisit (t : Turn) : Turn :=
  let t := t.map (State.passOver 4)
  if t.s.positionInUse then
    (t.visit t.s.sweep.position).map fun s => s.spendCredit.movePosition
  else t

/-- SWEEP_VISIT (R139): when the arbiter grants SWEEP the next turn. DESIGN CHOICE (log 1): otherwise no event. -/
def execSweepVisit (s : State) : Host.Outcome State Fault Refusal :=
  if s.arbiter = some .sweep then .next (s.turn .sweep workSweepVisit) else .next s

/-! ## SET SWEEP and READ SWEEP (R145) -/

/-- The sweep report (section 11.2). -/
def SweepUnit.report (u : SweepUnit) : List Byte :=
  beBytes 1 u.rate ++ beBytes 1 u.credits ++ beBytes 2 u.position ++ beBytes 2 u.pass.toNat

/-- SET SWEEP as the port executes it (R145). -/
def portSetSweep (rate : Byte) (s : State) : State :=
  if Config.maxCredits < rate.toNat then s.refuse 0x2A .badValue
  else
    let s := { s with sweep := { s.sweep with rate := rate.toNat } }
    s.respond 0x2A .ok s.sweep.report

/-- READ SWEEP as the port executes it (R145). -/
def portReadSweep (s : State) : State := s.respond 0x2B .ok s.sweep.report

end Sys2Proof.Machine
end

