-- ==== Sys2Proof/Machine/Tariff.lean ====
section
/-! DEFINITION. The tariff table's commands (R33 to R35). -/

namespace Sys2Proof.Machine

/-- The fields of a class block as a tariff class. -/
def classOfBlock (b : ClassBlock) : TariffClass :=
  ⟨b.price.toNat, b.horizon.toNat, b.grace.toNat, b.silence.toNat, b.drift.toNat⟩

/-- A field of a class lies outside its range (R33). -/
def TariffClass.outOfRange (c : TariffClass) : Bool :=
  decide (65535 < c.price) || decide (c.horizon < 1440) || decide (Config.maxHorizon < c.horizon)
    || decide (10080 < c.grace) || decide (43200 < c.silence) || decide (1440 < c.drift)

/-- The class block of a class (section 11.2). -/
def classBytes (cls : Byte) (c : TariffClass) : List Byte :=
  [cls] ++ beBytes 2 c.price ++ beBytes 3 c.horizon ++ beBytes 2 c.grace ++ beBytes 2 c.silence ++ beBytes 2 c.drift

/-- SET CLASS as the port executes it (R34). -/
def portSetClass (block : ClassBlock) (s : State) : State :=
  let c := classOfBlock block
  if 15 < block.cls.toNat then s.refuse 0x28 .badValue
  else if c.outOfRange then s.refuse 0x28 .badValue
  else (s.putClass block.cls.toNat c).respond 0x28 .ok (classBytes block.cls c)

/-- READ CLASS as the port executes it (R35). -/
def portReadClass (cls : Byte) (s : State) : State :=
  if 15 < cls.toNat then s.refuse 0x29 .badValue
  else s.respond 0x29 .ok (classBytes cls (s.tariffClass cls.toNat))

end Sys2Proof.Machine
end

