-- ==== Sys2Proof/Machine/Time.lean ====
section
/-! DEFINITION. The time unit (spec 02_station_time.md): an edge of the time input with everything it brings about,
the rows that name a timed event, loss of the input, and the time commands. -/

namespace Sys2Proof.Machine

/-! ## The raw minute tick (R21, R138) -/

/-- The effect of a raw minute tick within the time unit (R21). -/
def TimeUnit.tick (t : TimeUnit) : TimeUnit :=
  match t.clock with
  | .unset => t
  | .running =>
    if 0 < t.hold then { t with hold := t.hold - 1 }
    else if t.minute < Config.maxMinute then { t with minute := t.minute + 1 }
    else t

/-- The visit credits rise by the rate and stop at 64 (R138). -/
def SweepUnit.tick (u : SweepUnit) : SweepUnit := { u with credits := min (u.credits + u.rate) Config.maxCredits }

/-- A raw minute tick reaches the time unit and the sweep unit (R21). -/
def State.tick (s : State) : State := { s with time := s.time.tick, sweep := s.sweep.tick }

/-! ## An edge of the time input -/

/-- The counting of an edge (R20, R28, R31): a lost input has returned, the divider and the link timer count, and
the divider's wrap emits a raw minute tick. -/
def State.countEdge (s : State) : State :=
  let s' := { s with time := { s.time with inputLost := false, timer := s.time.timer + 1 } }
  if s.time.divider + 1 < Config.minuteEdges then
    { s' with time := { s'.time with divider := s.time.divider + 1 } }
  else ({ s' with time := { s'.time with divider := 0 } }).tick

/-- One edge of the time input: the counts, then what the link timer's new value brings about (R126, R129, R130,
R134). `timeoutFirst` gives the order in which a transmit timeout and a latest start passed at the same count are
taken, which the manual leaves open (log 4). DESIGN CHOICE (log 4): a raw minute tick at the same edge comes first, so
that a check-in turn in progress as a timeout takes the link out of ENABLED has read the minute after the tick and has
the counts of a grant after it, where R27 would let the turn lie before the tick too. -/
def State.edge (s : State) (timeoutFirst : Bool) : State :=
  let s := s.countEdge.watchStamps
  (if timeoutFirst then s.timeOut.collideAll else s.collideAll.timeOut).openAll

/-- TIME_INPUT_EDGE (R20, R28, R31). -/
def execTimeInputEdge (s : State) : Host.Outcome State Fault Refusal := .next (s.edge false)

/-! ## The rows that name a timed event

DESIGN CHOICE (log 3): such a row lets the time input run on, edge by edge, to the edge of its event, provided no
other timed event comes first; otherwise it changes nothing. -/

/-- Edges until the link timer counts to `target` (1..65,536). -/
def edgesTo (target timer : Stamp) : Nat := if target = timer then 65536 else (target - timer).toNat

/-- Edges until the next raw minute tick (R20). -/
def State.edgesToTick (s : State) : List Nat := [Config.minuteEdges - s.time.divider]

/-- Edges until each waiting check-in is marked overdue (R126). -/
def State.edgesToOverdue (s : State) : List Nat :=
  ((s.link.queue ++ s.link.inService.toList).filter (! ·.overdue)).map
    fun a => edgesTo (a.stamp + 32768#16) s.time.timer

/-- Edges until a channel in a phase reaches a count of the link timer. -/
def State.edgesOf (s : State) (phase : Phase) (target : Channel → Stamp) : List Nat :=
  (s.link.channels.filterMap fun e => e.2).filterMap fun ch =>
    if ch.phase = phase then some (edgesTo (target ch) s.time.timer) else none

/-- Edges until each SCHEDULED channel's earliest start (R129). -/
def State.edgesToEarliest (s : State) : List Nat := s.edgesOf .scheduled (·.earliest)

/-- Edges until the count after each READY channel's latest start (R130). -/
def State.edgesPastLatest (s : State) : List Nat := s.edgesOf .ready (·.latest + 1)

/-- Edges until the transmit timeout (R134). -/
def State.edgesToTimeout (s : State) : List Nat :=
  match s.link.tx with
  | .idle => []
  | .sending _ keyOn => [edgesTo (keyOn + BitVec.ofNat 16 s.link.config.timeout) s.time.timer]

/-- The smallest of some numbers, or none. -/
def least (l : List Nat) : Option Nat := l.min?

/-- The edges until the first timed event of any kind. -/
def State.edgesToNext (s : State) : Option Nat :=
  least (s.edgesToTick ++ s.edgesToOverdue ++ s.edgesToEarliest ++ s.edgesPastLatest ++ s.edgesToTimeout)

/-- `n` edges at which nothing but counting happens. -/
def State.quiet (s : State) (n : Nat) : State :=
  { s with time := { s.time with
      divider := s.time.divider + n
      timer := s.time.timer + BitVec.ofNat 16 n } }

/-- The time input runs on to the first of the named events, when no other timed event comes before it and the input
is not lost (log 3). -/
def State.runTo (s : State) (named : List Nat) (timeoutFirst : Bool) : State :=
  match least named with
  | none => s
  | some d =>
    if s.time.inputLost = false ∧ s.edgesToNext = some d then (s.quiet (d - 1)).edge timeoutFirst else s

/-- RAW_MINUTE_TICK (R20, R21). -/
def execRawMinuteTick (s : State) : Host.Outcome State Fault Refusal := .next (s.runTo s.edgesToTick false)

/-- STAMP_OVERDUE (R126). -/
def execStampOverdue (s : State) : Host.Outcome State Fault Refusal := .next (s.runTo s.edgesToOverdue false)

/-- EARLIEST_START (R129). -/
def execEarliestStart (s : State) : Host.Outcome State Fault Refusal := .next (s.runTo s.edgesToEarliest false)

/-- LATEST_START_PASSED (R130); where a transmit timeout falls at the same count, the latest start is taken first
(log 4). -/
def execLatestStartPassed (s : State) : Host.Outcome State Fault Refusal := .next (s.runTo s.edgesPastLatest false)

/-- TRANSMIT_TIMEOUT (R134); where a latest start passes at the same count, the timeout is taken first (log 4). -/
def execTransmitTimeout (s : State) : Host.Outcome State Fault Refusal := .next (s.runTo s.edgesToTimeout true)

/-! ## Loss of the time input (R29) -/

/-- INPUT_LOST (R29): the flag is set and an ENABLED link faults. -/
def execInputLost (s : State) : Host.Outcome State Fault Refusal :=
  let s' := { s with time := { s.time with inputLost := true } }
  .next (if s.link.state = .enabled then s'.leaveEnabled .faulted else s')

/-! ## The time commands (R23 to R26) -/

/-- The time report (R26, section 11.2). -/
def TimeUnit.report (t : TimeUnit) : List Byte :=
  [t.clock.code] ++ beBytes 4 t.minute ++ beBytes 2 t.hold ++ [flagByte t.inputLost]

/-- The time unit is replaced and the time report returned. -/
def State.answerTime (s : State) (code : Byte) (t : TimeUnit) : State :=
  ({ s with time := t }).respond code .ok t.report

/-- SET TIME as the port executes it (R23). -/
def portSetTime (minute : BitVec 32) (s : State) : State :=
  if Config.maxSetMinute < minute.toNat then s.refuse 0x20 .badValue
  else if s.time.clock = .running then s.refuse 0x20 .wrongState
  else s.answerTime 0x20 { s.time with clock := .running, minute := minute.toNat, divider := 0, hold := 0 }

/-- A number of minutes outside 1..1,440 (R24, R25). -/
def badMinutes (n : Nat) : Bool := decide (n < 1) || decide (Config.maxHold < n)

/-- The time unit after an accepted advance (R24). -/
def TimeUnit.advance (t : TimeUnit) (n : Nat) : TimeUnit :=
  if n ≤ t.hold then { t with hold := t.hold - n } else { t with hold := 0, minute := t.minute + (n - t.hold) }

/-- ADVANCE TIME as the port executes it (R24). -/
def portAdvanceTime (minutes : BitVec 16) (s : State) : State :=
  let n := minutes.toNat
  if badMinutes n then s.refuse 0x21 .badValue
  else if s.time.clock = .unset then s.refuse 0x21 .clockUnset
  else if s.time.hold < n ∧ Config.maxMinute < s.time.minute + (n - s.time.hold) then s.refuse 0x21 .badValue
  else s.answerTime 0x21 (s.time.advance n)

/-- HOLD TIME as the port executes it (R25). -/
def portHoldTime (minutes : BitVec 16) (s : State) : State :=
  if badMinutes minutes.toNat then s.refuse 0x22 .badValue
  else if s.time.clock = .unset then s.refuse 0x22 .clockUnset
  else s.answerTime 0x22 { s.time with hold := min (s.time.hold + minutes.toNat) Config.maxHold }

/-- READ TIME as the port executes it (R26). -/
def portReadTime (s : State) : State := s.respond 0x23 .ok s.time.report

end Sys2Proof.Machine
end

