-- ==== Sys2Proof/Machine/Port.lean ====
section
/-! DEFINITION. The station port (spec 10_station_port.md): its own commands, how a command is taken, and the write
and read transactions. -/

namespace Sys2Proof.Machine

/-! ## The port's own commands (R170 to R174) -/

/-- The code of the start-up cause. -/
def StartCause.code : StartCause → Byte
  | .powerOn => 0
  | .resetPin => 1

/-- IDENTIFY as the port executes it (R171). -/
def portIdentify (s : State) : State :=
  s.respond 0x50 .ok ([0x0A, 0x31, 0x41, 0x00, 0x01, s.port.cause.code] ++ beBytes 2 s.slotsInService)

/-- The bucket is REBUILDING (R59). -/
def Bucket.isRebuilding (k : Bucket) : Bool := decide (k.state ≠ .normal)

/-- The numbers of the REBUILDING buckets, rising (R172). -/
def Directory.rebuilding (d : Directory) : List Nat := (d.buckets.filter (·.2.isRebuilding)).map (·.1)

/-- The number of the bank being evacuated, FFh for none (R176). -/
def State.evacuatingCode (s : State) : Byte :=
  match s.evacuatingBank with
  | none => 0xFF
  | some b => BitVec.ofNat 8 b.val

/-- The 32-byte status block (R172, section 11.2). -/
def State.statusBlock (s : State) : List Byte :=
  beBytes 2 s.engine.enrolled ++ beBytes 2 s.engine.running ++ beBytes 2 s.engine.suspended
    ++ beBytes 2 s.engine.owned ++ beBytes 2 s.freeCount ++ beBytes 2 s.engine.damaged ++ beBytes 2 s.engine.marked
    ++ [s.memory.banks.b0.state.code, s.memory.banks.b1.state.code, s.memory.banks.b2.state.code,
        s.memory.banks.b3.state.code, s.evacuatingCode]
    ++ beBytes 2 s.engine.movesMade
    ++ beBytes 2 s.dir.rebuilding.length ++ beBytes 2 (s.dir.rebuilding.headD 0xFFFF)
    ++ [s.time.clock.code, flagByte s.time.inputLost, s.link.state.code]
    ++ beBytes 2 s.sweep.pass.toNat ++ [s.port.mask.zeroExtend 8, s.sources.zeroExtend 8]

/-- READ STATUS as the port executes it (R172): the report, and the BANK flag cleared. DEDUCED (log 15): the pending
set is that before the response is formed. -/
def portReadStatus (s : State) : State :=
  ({ s with memory := { s.memory with bankFlag := false } }).respond 0x51 .ok s.statusBlock

/-- SET ATTENTION as the port executes it (R170); its response makes RESPONSE pending in the set reported. -/
def portSetAttention (mask : Byte) (s : State) : State :=
  if 63 < mask.toNat then s.refuse 0x52 .badValue
  else
    let s := { s with port := { s.port with mask := mask.truncate 6, responseReady := true } }
    s.respond 0x52 .ok [mask, s.sources.zeroExtend 8]

/-- A bank's corrected count at 0. -/
def Bank.uncounted (b : Bank) : Bank := { b with corrected := 0 }

/-- CLEAR COUNTERS as the port executes it (R173). -/
def portClearCounters (s : State) : State :=
  ({ s with
    link := { s.link with counters := LinkCounters.zero }
    integrity := { s.integrity with dirCorrected := 0 }
    memory := { s.memory with banks := ⟨s.memory.banks.b0.uncounted, s.memory.banks.b1.uncounted,
      s.memory.banks.b2.uncounted, s.memory.banks.b3.uncounted⟩ } }).respond 0x53 .ok []

/-- A bank at RESTART: an EVACUATING bank returns to IN_SERVICE (R159, R174). -/
def Bank.restart (b : Bank) : Bank := if b.state = .evacuating then { b with state := .inService } else b

/-- The record engine at RESTART (R19, R74, R79, R174). A turn in progress is complete before RESTART is taken
(R175). -/
def RecordEngine.restart (e : RecordEngine) : RecordEngine :=
  { e with
    waits := ⟨0, 0, 0, 0⟩
    consecutive := 0
    held := none
    commandSearch := none
    checkInSearch := none
    fetchCursor := 0
    begun := none }

/-- RESTART as the port executes it (R174): each block in one event, its response last. -/
def portRestart (s : State) : State :=
  let s := (s.linkTo .disabled).giveUp
  ({ s with
    engine := s.engine.restart
    sweep := { s.sweep with position := 0, credits := 0 }
    memory := { s.memory with banks := ⟨s.memory.banks.b0.restart, s.memory.banks.b1.restart,
      s.memory.banks.b2.restart, s.memory.banks.b3.restart⟩ }
    port := { s.port with rx := [], collision := false, overrun := false } }).respond 0x54 .ok []

/-! ## Taking a command (R165) -/

/-- A record command is handed to the record engine, after NOT_READY and BAD_VALUE (R80, R81, R165). -/
def takeRecordCommand (c : RecordCommand) (s : State) : State :=
  if s.port.notReady then s.refuse c.code .notReady
  else if c.badValue then s.refuse c.code .badValue
  else { s with engine := { s.engine with held := some c, commandSearch := none } }

/-- A command whose message is well framed and of its fixed length is taken (R165 steps 3 and 4). -/
def takeCommand (c : HostCommand) (s : State) : State :=
  match c with
  | .record c => takeRecordCommand c s
  | .setTime minute => portSetTime minute s
  | .advanceTime minutes => portAdvanceTime minutes s
  | .holdTime minutes => portHoldTime minutes s
  | .readTime => portReadTime s
  | .setClass block => portSetClass block s
  | .readClass cls => portReadClass cls s
  | .setSweep rate => portSetSweep rate s
  | .readSweep => portReadSweep s
  | .setLink block => portSetLink block s
  | .readLink => portReadLink s
  | .linkEnable => portLinkEnable s
  | .linkDisable => portLinkDisable s
  | .readLinkCounters => portReadLinkCounters s
  | .evacuateBank bank => portEvacuateBank bank s
  | .cancelEvacuation => portCancelEvacuation s
  | .returnBank bank => portReturnBank bank s
  | .readErrorReport => portReadErrorReport s
  | .clearErrorReport => portClearErrorReport s
  | .injectRecord slot mode => portInjectRecord slot mode s
  | .injectBucket bucket mode => portInjectBucket bucket mode s
  | .identify => portIdentify s
  | .readStatus => portReadStatus s
  | .setAttention mask => portSetAttention mask s
  | .clearCounters => portClearCounters s
  | .restart => portRestart s

/-! ## Write transactions (R162, R164, R166) -/

/-- The port's I2C address: 3Ah plus the strap value (R162). -/
def State.address (s : State) : BitVec 7 := 0x3A#7 + s.port.strap.zeroExtend 7

/-- The port acknowledges its own address and each of `n` bytes written to it, those it discards too (R162). -/
def acknowledged (n : Nat) : List Bool := List.replicate (n + 1) true

/-- What the port has driven in a transaction's acknowledgements (R162, log 18). -/
def State.drives (s : State) (acks : List Bool) : State := { s with port := { s.port with acks := acks } }

/-- The first data byte of a write arrives with BUSY clear: the receive buffer is opened, the response buffer
discarded, and the bytes acknowledged and stored, up to 64 (R162, R164). -/
def State.openWrite (s : State) (bytes : List Byte) : State :=
  { s with port := { s.port with
      rx := bytes.take Config.bufferBytes
      resp := []
      responseReady := false
      acks := acknowledged bytes.length } }

/-- More than 64 data bytes: the transaction is discarded and OVERRUN set (R164). -/
def State.discardLong (s : State) : State := { s with port := { s.port with rx := [], overrun := true } }

/-- Bytes beyond a well-framed message are discarded and OVERRUN set (R164). -/
def State.discardExtra (s : State) (bytes : List Byte) : State :=
  { s with port := { s.port with rx := bytes.take ((bytes.headD 0).toNat + 1), overrun := true } }

/-- A well-framed message is taken (R165). -/
def State.takeMessage (s : State) (code : Byte) (params : List Byte) : State :=
  match parseCommand code params with
  | .unknown => s.refuse code .unknownCommand
  | .badLength => s.refuse code .badMessage
  | .command c => takeCommand c s

/-- A write whose first data byte arrived with BUSY clear is judged as it ends (R164). -/
def State.judgeWrite (s : State) (bytes : List Byte) : State :=
  let s := s.openWrite bytes
  match judge bytes with
  | .tooLong => s.discardLong
  | .malformed echo => s.refuse echo .badMessage
  | .framed code params more => (if more then s.discardExtra bytes else s).takeMessage code params

/-- A colliding write (R166): exactly one RESTART message is taken, anything else discarded with COLLISION set; every
byte is acknowledged (R162). -/
def State.collidingWrite (s : State) (bytes : List Byte) : State :=
  let s := s.drives (acknowledged bytes.length)
  if bytes = HostCommand.restart.message then portRestart s
  else { s with port := { s.port with collision := true } }

/-- A write transaction (R162, R164, R166): another address is ignored and not acknowledged, a write with no data byte
changes nothing, and BUSY decides how the bytes are taken. -/
def State.writeTransaction (s : State) (address : BitVec 7) (bytes : List Byte) : State :=
  if address ≠ s.address then s.drives []
  else if bytes = [] then s.drives (acknowledged 0)
  else if s.busy then s.collidingWrite bytes
  else s.judgeWrite bytes

/-- MESSAGE_WRITE (R164). The port's BUSY decides whether it collides (log 7). -/
def execMessageWrite (address : BitVec 7) (bytes : List Byte) (s : State) : Host.Outcome State Fault Refusal :=
  .next (s.writeTransaction address bytes)

/-- COLLIDING_WRITE (R166). The port's BUSY decides whether it collides (log 7). -/
def execCollidingWrite (address : BitVec 7) (bytes : List Byte) (s : State) : Host.Outcome State Fault Refusal :=
  .next (s.writeTransaction address bytes)

/-! ## Read transactions (R167) -/

/-- The response a read offers: the response buffer when the status byte shows RESPONSE_READY (R167). -/
def State.offered (s : State) : List Byte := if s.port.responseReady then s.port.resp else []

/-- The bytes of a read of `count` bytes: status byte, the response offered, then 00h (R167). -/
def State.readBytes (s : State) (count : Nat) : List Byte :=
  (s.statusByte :: s.offered ++ List.replicate count 0).take count

/-- A read of `count` bytes has sent the check byte of the response offered (R167). -/
def State.readsToEnd (s : State) (count : Nat) : Bool :=
  s.port.responseReady && decide (s.port.resp.length + 1 ≤ count)

/-- A read transaction of at least one byte (R162, R167): the port acknowledges its address. -/
def State.readTransaction (s : State) (count : Nat) : State :=
  let toEnd := s.readsToEnd count
  { s with
    hostRead := s.readBytes count
    port := { s.port with
      collision := false
      overrun := false
      responseReady := s.port.responseReady && !toEnd
      resp := if toEnd then [] else s.port.resp
      acks := acknowledged 0 } }

/-- STATUS_READ (R167). Another address is ignored and not acknowledged (R162); a read of no byte is its acknowledged
address alone (log 30). -/
def execStatusRead (address : BitVec 7) (count : Nat) (s : State) : Host.Outcome State Fault Refusal :=
  .next (if address ≠ s.address then s.drives []
    else if count = 0 then s.drives (acknowledged 0)
    else s.readTransaction count)

end Sys2Proof.Machine
end

