-- ==== Sys2Proof/Machine/Commands.lean ====
section
/-! DEFINITION. The rows that are host commands: each is the write transaction of the command's whole message to the
part's own address (log 6, log 28). -/

namespace Sys2Proof.Machine

/-- The host writes the message of a command. While BUSY is set the write collides (R166); otherwise the message is
taken (R164, R165). -/
def State.send (s : State) (c : HostCommand) : State :=
  if s.busy then s.collidingWrite c.message else takeCommand c (s.openWrite c.message)

/-! ## Record commands: the message is handed to the record engine, whose turns carry it out (R80) -/

/-- ENROL (R84). -/
def execEnrol (kit : KitId) (cls : Byte) (outstanding : BitVec 32) (s : State) : Host.Outcome State Fault Refusal :=
  .next (s.send (.record (.enrol kit cls outstanding)))

/-- TOP UP (R85). -/
def execTopUp (kit : KitId) (amount : BitVec 24) (s : State) : Host.Outcome State Fault Refusal :=
  .next (s.send (.record (.topUp kit amount)))

/-- ADJUST (R86). -/
def execAdjust (kit : KitId) (minutes : BitVec 24) (s : State) : Host.Outcome State Fault Refusal :=
  .next (s.send (.record (.adjust kit minutes)))

/-- SUSPEND (R87). -/
def execSuspend (kit : KitId) (s : State) : Host.Outcome State Fault Refusal :=
  .next (s.send (.record (.suspend kit)))

/-- RESUME (R88). -/
def execResume (kit : KitId) (s : State) : Host.Outcome State Fault Refusal :=
  .next (s.send (.record (.resume kit)))

/-- CHANGE CLASS (R89). -/
def execChangeClass (kit : KitId) (cls : Byte) (s : State) : Host.Outcome State Fault Refusal :=
  .next (s.send (.record (.changeClass kit cls)))

/-- RETIRE (R90). -/
def execRetire (kit : KitId) (s : State) : Host.Outcome State Fault Refusal :=
  .next (s.send (.record (.retire kit)))

/-- RETIRE SLOT (R91). -/
def execRetireSlot (slot : BitVec 16) (s : State) : Host.Outcome State Fault Refusal :=
  .next (s.send (.record (.retireSlot slot)))

/-- RESTORE (R92, R93). -/
def execRestore (image : RecordImage) (s : State) : Host.Outcome State Fault Refusal :=
  .next (s.send (.record (.restore image)))

/-- READ RECORD (R17). -/
def execReadRecord (kit : KitId) (s : State) : Host.Outcome State Fault Refusal :=
  .next (s.send (.record (.readRecord kit)))

/-- READ SLOT (R17). -/
def execReadSlot (slot : BitVec 16) (s : State) : Host.Outcome State Fault Refusal :=
  .next (s.send (.record (.readSlot slot)))

/-- FETCH MARKED (R18). -/
def execFetchMarked (s : State) : Host.Outcome State Fault Refusal :=
  .next (s.send (.record .fetchMarked))

/-! ## Commands the port executes itself (R165 step 4) -/

/-- SET TIME (R23). -/
def execSetTime (minute : BitVec 32) (s : State) : Host.Outcome State Fault Refusal :=
  .next (s.send (.setTime minute))

/-- ADVANCE TIME (R24). -/
def execAdvanceTime (minutes : BitVec 16) (s : State) : Host.Outcome State Fault Refusal :=
  .next (s.send (.advanceTime minutes))

/-- HOLD TIME (R25). -/
def execHoldTime (minutes : BitVec 16) (s : State) : Host.Outcome State Fault Refusal :=
  .next (s.send (.holdTime minutes))

/-- READ TIME (R26). -/
def execReadTime (s : State) : Host.Outcome State Fault Refusal :=
  .next (s.send .readTime)

/-- SET CLASS (R34). -/
def execSetClass (block : ClassBlock) (s : State) : Host.Outcome State Fault Refusal :=
  .next (s.send (.setClass block))

/-- READ CLASS (R35). -/
def execReadClass (cls : Byte) (s : State) : Host.Outcome State Fault Refusal :=
  .next (s.send (.readClass cls))

/-- SET SWEEP (R145). -/
def execSetSweep (rate : Byte) (s : State) : Host.Outcome State Fault Refusal :=
  .next (s.send (.setSweep rate))

/-- READ SWEEP (R145). -/
def execReadSweep (s : State) : Host.Outcome State Fault Refusal :=
  .next (s.send .readSweep)

/-- SET LINK (R118). -/
def execSetLink (block : LinkBlock) (s : State) : Host.Outcome State Fault Refusal :=
  .next (s.send (.setLink block))

/-- READ LINK (R119). -/
def execReadLink (s : State) : Host.Outcome State Fault Refusal :=
  .next (s.send .readLink)

/-- LINK ENABLE (R120). -/
def execLinkEnable (s : State) : Host.Outcome State Fault Refusal :=
  .next (s.send .linkEnable)

/-- LINK DISABLE (R120). -/
def execLinkDisable (s : State) : Host.Outcome State Fault Refusal :=
  .next (s.send .linkDisable)

/-- READ LINK COUNTERS (R135). -/
def execReadLinkCounters (s : State) : Host.Outcome State Fault Refusal :=
  .next (s.send .readLinkCounters)

/-- EVACUATE BANK (R155). -/
def execEvacuateBank (bank : Byte) (s : State) : Host.Outcome State Fault Refusal :=
  .next (s.send (.evacuateBank bank))

/-- CANCEL EVACUATION (R159). -/
def execCancelEvacuation (s : State) : Host.Outcome State Fault Refusal :=
  .next (s.send .cancelEvacuation)

/-- RETURN BANK (R160). -/
def execReturnBank (bank : Byte) (s : State) : Host.Outcome State Fault Refusal :=
  .next (s.send (.returnBank bank))

/-- READ ERROR REPORT (R151). -/
def execReadErrorReport (s : State) : Host.Outcome State Fault Refusal :=
  .next (s.send .readErrorReport)

/-- CLEAR ERROR REPORT (R151). -/
def execClearErrorReport (s : State) : Host.Outcome State Fault Refusal :=
  .next (s.send .clearErrorReport)

/-- INJECT RECORD (R152). -/
def execInjectRecord (slot : BitVec 16) (mode : Byte) (s : State) : Host.Outcome State Fault Refusal :=
  .next (s.send (.injectRecord slot mode))

/-- INJECT BUCKET (R152). -/
def execInjectBucket (bucket : BitVec 16) (mode : Byte) (s : State) : Host.Outcome State Fault Refusal :=
  .next (s.send (.injectBucket bucket mode))

/-- IDENTIFY (R171). -/
def execIdentify (s : State) : Host.Outcome State Fault Refusal :=
  .next (s.send .identify)

/-- READ STATUS (R172). -/
def execReadStatus (s : State) : Host.Outcome State Fault Refusal :=
  .next (s.send .readStatus)

/-- SET ATTENTION (R170). -/
def execSetAttention (mask : Byte) (s : State) : Host.Outcome State Fault Refusal :=
  .next (s.send (.setAttention mask))

/-- CLEAR COUNTERS (R173). -/
def execClearCounters (s : State) : Host.Outcome State Fault Refusal :=
  .next (s.send .clearCounters)

/-- RESTART (R174). -/
def execRestart (s : State) : Host.Outcome State Fault Refusal :=
  .next (s.send .restart)

end Sys2Proof.Machine
end

