-- ==== Sys2Proof/Machine/Dispatch.lean ====
section
/-! DEFINITION. The meaning of every command, one arm for each. -/

namespace Sys2Proof.Machine

def exec (i : Instr) (s : State) : Host.Outcome State Fault Refusal :=
  match i with
  | .powerOn straps => Sys2Proof.Machine.execPowerOn straps s
  | .resetPin straps => Sys2Proof.Machine.execResetPin straps s
  | .bankClearingComplete bank => Sys2Proof.Machine.execBankClearingComplete bank s
  | .directoryClearingComplete => Sys2Proof.Machine.execDirectoryClearingComplete s
  | .returnBankClearingComplete bank => Sys2Proof.Machine.execReturnBankClearingComplete bank s
  | .timeInputEdge => Sys2Proof.Machine.execTimeInputEdge s
  | .rawMinuteTick => Sys2Proof.Machine.execRawMinuteTick s
  | .inputLost => Sys2Proof.Machine.execInputLost s
  | .kitPacket chars => Sys2Proof.Machine.execKitPacket chars s
  | .frameEndStrobe => Sys2Proof.Machine.execFrameEndStrobe s
  | .stampOverdue => Sys2Proof.Machine.execStampOverdue s
  | .earliestStart => Sys2Proof.Machine.execEarliestStart s
  | .latestStartPassed => Sys2Proof.Machine.execLatestStartPassed s
  | .transmitDoneStrobe => Sys2Proof.Machine.execTransmitDoneStrobe s
  | .transmitTimeout => Sys2Proof.Machine.execTransmitTimeout s
  | .messageWrite address bytes => Sys2Proof.Machine.execMessageWrite address bytes s
  | .collidingWrite address bytes => Sys2Proof.Machine.execCollidingWrite address bytes s
  | .statusRead address count => Sys2Proof.Machine.execStatusRead address count s
  | .enrol kit cls outstanding => Sys2Proof.Machine.execEnrol kit cls outstanding s
  | .topUp kit amount => Sys2Proof.Machine.execTopUp kit amount s
  | .adjust kit minutes => Sys2Proof.Machine.execAdjust kit minutes s
  | .suspend kit => Sys2Proof.Machine.execSuspend kit s
  | .resume kit => Sys2Proof.Machine.execResume kit s
  | .changeClass kit cls => Sys2Proof.Machine.execChangeClass kit cls s
  | .retire kit => Sys2Proof.Machine.execRetire kit s
  | .retireSlot slot => Sys2Proof.Machine.execRetireSlot slot s
  | .restore image => Sys2Proof.Machine.execRestore image s
  | .readRecord kit => Sys2Proof.Machine.execReadRecord kit s
  | .readSlot slot => Sys2Proof.Machine.execReadSlot slot s
  | .fetchMarked => Sys2Proof.Machine.execFetchMarked s
  | .commandTurn => Sys2Proof.Machine.execCommandTurn s
  | .searchStep => Sys2Proof.Machine.execSearchStep s
  | .usingTurn => Sys2Proof.Machine.execUsingTurn s
  | .checkInTurn => Sys2Proof.Machine.execCheckInTurn s
  | .sweepVisit => Sys2Proof.Machine.execSweepVisit s
  | .evacuationMove => Sys2Proof.Machine.execEvacuationMove s
  | .setTime minute => Sys2Proof.Machine.execSetTime minute s
  | .advanceTime minutes => Sys2Proof.Machine.execAdvanceTime minutes s
  | .holdTime minutes => Sys2Proof.Machine.execHoldTime minutes s
  | .readTime => Sys2Proof.Machine.execReadTime s
  | .setClass block => Sys2Proof.Machine.execSetClass block s
  | .readClass cls => Sys2Proof.Machine.execReadClass cls s
  | .setSweep rate => Sys2Proof.Machine.execSetSweep rate s
  | .readSweep => Sys2Proof.Machine.execReadSweep s
  | .setLink block => Sys2Proof.Machine.execSetLink block s
  | .readLink => Sys2Proof.Machine.execReadLink s
  | .linkEnable => Sys2Proof.Machine.execLinkEnable s
  | .linkDisable => Sys2Proof.Machine.execLinkDisable s
  | .readLinkCounters => Sys2Proof.Machine.execReadLinkCounters s
  | .evacuateBank bank => Sys2Proof.Machine.execEvacuateBank bank s
  | .cancelEvacuation => Sys2Proof.Machine.execCancelEvacuation s
  | .returnBank bank => Sys2Proof.Machine.execReturnBank bank s
  | .readErrorReport => Sys2Proof.Machine.execReadErrorReport s
  | .clearErrorReport => Sys2Proof.Machine.execClearErrorReport s
  | .injectRecord slot mode => Sys2Proof.Machine.execInjectRecord slot mode s
  | .injectBucket bucket mode => Sys2Proof.Machine.execInjectBucket bucket mode s
  | .identify => Sys2Proof.Machine.execIdentify s
  | .readStatus => Sys2Proof.Machine.execReadStatus s
  | .setAttention mask => Sys2Proof.Machine.execSetAttention mask s
  | .clearCounters => Sys2Proof.Machine.execClearCounters s
  | .restart => Sys2Proof.Machine.execRestart s
  | .kitCharacterError => Sys2Proof.Machine.execKitCharacterError s

end Sys2Proof.Machine
end

