-- ==== Sys2Proof/Safety.lean ====
section
/-! DEFINITION. The properties of states that the statements are about: the canonical form of the part's stores, the
ranges of its counts, the condition of a link that is not ENABLED, the agreement of transmitter and channels, and
what a record engine turn leaves alone. -/

namespace Sys2Proof.Machine

/-- The record bodies have their canonical form, as a store and each in its words (R147, log 10). -/
abbrev bodiesWf (m : List (Nat × StoredBody)) : Prop :=
  cellsWf StoredBody.cleared m ∧ ∀ e ∈ m, cellsWf Check.good e.2.words

/-- Every store of the part has its canonical form (INVENTORY.md, Memory and ordering). -/
abbrev Memory.wf (s : State) : Prop :=
  bodiesWf s.memory.bodies ∧ cellsWf Tag.cleared s.memory.tags
    ∧ cellsWf Bucket.cleared s.dir.buckets ∧ cellsWf none s.dir.spill
    ∧ cellsWf TariffClass.reset s.tariff ∧ cellsWf none s.link.channels

/-- The items of the time unit lie in their ranges, and the hold count is 0 while the clock is UNSET (the table at
the head of chapter 2, R21). -/
abbrev TimeUnit.inRange (t : TimeUnit) : Prop :=
  t.divider < Config.minuteEdges ∧ t.minute ≤ Config.maxMinute ∧ t.hold ≤ Config.maxHold
    ∧ (t.clock = .unset → t.hold = 0)

/-- The items of the sweep unit lie in their ranges (R137). -/
abbrev SweepUnit.inRange (u : SweepUnit) : Prop :=
  u.rate ≤ Config.maxCredits ∧ u.credits ≤ Config.maxCredits ∧ u.position < Config.slots

/-- The four waiting counts lie in their range (R77). -/
abbrev WaitCounts.inRange (w : WaitCounts) : Prop :=
  w.checkIn ≤ Config.maxWait ∧ w.command ≤ Config.maxWait ∧ w.evacuation ≤ Config.maxWait ∧ w.sweep ≤ Config.maxWait

/-- The arbiter's counts lie in their ranges (R77), those kept with a check-in turn in progress too. -/
abbrev RecordEngine.arbiterInRange (e : RecordEngine) : Prop :=
  e.waits.inRange ∧ e.consecutive ≤ Config.checkInRun
    ∧ ∀ b, e.begun = some b → b.waits.inRange ∧ b.consecutive ≤ Config.checkInRun

/-- What R121 leaves of a link that is not ENABLED. -/
abbrev KitLink.atRest (l : KitLink) : Prop :=
  l.parser = .hunt ∧ l.stamp = none ∧ l.queue = [] ∧ l.channels = [] ∧ l.tx = .idle

/-- A link that is not ENABLED is at rest, and the arrival queue holds at most 16 check-ins (R121, R125). -/
abbrev KitLink.inOrder (l : KitLink) : Prop :=
  (l.state ≠ .enabled → l.atRest) ∧ l.queue.length ≤ Config.queueLength

/-- The stamp holder and the transmitter hold nothing that has to be started: an IDLE transmitter leaves no channel
READY (R131). -/
abbrev State.nothingToSend (s : State) : Prop := s.link.tx = .idle → s.chosenChannel = none

/-- Of some channels, `n` is the one an IDLE transmitter takes: READY, with the smallest remaining count to its latest
start, the lowest number where two share it (R131). -/
abbrev Chosen (channel : Nat → Option Channel) (timer : Stamp) (n : Nat) : Prop :=
  n < 8 ∧ ∃ ch, channel n = some ch ∧ ch.phase = .ready ∧ ∀ m k, m < 8 → channel m = some k → k.phase = .ready →
    (ch.latest - timer).toNat < (k.latest - timer).toNat
      ∨ (ch.latest - timer).toNat = (k.latest - timer).toNat ∧ n ≤ m

/-- An IDLE transmitter was offered some channels: the chosen one is SENDING since the timer's value, the others stay;
with none READY, it stays IDLE and all stay (R131, R132). -/
abbrev Sends (channel : Nat → Option Channel) (timer : Stamp) (t : State) : Prop :=
  (∀ n ch, Chosen channel timer n → channel n = some ch → t.link.tx = .sending n timer
      ∧ t.channel n = some { ch with phase := .sending } ∧ ∀ m, m < 8 → m ≠ n → t.channel m = channel m)
    ∧ ((∀ n ch, n < 8 → channel n = some ch → ch.phase ≠ .ready) →
        t.link.tx = .idle ∧ ∀ m, m < 8 → t.channel m = channel m)

/-- A check-in once the link timer has counted to `timer`: it is marked overdue when its stamp lies 32,768 counts back
(R126). -/
def Arrival.at (a : Arrival) (timer : Stamp) : Arrival :=
  if a.stamp + 32768#16 = timer then { a with overdue := true } else a

/-- The collided counter once the link timer has counted to `timer`: it has risen by 1 for each READY channel at the count
after its latest start, and stops at 65,535 (R130). -/
def State.collidedAt (s : State) (timer : Stamp) : Nat :=
  let passed := ((List.range 8).filter fun n => (s.channel n).any fun k =>
    decide (k.phase = .ready) && decide (k.latest + 1 = timer)).length
  if passed = 0 then s.link.counters.collided else min (s.link.counters.collided + passed) 65535

/-- The link timer counts to `timer` at the key-on time plus the transmit timeout of the reply being sent (R134). -/
abbrev State.timesOutAt (s : State) (timer : Stamp) : Prop :=
  ∃ c keyOn, s.link.tx = .sending c keyOn ∧ timer = keyOn + BitVec.ofNat 16 s.link.config.timeout

/-- The reply channels once the link timer has counted to `timer`: a READY channel is given up at the count after its
latest start, and a SCHEDULED one becomes READY at its earliest start (R129, R130). -/
def State.channelsAt (s : State) (timer : Stamp) (n : Nat) : Option Channel :=
  match s.channel n with
  | none => none
  | some k =>
    if k.phase = .ready ∧ k.latest + 1 = timer then none
    else if k.phase = .scheduled ∧ k.earliest = timer then some { k with phase := .ready }
    else some k

/-- What the kit link does as the link timer counts to `timer` (R126, R129, R130, R134): stamps become overdue, READY
channels past their latest start are given up and counted, and channels at their earliest start become READY and are
offered to the transmitter; at a transmit timeout the link is FAULTED with the effects of leaving ENABLED instead, the
timeout counted. (DESIGN CHOICE, log 4: where both fall at one count the latest start is taken before the timeout.) -/
abbrev LinkAt (s t : State) (timer : Stamp) : Prop :=
  let counters := { s.link.counters with collided := s.collidedAt timer }
  (¬s.timesOutAt timer →
      t.link = { s.link with
        queue := s.link.queue.map (·.at timer)
        inService := s.link.inService.map (·.at timer)
        channels := t.link.channels
        tx := t.link.tx
        counters := counters }
      ∧ (s.link.tx = .idle → Sends (s.channelsAt timer) timer t)
      ∧ (s.link.tx ≠ .idle → t.link.tx = s.link.tx ∧ ∀ n, n < 8 → t.channel n = s.channelsAt timer n))
    ∧ (s.timesOutAt timer →
      t.link = { s.link with
        state := .faulted
        parser := .hunt
        stamp := none
        queue := []
        inService := s.link.inService.map fun a => { a with overdue := true }
        channels := []
        tx := .idle
        counters := { counters with transmitTimeout := min (s.link.counters.transmitTimeout + 1) 65535 } })

/-- What every record engine turn leaves alone: the time unit, the tariff table, the link's configuration, state,
parser and stamp holder, the port but for the response it forms, the sweep rate, the bytes read by the host and the
queue (R75). -/
abbrev KeepsSurroundings (s s' : State) : Prop :=
  s'.time = s.time ∧ s'.tariff = s.tariff
    ∧ s'.link.config = s.link.config ∧ s'.link.state = s.link.state ∧ s'.link.parser = s.link.parser
    ∧ s'.link.stamp = s.link.stamp ∧ s'.sweep.rate = s.sweep.rate
    ∧ s'.port = { s.port with resp := s'.port.resp, responseReady := s'.port.responseReady }
    ∧ s'.hostRead = s.hostRead ∧ s'.pending = s.pending

/-- What leaving ENABLED leaves of the record engine. A count is kept by a requester that still waits and is 0 for one
that has stopped (R77). Where the next turn was that of the check-in at the head of the queue, it is kept as a turn in
progress, its check-in overdue, with the minute it read and the counts its grant gives (R116; DESIGN CHOICE, log 31). -/
abbrev LeavingLeaves (s s' : State) : Prop :=
  let leaving := { s with time := s'.time, sweep := s'.sweep }
  s'.engine = { s.engine with waits := s'.engine.waits, begun := s'.engine.begun }
    ∧ (∀ r, s'.engine.waits.get r = if s'.waits r then s.engine.waits.get r else 0)
    ∧ (∀ a rest, s.link.queue = a :: rest → s.engine.checkInSearch = none → leaving.arbiter = some .checkIn →
        s'.engine.begun = some ⟨{ a with overdue := true }, leaving.now,
          (leaving.grant .checkIn).engine.waits.kept s'.waits, (leaving.grant .checkIn).engine.consecutive⟩)
    ∧ (s.link.queue = [] ∨ s.engine.checkInSearch ≠ none ∨ leaving.arbiter ≠ some .checkIn →
        s'.engine.begun = s.engine.begun.map fun b => { b with waits := b.waits.kept s'.waits })

/-- What an event of the time input or of the kit link leaves alone: the records, the directory, the tariff table, the
integrity report, the port, the bytes read by the host, the queue, the link's configuration, and the record engine but
for what the link's leaving ENABLED does to it. -/
abbrev KeepsRecords (s s' : State) : Prop :=
  let leaves := s.link.state = .enabled ∧ s'.link.state ≠ .enabled
  s'.memory = s.memory ∧ s'.dir = s.dir ∧ s'.tariff = s.tariff ∧ s'.integrity = s.integrity ∧ s'.port = s.port
    ∧ s'.hostRead = s.hostRead ∧ s'.pending = s.pending ∧ s'.link.config = s.link.config
    ∧ (leaves → LeavingLeaves s s') ∧ (¬leaves → s'.engine = s.engine)

/-- The clearing of a bank has completed: its bodies and tags are cleared, it is IN_SERVICE with 1,024 FREE slots, and
everything but the port and the BANK flag stands as it was (R154, R160). -/
abbrev BankIsCleared (s s' : State) (b : Fin 4) : Prop :=
  s'.bank b = ⟨.inService, 1024, (s.bank b).corrected⟩ ∧ (∀ x, x ≠ b → s'.bank x = s.bank x)
    ∧ (∀ slot, bankIndex slot = b → s'.tag slot = Tag.cleared ∧ s'.body slot = StoredBody.cleared)
    ∧ (∀ slot, bankIndex slot ≠ b → s'.tag slot = s.tag slot ∧ s'.body slot = s.body slot)
    ∧ s'.time = s.time ∧ s'.tariff = s.tariff ∧ s'.dir = s.dir ∧ s'.engine = s.engine ∧ s'.link = s.link
    ∧ s'.sweep = s.sweep ∧ s'.integrity = s.integrity ∧ s'.hostRead = s.hostRead ∧ s'.pending = s.pending

/-- The effect of a raw minute tick (R21, R138): the hold is spent first, the station minute moves only in RUNNING and
stops at its bound, and the visit credits rise by the rate. -/
abbrev TickEffect (s s' : State) : Prop :=
  s'.time.hold = (if s.time.clock = .running then s.time.hold - 1 else s.time.hold)
    ∧ s'.time.minute = (if s.time.clock = .running ∧ s.time.hold = 0 ∧ s.time.minute < Config.maxMinute
        then s.time.minute + 1 else s.time.minute)
    ∧ s'.sweep = { s.sweep with credits := min (s.sweep.credits + s.sweep.rate) Config.maxCredits }

/-- The named events come next: the input is not lost, the first of them lies `d` edges ahead, and no other timed event
comes before it (log 3). -/
abbrev State.nextEventIs (s : State) (named : List Nat) (d : Nat) : Prop :=
  s.time.inputLost = false ∧ least named = some d ∧ s.edgesToNext = some d

/-- Of the part's slots, in rising order from `start` and wrapping from 4,095 to 0, slot `x` is the first that
satisfies `p`. -/
abbrev FirstFrom (start : Nat) (p : Nat → Prop) (x : Nat) : Prop :=
  x < 4096 ∧ p x ∧ ∀ y, y < 4096 → p y → (x + 4096 - start) % 4096 ≤ (y + 4096 - start) % 4096

/-- A slot may be allocated: FREE, in a bank IN_SERVICE (R12). -/
abbrev State.isOpen (s : State) (x : Nat) : Prop :=
  (s.tag x).lifecycle = .free ∧ (s.bank (bankIndex x)).state = .inService

/-- The state in which a command's message has been taken and its response formed (R164, R165). -/
def State.answered (s : State) (c : HostCommand) (st : Status) (fields : List Byte) : State :=
  (s.openWrite c.message).respond c.code st fields

/-- The body of a slot is found good or corrected, and reads as `r` (R147). -/
abbrev State.readsAs (s : State) (slot : Nat) (r : Record) : Prop :=
  (s.body slot).check ≠ .double ∧ (s.body slot).read = r

/-- What a read of a live slot gives: a DAMAGED slot's body as it lies stored, and otherwise the body as a read through
the correction code returns it (R147 to R149). -/
def State.reading (s : State) (slot : Nat) : Record :=
  if (s.tag slot).damaged then (s.body slot).stored else (s.body slot).read

/-- A read of a live slot finds an uncorrectable body, which makes the slot DAMAGED (R149). -/
abbrev State.newlyDamaged (s : State) (slot : Nat) : Bool :=
  !(s.tag slot).damaged && decide ((s.body slot).check = .double)

/-- The tag of a live slot after a read of it (R149). -/
def State.tagRead (s : State) (slot : Nat) : Tag :=
  { s.tag slot with damaged := (s.tag slot).damaged || s.newlyDamaged slot }

/-- The errors that a read of a live slot reports (R149, R150). -/
def State.errorsAt (s : State) (slot : Nat) : List ErrorPlace := if s.newlyDamaged slot then [.record slot] else []

/-- A read of a live slot gives `r` and reports nothing: a DAMAGED slot's body as it lies stored, or an undamaged one's
as it reads (R147, R149). -/
abbrev State.gives (s : State) (slot : Nat) (r : Record) : Prop :=
  (s.tag slot).damaged = true ∧ (s.body slot).stored = r ∨ (s.tag slot).damaged = false ∧ s.readsAs slot r

/-- What a turn does with the body of a slot: nothing; it reads it, with the write-back of a corrected body; or it reads
it and writes it for its own changes (R148). -/
inductive BodyAccess where
  | untouched | read | written
  deriving DecidableEq, Repr

/-- A read of a live slot finds a body that it corrects (R148). -/
def State.corrects (s : State) (slot : Nat) : Bool := !(s.tag slot).damaged && decide ((s.body slot).check = .single)

/-- A turn writes the body of a slot: for its own changes, or as a corrected write-back (R148). -/
def State.writesBody (s : State) (slot : Nat) : BodyAccess → Bool
  | .untouched => false
  | .read => s.corrects slot
  | .written => true

/-- A body that a turn writes: the data with good check values, but for the first word where an injection is armed for
the slot (R147, R152). -/
def State.bodyWritten (s : State) (slot : Nat) (r : Record) : StoredBody :=
  ⟨r, r, match s.integrity.armed with
    | some ⟨.record x, .single⟩ => if x = slot then [(0, .single)] else []
    | some ⟨.record x, .double⟩ => if x = slot then [(0, .double)] else []
    | _ => []⟩

/-- The body of a slot as a turn leaves it, written with `r` or as it was. -/
def State.bodyLeft (s : State) (slot : Nat) (access : BodyAccess) (r : Record) : StoredBody :=
  if s.writesBody slot access then s.bodyWritten slot r else s.body slot

/-- The corrected count of the bank of a slot as a turn leaves it (R148). -/
def State.correctedLeft (s : State) (slot : Nat) (access : BodyAccess) : Nat :=
  let n := (s.bank (bankIndex slot)).corrected
  if access ≠ .untouched ∧ s.corrects slot then min (n + 1) 65535 else n

/-- The armed injection as a turn leaves it that writes bodies of `slots` and ways of `buckets` (R152). -/
def State.armedLeft (s : State) (slots buckets : List Nat) : Option Injection :=
  match s.integrity.armed with
  | some ⟨.record x, m⟩ => if x ∈ slots then none else some ⟨.record x, m⟩
  | some ⟨.bucket b, m⟩ => if b ∈ buckets then none else some ⟨.bucket b, m⟩
  | none => none

/-- A lookup of a kit ends in a live slot, in a bucket without an uncorrectable way (R62, R64). -/
abbrev State.locates (s : State) (kit : KitId) (slot : Nat) : Prop :=
  (s.bucket (homeBucket kit)).broken = false
    ∧ s.lookupEnd (s.bucket (homeBucket kit)).values kit = .found slot ∧ (s.tag slot).lifecycle ≠ .free

/-- A lookup of a kit ends in an undamaged live slot whose body reads as `r` (R64, R82). -/
abbrev State.finds (s : State) (kit : KitId) (slot : Nat) (r : Record) : Prop :=
  s.locates kit slot ∧ (s.tag slot).damaged = false ∧ s.readsAs slot r

/-- The next turn is the command turn of a record command (R76, R82). -/
abbrev State.commandTurnFor (s : State) (c : RecordCommand) : Prop :=
  Memory.wf s ∧ s.engine.held = some c ∧ s.engine.commandSearch = none ∧ s.arbiter = some .command

/-- The lifecycle counts and the damaged and marked counts have followed the tag of a slot, each by the difference
between the tag before and after (R10, R16). -/
abbrev CountsFollow (s t : State) (slot : Nat) : Prop :=
  let was := s.tag slot
  let is := t.tag slot
  let follows := fun (before after : Nat) (held holds : Bool) => after = before + oneIf holds - oneIf held
  follows s.engine.enrolled t.engine.enrolled (was.lifecycle = .enrolled) (is.lifecycle = .enrolled)
    ∧ follows s.engine.running t.engine.running (was.lifecycle = .running) (is.lifecycle = .running)
    ∧ follows s.engine.suspended t.engine.suspended (was.lifecycle = .suspended) (is.lifecycle = .suspended)
    ∧ follows s.engine.owned t.engine.owned (was.lifecycle = .owned) (is.lifecycle = .owned)
    ∧ follows s.engine.damaged t.engine.damaged was.damaged is.damaged
    ∧ follows s.engine.marked t.engine.marked was.marked is.marked

/-- The bank of a slot keeps its state, and its free count has followed the slot's tag; the other banks and the BANK
flag are as they were (R153). -/
abbrev BanksFollow (s t : State) (slot : Nat) : Prop :=
  let b := bankIndex slot
  (∀ x, x ≠ b → t.bank x = s.bank x) ∧ (t.bank b).state = (s.bank b).state
    ∧ (t.bank b).free = (s.bank b).free + oneIf ((t.tag slot).lifecycle = .free)
        - oneIf ((s.tag slot).lifecycle = .free)
    ∧ t.memory.bankFlag = s.memory.bankFlag

/-- Every other slot is as it was. -/
abbrev OthersStay (s t : State) (slot : Nat) : Prop :=
  ∀ x, x ≠ slot → t.tag x = s.tag x ∧ t.body x = s.body x

/-- A way as a read of its bucket leaves it: a corrected way is written back with good check values (R62). -/
def StoredWay.afterRead (w : StoredWay) : StoredWay :=
  if w.check = .single then ⟨w.written, w.written, .good⟩ else w

/-- The number of ways of a bucket that a read corrects (R62). -/
def Bucket.corrections (k : Bucket) : Nat :=
  ((List.finRange 4).filter fun w => decide ((k.ways.get w).check = .single)).length

/-- The directory corrected count after a turn that read the four ways of a bucket, if it read one: it has risen by 1 for
each way corrected and stops at 65,535; a wipe corrects none (R62, R63). -/
def State.dirCorrectedLeft (s : State) (read : Option Nat) : Nat :=
  let n := match read with
    | none => 0
    | some b => if (s.bucket b).broken then 0 else (s.bucket b).corrections
  if n = 0 then s.integrity.dirCorrected else min (s.integrity.dirCorrected + n) 65535

/-- The bucket whose ways a bucket read writes: one with an uncorrectable or a corrected way (R62, R71). -/
def State.readWrites (s : State) (read : Option Nat) : List Nat :=
  read.toList.filter fun b => (s.bucket b).broken || decide ((s.bucket b).corrections ≠ 0)

/-- The bucket whose ways a re-insertion writes: those its read writes, or with room for the entry (R62, R72). -/
def State.entryWrites (s : State) (home : Nat) : List Nat :=
  if (s.bucket home).values.lowest (·.isNone) ≠ none then [home] else s.readWrites (some home)

/-- The ways are as given. (Of the bucket an injection is armed for, the lowest way a turn writes is spoiled, R152.) -/
abbrev WaysAre (s t : State) (way : Nat → Fin 4 → StoredWay) : Prop :=
  ∀ b w, s.integrity.armed.map (·.target) ≠ some (.bucket b) → (t.bucket b).ways.get w = way b w

/-- What every way and spill entry reads as is as it was; the corrected ways of the bucket read, if any, have been written
back with good check values and counted (R62, R63). -/
abbrev EntriesStay (s t : State) (read : Option Nat) : Prop :=
  (∀ b, (t.bucket b).values = (s.bucket b).values) ∧ (∀ i, t.spillEntry i = s.spillEntry i)
    ∧ WaysAre s t (fun b w =>
        if read = some b then ((s.bucket b).ways.get w).afterRead else (s.bucket b).ways.get w)
    ∧ t.integrity.dirCorrected = s.dirCorrectedLeft read

/-- The entries of the directory are as they were, but for the corrections of a bucket read, and so is the state of every
bucket. -/
abbrev DirectoryStays (s t : State) (read : Option Nat) : Prop :=
  EntriesStay s t read ∧ ∀ b, (t.bucket b).state = (s.bucket b).state

/-- A turn has ended with nothing done but its bucket read, if it made one: no entry is written, no record, tag or count of
the record engine is touched, and no error is reported (R62, R68). -/
abbrev LookupLeaves (s t : State) (read : Option Nat) : Prop :=
  KeepsSurroundings s t ∧ t.memory = s.memory ∧ DirectoryStays s t read ∧ t.sweep = s.sweep
    ∧ t.integrity = { s.integrity with
        dirCorrected := s.dirCorrectedLeft read, armed := s.armedLeft [] (s.readWrites read) }
    ∧ t.engine = { s.engine with
        waits := t.engine.waits, consecutive := t.engine.consecutive, begun := t.engine.begun, held := t.engine.held
        commandSearch := t.engine.commandSearch, checkInSearch := t.engine.checkInSearch }

/-- A record command is finished with a response (R165): COMMAND holds nothing more and the response waits. -/
abbrev State.finishedWith (s' : State) (code : Byte) (st : Status) (fields : List Byte) : Prop :=
  s'.engine.held = none ∧ s'.engine.commandSearch = none
    ∧ s'.port.responseReady = true ∧ s'.port.resp = responseBytes code st fields

/-- An uncorrectable error has been fed to the first-error report by a requester: an empty report takes it, and otherwise
the next-error flag of its kind is set (R150). -/
abbrev FeedsError (s s' : State) (place : ErrorPlace) (metBy : Requester) : Prop :=
  (s.integrity.report = none → s'.integrity.report = some ⟨place, metBy, s.now⟩
      ∧ s'.integrity.recordAgain = s.integrity.recordAgain ∧ s'.integrity.directoryAgain = s.integrity.directoryAgain)
    ∧ (s.integrity.report ≠ none → s'.integrity.report = s.integrity.report
      ∧ s'.integrity.recordAgain = (match place with | .record _ => true | .directory _ => s.integrity.recordAgain)
      ∧ s'.integrity.directoryAgain = (match place with | .record _ => s.integrity.directoryAgain | .directory _ => true))

/-- The place of an error is a record (R150). -/
def ErrorPlace.isRecord : ErrorPlace → Bool
  | .record _ => true
  | .directory _ => false

/-- The uncorrectable errors a turn has met, in their order, have been fed to the first-error report (R150): an empty
report takes the first, and each of the others sets the next-error flag of its kind. -/
abbrev FeedsErrors (s t : State) (errors : List ErrorPlace) (metBy : Requester) (minute : Option Nat) : Prop :=
  let again := if s.integrity.report.isSome then errors else errors.tail
  t.integrity.report = (match s.integrity.report with
      | some e => some e
      | none => errors.head?.map fun place => ⟨place, metBy, minute⟩)
    ∧ t.integrity.recordAgain = (s.integrity.recordAgain || again.any ErrorPlace.isRecord)
    ∧ t.integrity.directoryAgain = (s.integrity.directoryAgain || again.any (!·.isRecord))

/-- A live slot has become DAMAGED at a requester's read: its tag else, its body, every other slot and the entries of
the directory are as they were, the counts follow, no correction of the body is counted, and the error is reported
(R149). -/
abbrev BecomesDamaged (s s' : State) (slot : Nat) (metBy : Requester) (looked : Option Nat) : Prop :=
  s'.tag slot = { s.tag slot with damaged := true } ∧ (∀ x, x ≠ slot → s'.tag x = s.tag x)
    ∧ (∀ x, s'.body x = s.body x) ∧ EntriesStay s s' looked ∧ CountsFollow s s' slot ∧ BanksFollow s s' slot
    ∧ (s'.bank (bankIndex slot)).corrected = (s.bank (bankIndex slot)).corrected
    ∧ FeedsError s s' (.record slot) metBy ∧ s'.integrity.armed = s.armedLeft [] (s.readWrites looked)
    ∧ KeepsSurroundings s s'

/-- A turn that had this access to the body of a slot, after a lookup in a bucket if it made one, has left `tag` and the
record `r` in the slot. An error of the read is reported and a correction counted and written back; an injection armed
for what is written is taken; every other slot, the directory's entries, the sweep unit and the allocation pointer are
as they were, and the counts follow (R75, R147 to R149, R152). -/
abbrev SlotLeaves (s t : State) (slot : Nat) (tag : Tag) (r : Record) (access : BodyAccess) (looked : Option Nat)
    (metBy : Requester) (minute : Option Nat) : Prop :=
  KeepsSurroundings s t ∧ OthersStay s t slot ∧ DirectoryStays s t looked ∧ t.sweep = s.sweep
    ∧ t.tag slot = tag ∧ t.body slot = s.bodyLeft slot access r ∧ CountsFollow s t slot ∧ BanksFollow s t slot
    ∧ (t.bank (bankIndex slot)).corrected = s.correctedLeft slot access
    ∧ FeedsErrors s t (if access = .untouched then [] else s.errorsAt slot) metBy minute
    ∧ t.integrity.armed = s.armedLeft (if s.writesBody slot access then [slot] else []) (s.readWrites looked)
    ∧ t.engine.allocPtr = s.engine.allocPtr ∧ t.engine.movesMade = s.engine.movesMade

/-- The same of a turn that also leaves the fetch cursor where it stands. -/
abbrev TurnLeaves (s t : State) (slot : Nat) (tag : Tag) (r : Record) (access : BodyAccess) (looked : Option Nat)
    (metBy : Requester) (minute : Option Nat) : Prop :=
  SlotLeaves s t slot tag r access looked metBy minute ∧ t.engine.fetchCursor = s.engine.fetchCursor

/-- A command's turn on one slot has ended: the slot holds `tag` and the record `r`, nothing else has changed, and the
response is formed (R83). -/
abbrev CommandLeaves (s t : State) (slot : Nat) (tag : Tag) (r : Record) (access : BodyAccess) (looked : Option Nat)
    (code : Byte) (st : Status) (fields : List Byte) : Prop :=
  TurnLeaves s t slot tag r access looked .command s.now ∧ t.link = s.link
    ∧ t.engine.checkInSearch = s.engine.checkInSearch ∧ t.finishedWith code st fields

/-- The turn of RETIRE or RETIRE SLOT has freed a live slot: its tag is cleared, its directory entry empty, every other
tag, way and spill entry as it was, the counts follow, and the final image is returned (R90). The retire of the last
live slot of the bank being evacuated completes the evacuation (R158). -/
abbrev Retires (s t : State) (slot : Nat) (looked : Option Nat) (code : Byte) : Prop :=
  let r := s.reading slot
  let tag := s.tagRead slot
  let b := bankIndex slot
  let completes := s.evacuatingBank = some b ∧ s.liveIn b ≤ 1
  t.tag slot = Tag.cleared ∧ (∀ x, x ≠ slot → t.tag x = s.tag x)
    ∧ (¬completes → t.body slot = s.bodyLeft slot .read r)
    ∧ (∀ x, x ≠ slot → bankIndex x ≠ b ∨ ¬completes → t.body x = s.body x)
    ∧ (∀ d w, ((t.bucket d).ways.get w).value =
        if tag.location = .way d w then none else ((s.bucket d).ways.get w).value)
    ∧ WaysAre s t (fun d w => if tag.location = .way d w then ⟨none, none, .good⟩
        else if looked = some d then ((s.bucket d).ways.get w).afterRead else (s.bucket d).ways.get w)
    ∧ t.integrity.dirCorrected = s.dirCorrectedLeft looked
    ∧ (∀ d, (t.bucket d).state = (s.bucket d).state)
    ∧ (∀ i, t.spillEntry i = if tag.location = .spill i then none else s.spillEntry i)
    ∧ CountsFollow s t slot ∧ (∀ x, x ≠ b → t.bank x = s.bank x)
    ∧ (t.bank b).corrected = s.correctedLeft slot .read
    ∧ (¬completes → (t.bank b).state = (s.bank b).state ∧ (t.bank b).free = (s.bank b).free + 1
        ∧ t.memory.bankFlag = s.memory.bankFlag)
    ∧ (completes → (t.bank b).state = .outOfService ∧ (t.bank b).free = 0 ∧ t.memory.bankFlag = true
        ∧ ∀ x, bankIndex x = b → (t.body x).stored = Record.cleared)
    ∧ FeedsErrors s t (s.errorsAt slot) .command s.now
    ∧ t.integrity.armed = s.armedLeft (if s.corrects slot then [slot] else [])
        ((match tag.location with | .way d _ => [d] | _ => []) ++ s.readWrites looked)
    ∧ t.engine.allocPtr = s.engine.allocPtr ∧ t.engine.movesMade = s.engine.movesMade
    ∧ t.engine.fetchCursor = s.engine.fetchCursor ∧ t.engine.checkInSearch = s.engine.checkInSearch
    ∧ KeepsSurroundings s t ∧ t.link = s.link ∧ t.sweep = s.sweep
    ∧ t.finishedWith code .ok (imageBytes (recordImage slot tag r
        (standingOf tag.damaged tag.lifecycle r (s.tariffClass r.cls).grace s.now)))

/-- What a turn that places a record in a new slot leaves: the slot's tag and body, its directory entry at the tag's
location, the allocation pointer past it, the counts following, one FREE slot fewer in its bank, and everything else
as it was but for the corrections of the lookup. -/
abbrev Places (s t : State) (loc : Location) (slot : Nat) (tag : Tag) (r : Record) : Prop :=
  let home := some (homeBucket r.kit)
  t.tag slot = tag ∧ t.body slot = s.bodyWritten slot r ∧ OthersStay s t slot
    ∧ (∀ b w, ((t.bucket b).ways.get w).value =
        if loc = .way b w then some ⟨r.kit, slot⟩ else ((s.bucket b).ways.get w).value)
    ∧ WaysAre s t (fun b w => if loc = .way b w then ⟨some ⟨r.kit, slot⟩, some ⟨r.kit, slot⟩, .good⟩
        else if home = some b then ((s.bucket b).ways.get w).afterRead else (s.bucket b).ways.get w)
    ∧ (∀ b, (t.bucket b).state = (s.bucket b).state)
    ∧ (∀ i, t.spillEntry i = if loc = .spill i then some ⟨r.kit, slot, homeBucket r.kit⟩ else s.spillEntry i)
    ∧ t.integrity = { s.integrity with
        dirCorrected := s.dirCorrectedLeft home
        armed := s.armedLeft [slot] ((match loc with | .way b _ => [b] | _ => []) ++ s.readWrites home) }
    ∧ t.engine.allocPtr = (slot + 1) % 4096 ∧ t.engine.fetchCursor = s.engine.fetchCursor
    ∧ t.engine.checkInSearch = s.engine.checkInSearch
    ∧ (t.bank (bankIndex slot)).free = (s.bank (bankIndex slot)).free - 1
    ∧ (t.bank (bankIndex slot)).corrected = (s.bank (bankIndex slot)).corrected
    ∧ CountsFollow s t slot ∧ BanksFollow s t slot ∧ t.engine.movesMade = s.engine.movesMade
    ∧ KeepsSurroundings s t ∧ t.link = s.link ∧ t.sweep = s.sweep

/-- The state of a bucket once the pass numbered `ending` has ended (R144). -/
def BucketState.passed (ending : BitVec 16) : BucketState → BucketState
  | .normal => .normal
  | .rebuilding pass => if pass = ending then .rebuilding pass else .normal

/-- A tag without the location it had in a bucket that was wiped (R71 step 3). -/
def Tag.without (t : Tag) (wiped : Option Nat) : Tag :=
  match t.location, wiped with
  | .way b _, some x => if b = x then { t with location := .nowhere } else t
  | _, _ => t

/-- A slot whose location was none has been re-inserted under its home bucket (R72): in the lowest-numbered empty way,
else in the lowest-numbered empty spill entry, with the tag naming it; else the bucket is REBUILDING under `pass`. A
bucket with an uncorrectable way is wiped first, and corrected ways are written back and counted (R62, R63, R71). Every
other bucket and spill entry stays; `after` is what the end of a pass then makes of a bucket's state. -/
abbrev Reenters (s t : State) (slot : Nat) (kit : KitId) (home : Nat) (pass : BitVec 16)
    (after : BucketState → BucketState) : Prop :=
  let wiped := (s.bucket home).broken
  let ways : Four (Option Entry) := if wiped then ⟨none, none, none, none⟩ else (s.bucket home).values
  let state := if wiped then .rebuilding pass else (s.bucket home).state
  (∀ w, ways.get w = none → (∀ v, v < w → ways.get v ≠ none) →
      (t.tag slot).location = .way home w ∧ (t.bucket home).values = ways.set w (some ⟨kit, slot⟩)
        ∧ (t.bucket home).state = after state ∧ ∀ i, t.spillEntry i = s.spillEntry i)
    ∧ ((∀ w, ways.get w ≠ none) → ∀ i, i < 32 → s.spillEntry i = none → (∀ j, j < i → s.spillEntry j ≠ none) →
      (t.tag slot).location = .spill i ∧ (t.bucket home).values = ways ∧ (t.bucket home).state = after state
        ∧ ∀ j, t.spillEntry j = if j = i then some ⟨kit, slot, home⟩ else s.spillEntry j)
    ∧ ((∀ w, ways.get w ≠ none) → (∀ i, i < 32 → s.spillEntry i ≠ none) →
      (t.tag slot).location = .nowhere ∧ (t.bucket home).values = ways
        ∧ (t.bucket home).state = after (.rebuilding pass) ∧ ∀ i, t.spillEntry i = s.spillEntry i)
    ∧ (∀ b, b ≠ home → (t.bucket b).ways = (s.bucket b).ways ∧ (t.bucket b).state = after (s.bucket b).state)
    ∧ WaysAre s t (fun b w => if (t.tag slot).location = .way b w then ⟨some ⟨kit, slot⟩, some ⟨kit, slot⟩, .good⟩
        else if b = home then (if wiped then ⟨none, none, .good⟩ else ((s.bucket b).ways.get w).afterRead)
        else (s.bucket b).ways.get w)
    ∧ t.integrity.dirCorrected = s.dirCorrectedLeft (some home)

/-- The bucket a re-insertion wipes, and the error it reports: the home bucket when one of its ways is uncorrectable
(R62, R71). -/
def State.wipedBy (s : State) (home : Nat) : Option Nat := if (s.bucket home).broken then some home else none

/-- The uncorrectable bucket a lookup reads has been wiped (R62, R71), by a turn of a requester that read a minute: its
four ways are empty, it is REBUILDING under the current pass, the tags that named its ways have no location, the error
is fed to the first-error report, and an injection armed for it is armed no more. Nothing else has changed. -/
abbrev Wiped (s u : State) (home : Nat) (metBy : Requester) (minute : Option Nat) : Prop :=
  let empty : StoredWay := ⟨none, none, .good⟩
  Memory.wf u ∧ u.bucket home = ⟨⟨empty, empty, empty, empty⟩, .rebuilding s.sweep.pass⟩
    ∧ (∀ b, b ≠ home → u.bucket b = s.bucket b) ∧ (∀ x, u.tag x = (s.tag x).without (some home))
    ∧ FeedsErrors s u [.directory home] metBy minute
    ∧ u.integrity.armed = (if s.integrity.armed.map (·.target) = some (.bucket home) then none else s.integrity.armed)
    ∧ u = { s with
        dir := { s.dir with buckets := u.dir.buckets }
        memory := { s.memory with tags := u.memory.tags }
        integrity := { u.integrity with dirCorrected := s.integrity.dirCorrected } }

/-- A turn whose lookup reads an uncorrectable bucket does what it does with the bucket wiped (R62, R71); an injection
armed for the bucket then spoils way 0 of it, the lowest the turn has written (R152; DEDUCED, log 22). -/
abbrev GoesOnWiped (s : State) (row : Instr) (home : Nat) (metBy : Requester) (minute : Option Nat) : Prop :=
  ∃ u t v, Wiped s u home metBy minute ∧ exec row u = .next t ∧ exec row s = .next v
    ∧ (s.integrity.armed.map (·.target) ≠ some (.bucket home) → v = t)
    ∧ ∀ m, s.integrity.armed = some ⟨.bucket home, m⟩ →
      (v.bucket home).ways = (t.bucket home).ways.set 0 { (t.bucket home).ways.get 0 with
          check := match m with | .single => .single | .double => .double }
        ∧ (v.bucket home).state = (t.bucket home).state ∧ (∀ b, b ≠ home → v.bucket b = t.bucket b)
        ∧ v = { t with dir := { t.dir with buckets := v.dir.buckets } }

/-- The kit of a record command that starts a full search when its lookup cannot be trusted (R65, R82). -/
def RecordCommand.seeks : RecordCommand → Option KitId
  | .topUp kit _ | .adjust kit _ | .suspend kit | .resume kit | .changeClass kit _ | .retire kit | .readRecord kit =>
    some kit
  | _ => none

/-- The kit a record command's turn looks up (R82). -/
def RecordCommand.looksUp : RecordCommand → Option KitId
  | .enrol kit _ _ => some kit
  | .restore i => some i.kit
  | c => c.seeks

/-- The record commands that need the station minute: ENROL, TOP UP, ADJUST, SUSPEND, RESUME and RESTORE (R81). -/
def RecordCommand.needsMinute (c : RecordCommand) : Bool := c.code ∈ [0x10#8, 0x11, 0x12, 0x13, 0x14, 0x18]

/-- The check-in at the head of the queue, with the next turn CHECK-IN's and no search of its own in flight. -/
abbrev CheckInNext (s : State) (a : Arrival) (rest : List Arrival) : Prop :=
  Memory.wf s ∧ s.link.queue = a :: rest ∧ s.engine.checkInSearch = none ∧ s.arbiter = some .checkIn

/-- A check-in has been served on a live slot found for it, by a turn that read `minute` at its start. With the slot
undamaged and the clock RUNNING the record of the ordinary check-in turn is written and a grant with the issued serial
as written is handed over; otherwise the record stays and a KEEP grant with the serial as read is handed over (R105,
R106, R113). `rest` is what the arrival queue then holds. -/
abbrev CheckInLeaves (s t : State) (minute : Option Nat) (a : Arrival) (slot : Nat) (rest : List Arrival)
    (looked : Option Nat) : Prop :=
  let r := s.reading slot
  let tag := s.tagRead slot
  let c := s.tariffClass r.cls
  let handed := fun g => ({ s with link := { s.link with queue := rest, inService := some a } }.handOver g a).link
  t.port = s.port ∧ t.engine.checkInSearch = none ∧ t.engine.held = s.engine.held
    ∧ t.engine.commandSearch = s.engine.commandSearch ∧ t.link.queue = rest ∧ t.link.inService = none ∧
    match tag.damaged, minute with
    | false, some now =>
      let r' := checkedInRecord tag.lifecycle r a.checkIn c now
      let st := (standingOf false tag.lifecycle r' c.grace (some now)).getD .keep
      TurnLeaves s t slot { tag with marked := r'.marks.any } r' .written looked .checkIn minute
        ∧ t.link = handed ⟨a.checkIn.kit, r'.issued, st, grantMinutes st r'.expiry now,
            grantGrace st r'.expiry c.grace now, a.checkIn.serial⟩
    | _, _ => TurnLeaves s t slot tag r .read looked .checkIn minute
        ∧ t.link = handed ⟨a.checkIn.kit, r.issued, .keep, 0, 0, a.checkIn.serial⟩

/-- A held command that names a kit has been carried out on the live slot its search found, as on a slot its lookup
finds (R66, R82): CLOCK_UNSET, RECORD_DAMAGED, the command's own refusals, or its effect. A command that names no kit
has no search and is answered NOT_FOUND. -/
def ServesCommand (s t : State) (slot : Nat) (c : RecordCommand) : Prop :=
  let tag := s.tagRead slot
  let r := s.reading slot
  let cl := s.tariffClass r.cls
  let answers := fun (tag' : Tag) (r' : Record) (access : BodyAccess) (st : Status) (fields : List Byte) =>
    CommandLeaves s t slot tag' r' access none c.code st fields
  let refused := fun st => answers tag r .read st []
  let credit := fun (now : Nat) (res : Option CreditResult) => match res with
    | none => refused .creditFull
    | some res => answers { tag with lifecycle := res.account.lc, marked := true } res.account.r .written .ok
        (creditBytes res (res.account.standing cl.grace now))
  match c, s.now with
  | .readRecord _, clock => answers tag r .read .ok (imageBytes (recordImage slot tag r
      (standingOf tag.damaged tag.lifecycle r cl.grace clock)))
  | .retire _, _ => (∀ b, s.evacuatingBank = some b → 0 < s.liveIn b) → Retires s t slot none 0x16
  | .changeClass _ cls, clock =>
    let r' := { r with cls := cls.toNat, marks := { r.marks with changed := true } }
    if tag.damaged then refused .recordDamaged
    else if tag.lifecycle = .owned then refused .wrongLifecycle
    else if (s.tariffClass cls.toNat).price = 0 then refused .classClosed
    else answers { tag with marked := true } r' .written .ok
      [cls, standingCode (standingOf false tag.lifecycle r' (s.tariffClass cls.toNat).grace clock)]
  | .topUp _ amount, some now =>
    if tag.damaged then refused .recordDamaged
    else if tag.lifecycle = .owned then refused .wrongLifecycle
    else if cl.price = 0 then refused .classClosed
    else credit now (topUp ⟨tag.lifecycle, r⟩ cl amount.toNat now)
  | .adjust _ minutes, some now =>
    let m := minutes.toInt
    if tag.damaged then refused .recordDamaged
    else if tag.lifecycle = .owned then refused .wrongLifecycle
    else credit now (if 0 < m then adjustUp ⟨tag.lifecycle, r⟩ cl m.natAbs now
      else some (adjustDown ⟨tag.lifecycle, r⟩ cl m.natAbs now))
  | .suspend _, some now =>
    let a := suspendAccount ⟨tag.lifecycle, r⟩ cl now
    if tag.damaged then refused .recordDamaged
    else if tag.lifecycle ≠ .enrolled ∧ tag.lifecycle ≠ .running then refused .wrongLifecycle
    else answers { tag with lifecycle := .suspended, marked := true } a.r .written .ok
      (beBytes 3 (a.r.frozen.getD 0) ++ [tag.lifecycle.code] ++ beBytes 3 a.r.reserve ++ [0x05#8])
  | .resume _, some now =>
    let a := resumeAccount ⟨tag.lifecycle, r⟩ cl now
    if tag.damaged then refused .recordDamaged
    else if tag.lifecycle ≠ .suspended then refused .wrongLifecycle
    else answers { tag with lifecycle := a.lc, marked := true } a.r .written .ok
      ([a.lc.code] ++ beBytes 4 a.r.expiry ++ beBytes 3 a.r.reserve ++ [standingCode (a.standing cl.grace now)])
  | .topUp _ _, none | .adjust _ _, none | .suspend _, none | .resume _, none => refused .clockUnset
  | _, _ => refused .notFound

/-- The row is a turn of the record engine that the arbiter grants to requester `g` (R78): the work that requester then
has (log 1). -/
abbrev IsTurnOf (s : State) (i : Instr) (g : Requester) : Prop :=
  let search := match g with
    | .checkIn => s.engine.checkInSearch
    | .command => s.engine.commandSearch
    | _ => none
  s.arbiter = some g ∧
    (i = .commandTurn ∧ g = .command ∧ s.engine.held ≠ none ∧ search = none
      ∨ i = .checkInTurn ∧ g = .checkIn ∧ s.link.queue ≠ [] ∧ search = none
      ∨ i = .searchStep ∧ (∃ se, search = some se ∧ se.found = none)
      ∨ i = .usingTurn ∧ (∃ se slot, search = some se ∧ se.found = some slot)
      ∨ i = .sweepVisit ∧ g = .sweep ∨ i = .evacuationMove ∧ g = .evacuation)

/-- A sweep visit has been made at slot `p` (R139, R144): one credit is used, the position moves past the slot, and a
pass ends where the position moves from 4,095 to 0, at slots passed over or at this visit. -/
abbrev SweepMoves (s t : State) (p : Nat) : Prop :=
  t.sweep.rate = s.sweep.rate ∧ t.sweep.credits = s.sweep.credits - 1 ∧ t.sweep.position = (p + 1) % 4096
    ∧ t.sweep.pass = (if p < s.sweep.position ∨ p = 4095 then s.sweep.pass + 1 else s.sweep.pass)

/-- A credit change of a record, but for its money and minutes and for lapse noted (R37): the awaiting serial is armed at
the issued serial plus 1 and CHANGED is set; the kit, its class, its serials, its last check-in and drift, silence noted
and the other marks are as they were. -/
abbrev CreditChanged (before after : Record) : Prop :=
  after.awaiting = some (before.issued + 1) ∧ after.marks = { before.marks with changed := true }
    ∧ after.kit = before.kit ∧ after.cls = before.cls ∧ after.issued = before.issued
    ∧ after.acknowledged = before.acknowledged ∧ after.lastCheckIn = before.lastCheckIn ∧ after.drift = before.drift
    ∧ after.silenceNoted = before.silenceNoted

/-- Lapse noted after a credit change: cleared when the standing is then CREDIT, else as it was (R37). -/
def Account.lapseLeft (a : Account) (noted : Bool) (grace now : Nat) : Bool :=
  noted && decide (a.standing grace now ≠ some .credit)

/-- Minutes `m` have been placed: as many as the room to the horizon takes, in the expiry, or, of a SUSPENDED record, in
the frozen credit, where a prior lifecycle ENROLLED becomes RUNNING when any are (R44, R45). -/
abbrev PlacesMinutes (lc : Lifecycle) (before after : Record) (m applied now horizon : Nat) : Prop :=
  let base := max before.expiry now
  let frozen := before.frozen.getD 0
  (lc ≠ .suspended → applied = min m (now + horizon - base) ∧ after.expiry = base + applied
      ∧ after.frozen = before.frozen ∧ after.prior = before.prior)
    ∧ (lc = .suspended → applied = min m (horizon - frozen) ∧ after.expiry = before.expiry
      ∧ after.frozen = some (frozen + applied)
      ∧ after.prior = (if 0 < applied ∧ before.prior = some .enrolled then some .running else before.prior))

/-- At most one bank is EVACUATING, and it holds a live slot (R155, R158). -/
abbrev State.evacuationHolds (s : State) : Prop :=
  ∀ b, (s.bank b).state = .evacuating → s.evacuatingBank = some b ∧ 0 < s.liveIn b
    ∧ ∀ x, x ≠ b → (s.bank x).state ≠ .evacuating

/-- The record command held has passed the port's BAD_VALUE checks (R80, R81). -/
abbrev State.heldInRange (s : State) : Prop := ∀ c, s.engine.held = some c → c.badValue = false

/-- The prior lifecycle of a record body is absent, ENROLLED or RUNNING (R1, R92). -/
abbrev Record.priorHolds (r : Record) : Prop := r.prior = none ∨ r.prior = some .enrolled ∨ r.prior = some .running

/-- Every body's prior lifecycle is absent, ENROLLED or RUNNING (R1). -/
abbrev State.priorsHold (s : State) : Prop :=
  ∀ slot, (s.body slot).stored.priorHolds ∧ (s.body slot).written.priorHolds

/-- The pointers of the record engine name slots (R12, R18). -/
abbrev RecordEngine.pointersInRange (e : RecordEngine) : Prop := e.allocPtr < 4096 ∧ e.fetchCursor < 4096

/-- The parameter bytes a known command code has, none for a code the part does not know (section 11.2). -/
def commandLength (code : Nat) : Option Nat :=
  if code ∈ [0x1B, 0x23, 0x2B, 0x31, 0x32, 0x33, 0x34, 0x39, 0x40, 0x41, 0x50, 0x51, 0x53, 0x54] then some 0
  else if code ∈ [0x29, 0x2A, 0x38, 0x3A, 0x52] then some 1
  else if code ∈ [0x17, 0x1A, 0x21, 0x22] then some 2
  else if code ∈ [0x42, 0x43] then some 3
  else if code ∈ [0x13, 0x14, 0x16, 0x19, 0x20] then some 4
  else if code = 0x15 then some 5
  else if code ∈ [0x11, 0x12] then some 7
  else if code = 0x10 then some 9
  else if code = 0x30 then some 10
  else if code = 0x28 then some 12
  else if code = 0x18 then some 47
  else none

/-- A kit id that names no kit (R4). -/
abbrev NoKit (kit : KitId) : Prop := kit = 0 ∨ kit = 0xFFFFFFFF#32

/-- A record command has a parameter outside its range (R81 step 3; for RESTORE the rows of R92's table). -/
def RecordCommand.OutOfRange : RecordCommand → Prop
  | .enrol kit cls outstanding => NoKit kit ∨ 15 < cls.toNat ∨ outstanding = 0
  | .topUp kit amount => NoKit kit ∨ amount = 0
  | .adjust kit minutes => NoKit kit ∨ minutes = 0 ∨ minutes.toInt < -576000 ∨ 576000 < minutes.toInt
  | .suspend kit | .resume kit | .retire kit | .readRecord kit => NoKit kit
  | .changeClass kit cls => NoKit kit ∨ 15 < cls.toNat
  | .retireSlot slot | .readSlot slot => 4095 < slot.toNat
  | .fetchMarked => False
  | .restore i =>
    let lastCheckIn := i.presence.getLsbD 1 = true
    let frozen := i.presence.getLsbD 2 = true
    let prior := i.presence.getLsbD 3 = true
    let owned := i.lifecycle = 4
    let suspended := i.lifecycle = 3
    NoKit i.kit ∨ 15 < i.cls.toNat ∨ i.lifecycle = 0 ∨ 4 < i.lifecycle.toNat ∨ 4200576000 < i.expiry.toNat
      ∨ 1048575 < i.reserve.toNat ∨ 65534 < i.residue.toNat ∨ i.outstanding = 0 ∧ ¬owned ∨ owned ∧ i.outstanding ≠ 0
      ∨ owned ∧ (i.reserve ≠ 0 ∨ i.residue ≠ 0)
      ∨ frozen ∧ ¬suspended ∨ ¬frozen ∧ suspended ∨ frozen ∧ 576000 < i.frozen.toNat
      ∨ prior ∧ i.prior ≠ 1 ∧ i.prior ≠ 2 ∨ prior ∧ ¬frozen ∨ ¬prior ∧ frozen
      ∨ lastCheckIn ∧ 4200000000 < i.lastCheckIn.toNat
      ∨ 31744 ≤ (i.issued.toNat + 65536 - i.acknowledged.toNat) % 65536

/-- The host command a row is, where it is one. -/
def hostCommandOf : Instr → Option HostCommand
  | .enrol kit cls outstanding => some (.record (.enrol kit cls outstanding))
  | .topUp kit amount => some (.record (.topUp kit amount))
  | .adjust kit minutes => some (.record (.adjust kit minutes))
  | .suspend kit => some (.record (.suspend kit))
  | .resume kit => some (.record (.resume kit))
  | .changeClass kit cls => some (.record (.changeClass kit cls))
  | .retire kit => some (.record (.retire kit))
  | .retireSlot slot => some (.record (.retireSlot slot))
  | .restore image => some (.record (.restore image))
  | .readRecord kit => some (.record (.readRecord kit))
  | .readSlot slot => some (.record (.readSlot slot))
  | .fetchMarked => some (.record .fetchMarked)
  | .setTime minute => some (.setTime minute)
  | .advanceTime minutes => some (.advanceTime minutes)
  | .holdTime minutes => some (.holdTime minutes)
  | .readTime => some .readTime
  | .setClass block => some (.setClass block)
  | .readClass cls => some (.readClass cls)
  | .setSweep rate => some (.setSweep rate)
  | .readSweep => some .readSweep
  | .setLink block => some (.setLink block)
  | .readLink => some .readLink
  | .linkEnable => some .linkEnable
  | .linkDisable => some .linkDisable
  | .readLinkCounters => some .readLinkCounters
  | .evacuateBank bank => some (.evacuateBank bank)
  | .cancelEvacuation => some .cancelEvacuation
  | .returnBank bank => some (.returnBank bank)
  | .readErrorReport => some .readErrorReport
  | .clearErrorReport => some .clearErrorReport
  | .injectRecord slot mode => some (.injectRecord slot mode)
  | .injectBucket bucket mode => some (.injectBucket bucket mode)
  | .identify => some .identify
  | .readStatus => some .readStatus
  | .setAttention mask => some (.setAttention mask)
  | .clearCounters => some .clearCounters
  | .restart => some .restart
  | _ => none

end Sys2Proof.Machine
end

