-- ==== Sys2Proof/Certificates/Slice0/Obligations.lean ====
section
/-! DEFINITION. The statements for the provers. Values that are the model's choice name their log entry. -/

open Sys2Proof Sys2Proof.Machine

/-! ## Steps -/

/-- A step takes the command at the front of the queue and answers exec of it on the state with the queue's rest. On
an empty queue a step leaves the state as it is (DESIGN CHOICE, log 8). -/
def Obligations.StepRunsFrontCommand : Prop :=
  (∀ (s : State) (c : Instr) (rest : List Instr), s.pending = c :: rest → step s = exec c { s with pending := rest })
  ∧ (∀ s : State, s.pending = [] → step s = .next s)

/-! ## Resets and clearing -/

/-- State.reset holds what the reset tables of R11, R13, R19, R32, R33, R74, R79, R118, R136, R137, R161 and R168
give for power-on; the cleared body is the model's (log 12), the strap value 0 is the model's (log 17). -/
def Obligations.ResetState : Prop :=
  State.reset.time = ⟨0, .unset, 0, 0, 0, false⟩
    ∧ (∀ c, State.reset.tariffClass c = ⟨0, 43200, 0, 0, 0⟩)
    ∧ (∀ slot, State.reset.tag slot = ⟨.free, false, .nowhere, false⟩ ∧ State.reset.body slot = StoredBody.cleared)
    ∧ (∀ b, State.reset.bank b = ⟨.initialising, 0, 0⟩) ∧ State.reset.memory.bankFlag = false
    ∧ State.reset.freeCount = 0 ∧ State.reset.allocatable = 0 ∧ State.reset.slotsInService = 0
    ∧ State.reset.evacuatingBank = none
    ∧ (∀ b w, (State.reset.bucket b).ways.get w = ⟨none, none, .good⟩ ∧ (State.reset.bucket b).state = .normal)
    ∧ (∀ i, State.reset.spillEntry i = none)
    ∧ State.reset.engine = ⟨⟨0, 0, 0, 0⟩, 0, none, none, none, 0, 0, 0, 0, 0, 0, 0, 0, 0, none⟩
    ∧ State.reset.link.config = ⟨.r19200, .without, false, 3277, 3277, 6554, true⟩
    ∧ State.reset.link.state = .disabled ∧ State.reset.link.atRest ∧ State.reset.link.inService = none
    ∧ State.reset.link.counters = ⟨0, 0, 0, 0, 0, 0, 0, 0, 0, 0, 0, 0⟩ ∧ State.reset.keyLine = false
    ∧ State.reset.sweep = ⟨8, 0, 0, 0⟩
    ∧ State.reset.integrity = ⟨none, false, false, 0, none⟩
    ∧ State.reset.port = ⟨0, [], [], false, false, false, true, 1, .powerOn, []⟩
    ∧ State.reset.busy = false ∧ State.reset.attention = false
    ∧ State.reset.pending = []

/-- POWER_ON and RESET_PIN put every block at its reset value, sample the straps and record the start-up cause; the
queue of waiting events stays (log 9). -/
def Obligations.PowerOnAndResetPin : Prop :=
  ∀ (s : State) (straps : BitVec 2),
    exec (.powerOn straps) s = .next { State.reset with
      port := { State.reset.port with strap := straps, cause := .powerOn }, pending := s.pending }
    ∧ exec (.resetPin straps) s = .next { State.reset with
      port := { State.reset.port with strap := straps, cause := .resetPin }, pending := s.pending }

/-- BANK_CLEARING_COMPLETE during start-up: the bank enters service, and NOT_READY clears when nothing is left to
clear. DIRECTORY_CLEARING_COMPLETE during start-up: every way and spill entry is empty and every bucket NORMAL, and
NOT_READY clears when no bank is left to clear. RETURN_BANK_CLEARING_COMPLETE: the returned bank enters service and
the BANK flag is set. -/
def Obligations.ClearingCompletes : Prop :=
  (∀ (s : State) (b : Fin 4), s.port.notReady = true → (s.bank b).state = .initialising →
     ∃ t, exec (.bankClearingComplete b.val) s = .next t ∧ BankIsCleared s t b
       ∧ t.memory.bankFlag = s.memory.bankFlag
       ∧ t.port = { s.port with
           notReady := s.dir.clearing || decide (∃ x, x ≠ b ∧ (s.bank x).state = .initialising) })
  ∧ (∀ s : State, s.port.notReady = true → s.dir.clearing = true →
       exec .directoryClearingComplete s = .next { s with
         dir := ⟨[], [], false⟩
         port := { s.port with notReady := decide (∃ x, (s.bank x).state = .initialising) } })
  ∧ (∀ (s : State) (b : Fin 4), s.port.notReady = false → (s.bank b).state = .initialising →
       ∃ t, exec (.returnBankClearingComplete b.val) s = .next t ∧ BankIsCleared s t b
         ∧ t.memory.bankFlag = true ∧ t.port = s.port)

/-! ## The time input -/

/-- TIME_INPUT_EDGE: the link timer and the divider count, a lost input has returned, and the divider's wrap is a
raw minute tick. At the timer's new value the check-ins whose stamp lies 32,768 counts back become overdue; READY
channels past their latest start are given up and counted; SCHEDULED channels at their earliest start become READY and
an IDLE transmitter takes the one to send; and at the key-on time plus the transmit timeout the link is FAULTED with the
effects of leaving ENABLED and the timeout counted. Nothing else of the link changes. (DESIGN CHOICE: where the edge
takes the link out of ENABLED, what that leaves of the record engine follows log 31, and a tick or a latest start passed
at the same edge comes before a timeout, log 4.) The edge is the one that the rows of timed events run on with. -/
def Obligations.EdgeCounts : Prop :=
  ∀ s : State, s.time.divider < 1966080 → s.link.inOrder →
    ∃ t, exec .timeInputEdge s = .next t ∧ t = s.edge false ∧ KeepsRecords s t
      ∧ (Memory.wf s → LinkAt s t (s.time.timer + 1))
      ∧ t.time.timer = s.time.timer + 1 ∧ t.time.inputLost = false ∧ t.time.clock = s.time.clock
      ∧ (s.time.divider + 1 < 1966080 → t.time.divider = s.time.divider + 1 ∧ t.time.minute = s.time.minute
          ∧ t.time.hold = s.time.hold ∧ t.sweep = s.sweep)
      ∧ (s.time.divider + 1 = 1966080 → t.time.divider = 0 ∧ TickEffect s t)

/-- RAW_MINUTE_TICK, when the tick is the next timed event (log 3): the divider returns to 0 and the tick has its
effect on the station minute, the hold count and the visit credits. (A transmit timeout at the same edge comes after
it, log 4; what it makes of a check-in turn in progress, log 31: DESIGN CHOICE.) -/
def Obligations.RawMinuteTick : Prop :=
  ∀ (s : State) (d : Nat), s.time.divider < 1966080 → s.link.inOrder → s.nextEventIs s.edgesToTick d →
    ∃ t, exec .rawMinuteTick s = .next t ∧ KeepsRecords s t ∧ d = 1966080 - s.time.divider
      ∧ t.time.divider = 0 ∧ t.time.timer = s.time.timer + BitVec.ofNat 16 d
      ∧ t.time.inputLost = false ∧ t.time.clock = s.time.clock ∧ TickEffect s t

/-- STAMP_OVERDUE, when it is the next timed event and no transmit timeout falls at the same count: the check-ins
whose stamp lies 32,768 counts back are marked overdue, and no other. TRANSMIT_TIMEOUT, when it is the next timed
event: the transmit-timeout counter alone rises, and the link is FAULTED with the effects of leaving ENABLED. (What
leaving makes of a check-in turn in progress, log 31, and a tick at the same edge before it, log 4: DESIGN CHOICE.) -/
def Obligations.OverdueAndTimeout : Prop :=
  (∀ (s : State) (d : Nat), s.nextEventIs s.edgesToOverdue d → d ∉ s.edgesToTimeout →
     let mark := fun a : Arrival =>
       if a.stamp + 32768#16 = s.time.timer + BitVec.ofNat 16 d then { a with overdue := true } else a
     ∃ t, exec .stampOverdue s = .next t ∧ KeepsRecords s t ∧ t.time.timer = s.time.timer + BitVec.ofNat 16 d
       ∧ t.link.queue = s.link.queue.map mark ∧ t.link.inService = s.link.inService.map mark
       ∧ t.link.state = s.link.state)
  ∧ (∀ (s : State) (d c : Nat) (keyOn : Stamp), s.link.inOrder → s.link.tx = .sending c keyOn → s.nextEventIs s.edgesToTimeout d →
       ∃ t, exec .transmitTimeout s = .next t ∧ KeepsRecords s t ∧ t.time.timer = s.time.timer + BitVec.ofNat 16 d
         ∧ t.time.timer = keyOn + BitVec.ofNat 16 s.link.config.timeout
         ∧ t.link.state = .faulted ∧ t.link.atRest
         ∧ t.link.inService = s.link.inService.map (fun a => { a with overdue := true })
         ∧ t.link.counters = { s.link.counters with transmitTimeout := min (s.link.counters.transmitTimeout + 1) 65535 })

/-- EARLIEST_START, when it is the next timed event and no transmit timeout falls at the same count: the SCHEDULED
channels at their earliest start become READY, and an IDLE transmitter takes at once the READY channel with the
smallest remaining count to its latest start, the lowest number where two share it, which becomes SENDING; the other
channels stay. LATEST_START_PASSED, when it is the next timed event: the READY channels whose latest start the timer
has counted past become FREE, and the collided counter rises by their number; the transmitter then chooses as before.
(What a timeout at the same count, by leaving ENABLED, makes of a check-in turn in progress, log 31, and a tick at the
same edge before it, log 4: DESIGN CHOICE.) -/
def Obligations.ReplyWindow : Prop :=
  (∀ (s : State) (d c : Nat) (ch : Channel), Memory.wf s → s.nextEventIs s.edgesToEarliest d →
     d ∉ s.edgesToTimeout → c < 8 → s.channel c = some ch → ch.phase = .scheduled →
     ch.earliest = s.time.timer + BitVec.ofNat 16 d →
     let timer := s.time.timer + BitVec.ofNat 16 d
     ∃ t, exec .earliestStart s = .next t ∧ KeepsRecords s t ∧ t.time.timer = timer
       ∧ (t.channel c = some { ch with phase := .ready }
           ∨ t.channel c = some { ch with phase := .sending } ∧ t.link.tx = .sending c timer)
       ∧ (s.link.tx = .idle → (∃ n, t.link.tx = .sending n timer) ∧ Sends (s.channelsAt timer) timer t)
       ∧ (s.link.tx ≠ .idle → t.link.tx = s.link.tx ∧ ∀ n, n < 8 → t.channel n = s.channelsAt timer n)
       ∧ t.link.state = s.link.state)
  ∧ (∀ (s : State) (d c : Nat) (ch : Channel), Memory.wf s → s.link.inOrder → s.link.counters.collided ≤ 65535 →
       s.nextEventIs s.edgesPastLatest d → c < 8 → s.channel c = some ch → ch.phase = .ready →
       ch.latest + 1 = s.time.timer + BitVec.ofNat 16 d →
       let timer := s.time.timer + BitVec.ofNat 16 d
       ∃ t, exec .latestStartPassed s = .next t ∧ KeepsRecords s t ∧ t.time.timer = timer
         ∧ t.channel c = none
         ∧ t.link.counters.collided = min 65535 (s.link.counters.collided
             + ((List.range 8).filter fun n => (s.channel n).any fun k =>
                 decide (k.phase = .ready) && decide (k.latest + 1 = timer)).length)
         ∧ (d ∉ s.edgesToTimeout → s.link.tx = .idle → Sends (s.channelsAt timer) timer t)
         ∧ (d ∉ s.edgesToTimeout → s.link.tx ≠ .idle →
             t.link.tx = s.link.tx ∧ ∀ n, n < 8 → t.channel n = s.channelsAt timer n))

/-- The rows that name a timed event are edges of the time input run on to that event, and change nothing when it
does not come next (DESIGN CHOICE, log 3; the order at one count, log 4). The edges each event lies ahead are those in
which the link timer counts to it: to 32,768 past the stamp of a check-in not yet overdue, to the earliest start of a
SCHEDULED channel, to the count after the latest start of a READY one, to the key-on time plus the transmit timeout. -/
def Obligations.TimedRowsAreEdges : Prop :=
  (∀ (s : State) (d : Nat),
    let countsTo := fun target : Stamp => 1 ≤ d ∧ d ≤ 65536 ∧ s.time.timer + BitVec.ofNat 16 d = target
    (d ∈ s.edgesToTick ↔ d = 1966080 - s.time.divider)
    ∧ (d ∈ s.edgesToOverdue ↔ ∃ a, (a ∈ s.link.queue ∨ s.link.inService = some a) ∧ a.overdue = false
        ∧ countsTo (a.stamp + 32768#16))
    ∧ (Memory.wf s → (d ∈ s.edgesToEarliest ↔ ∃ n ch, s.channel n = some ch ∧ ch.phase = .scheduled
        ∧ countsTo ch.earliest))
    ∧ (Memory.wf s → (d ∈ s.edgesPastLatest ↔ ∃ n ch, s.channel n = some ch ∧ ch.phase = .ready
        ∧ countsTo (ch.latest + 1)))
    ∧ (d ∈ s.edgesToTimeout ↔ ∃ c keyOn, s.link.tx = .sending c keyOn
        ∧ countsTo (keyOn + BitVec.ofNat 16 s.link.config.timeout))
    ∧ (s.edgesToNext = some d ↔
        let events := s.edgesToTick ++ s.edgesToOverdue ++ s.edgesToEarliest ++ s.edgesPastLatest ++ s.edgesToTimeout
        d ∈ events ∧ ∀ e ∈ events, d ≤ e))
  ∧ ∀ (s : State) (d : Nat), s.time.divider < 1966080 → s.nothingToSend →
    (s.nextEventIs s.edgesToTick d → exec .rawMinuteTick s = .next ((fun x => x.edge false)^[d] s))
    ∧ (s.nextEventIs s.edgesToOverdue d → exec .stampOverdue s = .next ((fun x => x.edge false)^[d] s))
    ∧ (s.nextEventIs s.edgesToEarliest d → exec .earliestStart s = .next ((fun x => x.edge false)^[d] s))
    ∧ (s.nextEventIs s.edgesPastLatest d → exec .latestStartPassed s = .next ((fun x => x.edge false)^[d] s))
    ∧ (s.nextEventIs s.edgesToTimeout d →
        exec .transmitTimeout s = .next (((fun x => x.edge false)^[d - 1] s).edge true))
    ∧ ((∀ n, ¬s.nextEventIs s.edgesToTick n) → exec .rawMinuteTick s = .next s)
    ∧ ((∀ n, ¬s.nextEventIs s.edgesToOverdue n) → exec .stampOverdue s = .next s)
    ∧ ((∀ n, ¬s.nextEventIs s.edgesToEarliest n) → exec .earliestStart s = .next s)
    ∧ ((∀ n, ¬s.nextEventIs s.edgesPastLatest n) → exec .latestStartPassed s = .next s)
    ∧ ((∀ n, ¬s.nextEventIs s.edgesToTimeout n) → exec .transmitTimeout s = .next s)

/-- INPUT_LOST: the flag is set, the counts stand still, an ENABLED link is FAULTED with the effects of leaving
ENABLED and with its counters as they were, and any other link stays as it is. (What leaving makes of a check-in turn
in progress: DESIGN CHOICE, log 31.) -/
def Obligations.InputLost : Prop :=
  ∀ s : State, ∃ t, exec .inputLost s = .next t ∧ KeepsRecords s t
    ∧ t.time = { s.time with inputLost := true } ∧ t.sweep = s.sweep
    ∧ (s.link.state = .enabled → t.link.state = .faulted ∧ t.link.atRest ∧ t.link.counters = s.link.counters
        ∧ t.link.inService = s.link.inService.map (fun a => { a with overdue := true }))
    ∧ (s.link.state ≠ .enabled → t.link = s.link)
    ∧ t.sources.getLsbD 3 = true

/-! ## Time commands -/

/-- SET TIME: BAD_VALUE above 4,000,000,000, then WRONG_STATE while RUNNING; accepted, the clock runs at the minute
given with divider and hold count 0, link timer and input-lost flag as they stand. ADVANCE TIME: the three checks in
their order; accepted, the advance is spent against the hold first and the rest raises the station minute, the
divider keeps its count. HOLD TIME: BAD_VALUE outside 1..1,440, then CLOCK_UNSET; accepted, the hold count rises by
the minutes given and stops at 1,440, minute and divider unchanged. READ TIME is accepted in every clock state and
changes nothing. All four return the time report. -/
def Obligations.TimeCommands : Prop :=
  (∀ (s : State) (minute : BitVec 32), s.busy = false →
     exec (.setTime minute) s = .next (
       if 4000000000 < minute.toNat then s.answered (.setTime minute) .badValue []
       else if s.time.clock = .running then s.answered (.setTime minute) .wrongState []
       else { s.answered (.setTime minute) .ok
           ([0x01#8] ++ beBytes 4 minute.toNat ++ [0, 0, flagByte s.time.inputLost]) with
         time := { s.time with clock := .running, minute := minute.toNat, divider := 0, hold := 0 } }))
  ∧ (∀ (s : State) (minutes : BitVec 16), s.busy = false →
       let n := minutes.toNat
       let t' : TimeUnit := if n ≤ s.time.hold then { s.time with hold := s.time.hold - n }
         else { s.time with hold := 0, minute := s.time.minute + (n - s.time.hold) }
       exec (.advanceTime minutes) s = .next (
         if n < 1 ∨ 1440 < n then s.answered (.advanceTime minutes) .badValue []
         else if s.time.clock = .unset then s.answered (.advanceTime minutes) .clockUnset []
         else if s.time.hold < n ∧ 4200000000 < s.time.minute + (n - s.time.hold) then
           s.answered (.advanceTime minutes) .badValue []
         else { s.answered (.advanceTime minutes) .ok t'.report with time := t' }))
  ∧ (∀ (s : State) (minutes : BitVec 16), s.busy = false →
       let t' : TimeUnit := { s.time with hold := min (s.time.hold + minutes.toNat) 1440 }
       exec (.holdTime minutes) s = .next (
         if minutes.toNat < 1 ∨ 1440 < minutes.toNat then s.answered (.holdTime minutes) .badValue []
         else if s.time.clock = .unset then s.answered (.holdTime minutes) .clockUnset []
         else { s.answered (.holdTime minutes) .ok t'.report with time := t' }))
  ∧ (∀ s : State, s.busy = false → exec .readTime s = .next (s.answered .readTime .ok s.time.report))
  ∧ (∀ u : TimeUnit, u.report = [u.clock.code] ++ beBytes 4 u.minute ++ beBytes 2 u.hold ++ [flagByte u.inputLost])

/-- While the clock is RUNNING no step but a reset row lowers the station minute, takes it above 4,200,000,000 or
stops the clock. -/
def Obligations.MinuteNeverDecreases : Prop :=
  ∀ s s' : State, s.time.inRange → s.time.clock = .running → step s = .next s' →
    (∀ straps rest, s.pending ≠ .powerOn straps :: rest ∧ s.pending ≠ .resetPin straps :: rest) →
    s'.time.clock = .running ∧ s.time.minute ≤ s'.time.minute ∧ s'.time.minute ≤ 4200000000

/-! ## Tariff, sweep and link commands -/

/-- SET CLASS: BAD_VALUE for a class above 15, then for a field outside its range, with no field written; accepted,
the five fields of that class alone are replaced and the class block returned. READ CLASS: BAD_VALUE above 15,
otherwise the class's five fields as they stand; nothing else changes. SET SWEEP refuses a rate above 64 and
otherwise replaces the rate alone; READ SWEEP changes nothing; both return the sweep report. All four in every state
of the part. -/
def Obligations.TariffAndSweepCommands : Prop :=
  (∀ (s : State) (b : ClassBlock), s.busy = false → Memory.wf s →
     let v : TariffClass := ⟨b.price.toNat, b.horizon.toNat, b.grace.toNat, b.silence.toNat, b.drift.toNat⟩
     let bad := 15 < b.cls.toNat ∨ b.horizon.toNat < 1440 ∨ 576000 < b.horizon.toNat ∨ 10080 < b.grace.toNat
       ∨ 43200 < b.silence.toNat ∨ 1440 < b.drift.toNat
     (bad → exec (.setClass b) s = .next (s.answered (.setClass b) .badValue []))
     ∧ (¬bad → ∃ table, exec (.setClass b) s = .next { s.answered (.setClass b) .ok (classBytes b.cls v) with
           tariff := table }
         ∧ ∀ c, cellRead TariffClass.reset table c = if c = b.cls.toNat then v else s.tariffClass c))
  ∧ (∀ (s : State) (cls : Byte), s.busy = false →
       exec (.readClass cls) s = .next (
         if 15 < cls.toNat then s.answered (.readClass cls) .badValue []
         else
           let v := s.tariffClass cls.toNat
           s.answered (.readClass cls) .ok ([cls] ++ beBytes 2 v.price ++ beBytes 3 v.horizon ++ beBytes 2 v.grace
             ++ beBytes 2 v.silence ++ beBytes 2 v.drift)))
  ∧ (∀ (s : State) (rate : Byte), s.busy = false →
       exec (.setSweep rate) s = .next (
         if 64 < rate.toNat then s.answered (.setSweep rate) .badValue []
         else { s.answered (.setSweep rate) .ok (beBytes 1 rate.toNat ++ beBytes 1 s.sweep.credits
             ++ beBytes 2 s.sweep.position ++ beBytes 2 s.sweep.pass.toNat) with
           sweep := { s.sweep with rate := rate.toNat } })
       ∧ exec .readSweep s = .next (s.answered .readSweep .ok (beBytes 1 s.sweep.rate ++ beBytes 1 s.sweep.credits
           ++ beBytes 2 s.sweep.position ++ beBytes 2 s.sweep.pass.toNat)))

/-- SET LINK: BAD_VALUE when an item is outside its values or O + W is above 32,000, then WRONG_STATE unless
DISABLED, with every item as it was; accepted, the seven items are replaced and the key line stands at the new idle
level. READ LINK changes nothing. Both return the link report, whose 15 bytes are given. A character is sent as one
start bit, eight data bits least significant first, a parity bit when parity is even or odd, and the configured number
of stop bits; a send passes the 18 bytes of its packet so framed, one after the other (the levels of start and stop
bits are PRESUMED, log 20). -/
def Obligations.LinkConfiguration : Prop :=
  (∀ (s : State) (b : LinkBlock), s.busy = false →
    let bad := 3 < b.bitRate.toNat ∨ 2 < b.parity.toNat ∨ (b.stopBits ≠ 1 ∧ b.stopBits ≠ 2) ∨ 1 < b.keyLevel.toNat
      ∨ b.openDelay.toNat < 1 ∨ 32000 < b.openDelay.toNat ∨ b.window.toNat < 1 ∨ 32000 < b.window.toNat
      ∨ b.timeout.toNat < 1 ∨ 32000 < b.timeout.toNat ∨ 32000 < b.openDelay.toNat + b.window.toNat
    (bad → exec (.setLink b) s = .next (s.answered (.setLink b) .badValue []))
    ∧ (¬bad → s.link.state ≠ .disabled → exec (.setLink b) s = .next (s.answered (.setLink b) .wrongState []))
    ∧ (¬bad → s.link.state = .disabled → ∃ c : LinkConfig,
        c.bitRate.code = b.bitRate ∧ c.parity.code = b.parity ∧ (c.twoStopBits = true ↔ b.stopBits = 2)
        ∧ c.openDelay = b.openDelay.toNat ∧ c.window = b.window.toNat ∧ c.timeout = b.timeout.toNat
        ∧ (c.keyActiveHigh = true ↔ b.keyLevel = 1)
        ∧ exec (.setLink b) s = .next { s.answered (.setLink b) .ok ({ s.link with config := c }).report with
            link := { s.link with config := c } }
        ∧ (s.link.tx = .idle → ({ s with link := { s.link with config := c } }).keyLine = !c.keyActiveHigh))
    ∧ exec .readLink s = .next (s.answered .readLink .ok s.link.report))
  ∧ (∀ s : State, Memory.wf s → (∀ n, 8 ≤ n → s.channel n = none) →
      let c := s.link.config
      s.link.report =
        [match c.bitRate with | .r9600 => 0#8 | .r19200 => 1 | .r38400 => 2 | .r57600 => 3,
         match c.parity with | .without => 0#8 | .even => 1 | .odd => 2, if c.twoStopBits then 2#8 else 1]
        ++ beBytes 2 c.openDelay ++ beBytes 2 c.window ++ beBytes 2 c.timeout
        ++ [if c.keyActiveHigh then 1#8 else 0#8,
            match s.link.state with | .disabled => 0#8 | .enabled => 1 | .faulted => 2]
        ++ beBytes 1 s.link.queue.length
        ++ beBytes 1 ((List.range 8).filter fun n => decide (s.channel n ≠ none)).length
        ++ [match s.link.tx with | .idle => 0#8 | .sending _ _ => 1, if s.link.stamp = none then 0#8 else 1])
  ∧ (BitRate.r9600.bitsPerSecond = 9600 ∧ BitRate.r19200.bitsPerSecond = 19200
      ∧ BitRate.r38400.bitsPerSecond = 38400 ∧ BitRate.r57600.bitsPerSecond = 57600)
  ∧ (∀ (c : LinkConfig) (b : Byte),
      let ones := ((List.range 8).filter fun k => b.getLsbD k).length
      c.bitsOf (c.sendChar b) =
        [false, b.getLsbD 0, b.getLsbD 1, b.getLsbD 2, b.getLsbD 3, b.getLsbD 4, b.getLsbD 5, b.getLsbD 6, b.getLsbD 7]
        ++ (match c.parity with
            | .without => [] | .even => [decide (ones % 2 = 1)] | .odd => [decide (ones % 2 = 0)])
        ++ (if c.twoStopBits then [true, true] else [true]))
  ∧ (∀ s : State, (s.link.tx = .idle → s.packetOnLine = none)
      ∧ ∀ n k ch, s.link.tx = .sending n k → s.channel n = some ch →
        let body := [14#8, 0x02] ++ beBytes 4 ch.grant.kit.toNat ++ beBytes 2 ch.grant.serial.toNat
          ++ [standingCode (some ch.grant.standing)] ++ beBytes 3 ch.grant.minutes ++ beBytes 2 ch.grant.grace
          ++ [ch.grant.echo]
        let bytes := 0xA7#8 :: (body ++ beBytes 2 (crc body).toNat)
        let c := s.link.config
        s.packetOnLine = some ((bytes.map fun b => c.bitsOf (c.sendChar b)).flatten)
          ∧ (s.packetOnLine.getD []).length =
            18 * (10 + (if c.parity = .without then 0 else 1) + (if c.twoStopBits then 1 else 0)))

/-- LINK ENABLE: NOT_READY, then WRONG_STATE while the input is lost; accepted, the link is ENABLED. LINK DISABLE is
accepted always: an ENABLED link is left at rest with its check-in in service overdue, counters and configuration
kept; a requester that has stopped waiting has count 0, and the check-in turn that may be in progress is kept for its
completion (DESIGN CHOICE, log 31). -/
def Obligations.LinkEnableDisable : Prop :=
  ∀ s : State, s.busy = false →
    exec .linkEnable s = .next (
      if s.port.notReady then s.answered .linkEnable .notReady []
      else if s.time.inputLost then s.answered .linkEnable .wrongState []
      else { s.answered .linkEnable .ok [] with link := { s.link with state := .enabled } })
    ∧ ∃ t, exec .linkDisable s = .next t ∧ t.link.state = .disabled
      ∧ (s.link.state = .enabled → t.link.atRest
          ∧ t.link.inService = s.link.inService.map (fun a => { a with overdue := true }))
      ∧ (s.link.state ≠ .enabled → t.link = { s.link with state := .disabled })
      ∧ t.link.counters = s.link.counters ∧ t.link.config = s.link.config
      ∧ (s.link.state = .enabled → LeavingLeaves s t) ∧ (s.link.state ≠ .enabled → t.engine = s.engine)
      ∧ t = { s.answered .linkDisable .ok [] with link := t.link, engine := t.engine }

/-- READ LINK COUNTERS returns the twelve counters in the order of R135 and changes nothing. CLEAR COUNTERS sets the
twelve link counters, the four bank corrected counts and the directory corrected count to 0 and leaves every other
item as it stands. -/
def Obligations.LinkCounterCommands : Prop :=
  (∀ s : State, s.busy = false →
     let n := s.link.counters
     exec .readLinkCounters s = .next (s.answered .readLinkCounters .ok
       (([n.accepted, n.bad, n.parity, n.queueFull, n.unknown, n.late, n.collided, n.noChannel, n.suppressed, n.sent,
         n.disorder, n.transmitTimeout].map (beBytes 2)).flatten)))
  ∧ (∀ s : State, s.busy = false →
       exec .clearCounters s = .next { s.answered .clearCounters .ok [] with
         link := { s.link with counters := ⟨0, 0, 0, 0, 0, 0, 0, 0, 0, 0, 0, 0⟩ }
         integrity := { s.integrity with dirCorrected := 0 }
         memory := { s.memory with banks := ⟨{ s.memory.banks.b0 with corrected := 0 },
           { s.memory.banks.b1 with corrected := 0 }, { s.memory.banks.b2 with corrected := 0 },
           { s.memory.banks.b3 with corrected := 0 }⟩ } })

/-! ## Bank, integrity and port commands -/

/-- EVACUATE BANK: the four refusals in order; accepted, the bank is EVACUATING with moves made 0, or, when it holds
no live slot, the evacuation completes in the same event with the BANK flag set. CANCEL EVACUATION: NOT_READY, then
WRONG_STATE when no bank is EVACUATING; accepted, the bank is IN_SERVICE again with its records where they stand,
the moves made kept and the BANK flag as it was, the counts of EVACUATION 0, with a check-in turn in progress too
(DESIGN CHOICE, log 31). RETURN BANK: NOT_READY, BAD_VALUE, then WRONG_STATE unless
OUT_OF_SERVICE; accepted, the bank is INITIALISING and nothing else of the records changes. -/
def Obligations.BankCommands : Prop :=
  (∀ (s : State) (bank : Byte), s.busy = false →
     let b := bankIndex bank.toNat
     let refused := fun st => exec (.evacuateBank bank) s = .next (s.answered (.evacuateBank bank) st [])
     let wrong := (s.bank b).state ≠ .inService ∨ (∃ x, (s.bank x).state = .evacuating)
       ∨ ∀ x, x ≠ b → (s.bank x).state ≠ .inService
     let room := s.allocatable - (s.bank b).free
     (s.port.notReady = true → refused .notReady)
     ∧ (s.port.notReady = false → 3 < bank.toNat → refused .badValue)
     ∧ (s.port.notReady = false → bank.toNat ≤ 3 → wrong → refused .wrongState)
     ∧ (s.port.notReady = false → bank.toNat ≤ 3 → ¬wrong → room < s.liveIn b → refused .noRoom)
     ∧ (s.port.notReady = false → bank.toNat ≤ 3 → ¬wrong → s.liveIn b ≤ room →
         ∃ t, exec (.evacuateBank bank) s = .next t ∧ t.engine = { s.engine with movesMade := 0 }
           ∧ (∀ x, x ≠ b → t.bank x = s.bank x)
           ∧ (0 < s.liveIn b → t.bank b = { s.bank b with state := .evacuating } ∧ t.evacuatingBank = some b
               ∧ t.memory.bankFlag = s.memory.bankFlag ∧ t.freeCount = s.freeCount
               ∧ t.memory.bodies = s.memory.bodies)
           ∧ (s.liveIn b = 0 → t.bank b = { s.bank b with state := .outOfService, free := 0 }
               ∧ t.evacuatingBank = none ∧ t.memory.bankFlag = true)
           ∧ t.memory.tags = s.memory.tags ∧ (∀ x, bankIndex x ≠ b → t.body x = s.body x)
           ∧ t = { s.answered (.evacuateBank bank) .ok ([bank] ++ beBytes 2 (s.liveIn b) ++ [(t.bank b).state.code]) with
               memory := t.memory, engine := t.engine }))
  ∧ (∀ s : State, s.busy = false →
       (s.port.notReady = true → exec .cancelEvacuation s = .next (s.answered .cancelEvacuation .notReady []))
       ∧ (s.port.notReady = false → s.evacuatingBank = none →
           exec .cancelEvacuation s = .next (s.answered .cancelEvacuation .wrongState []))
       ∧ ∀ b, s.port.notReady = false → s.evacuatingBank = some b →
           ∃ t, exec .cancelEvacuation s = .next t
             ∧ t.memory = { s.memory with banks := s.memory.banks.set b { s.bank b with state := .inService } }
             ∧ t.freeCount = s.freeCount
             ∧ t.engine = { s.engine with
                 waits := t.engine.waits
                 begun := s.engine.begun.map fun b => { b with waits := b.waits.kept t.waits } }
             ∧ (∀ r, t.engine.waits.get r = if t.waits r then s.engine.waits.get r else 0)
             ∧ t = { s.answered .cancelEvacuation .ok
                 ([BitVec.ofNat 8 b.val] ++ beBytes 2 s.engine.movesMade ++ beBytes 2 (s.liveIn b)) with
               memory := t.memory, engine := t.engine })
  ∧ (∀ (s : State) (bank : Byte), s.busy = false →
       let b := bankIndex bank.toNat
       exec (.returnBank bank) s = .next (
         if s.port.notReady then s.answered (.returnBank bank) .notReady []
         else if 3 < bank.toNat then s.answered (.returnBank bank) .badValue []
         else if (s.bank b).state ≠ .outOfService then s.answered (.returnBank bank) .wrongState []
         else { s.answered (.returnBank bank) .ok [bank, 0x00#8] with
           memory := { s.memory with banks := s.memory.banks.set b { s.bank b with state := .initialising } } }))

/-- READ ERROR REPORT changes nothing; CLEAR ERROR REPORT empties the report and clears both flags, returning them
as they stood, with corrected counts and armed injection as they are. INJECT RECORD and INJECT BUCKET: BAD_VALUE for
a number or a mode outside its list, with the armed injection as it was; accepted, the injection named is armed in
place of any other. The bytes of the report and injection blocks; the items of an empty report and of no armed
injection are 0 (DEDUCED, log 16). -/
def Obligations.IntegrityCommands : Prop :=
  (∀ s : State, s.busy = false →
     exec .readErrorReport s = .next (s.answered .readErrorReport .ok (s.integrity.reportBlock
       ++ beBytes 2 (s.bank 0).corrected ++ beBytes 2 (s.bank 1).corrected ++ beBytes 2 (s.bank 2).corrected
       ++ beBytes 2 (s.bank 3).corrected ++ beBytes 2 s.integrity.dirCorrected ++ s.integrity.injectionBlock))
     ∧ exec .clearErrorReport s = .next { s.answered .clearErrorReport .ok s.integrity.reportBlock with
         integrity := ⟨none, false, false, s.integrity.dirCorrected, s.integrity.armed⟩ })
  ∧ (∀ (s : State) (number : BitVec 16) (mode : Byte), s.busy = false →
       let armed := fun target => { s.integrity with
         armed := some ⟨target, if mode = 1 then InjectMode.single else InjectMode.double⟩ }
       exec (.injectRecord number mode) s = .next (
         if 4095 < number.toNat ∨ (mode ≠ 1 ∧ mode ≠ 2) then s.answered (.injectRecord number mode) .badValue []
         else { s.answered (.injectRecord number mode) .ok [] with integrity := armed (.record number.toNat) })
       ∧ exec (.injectBucket number mode) s = .next (
         if 2047 < number.toNat ∨ (mode ≠ 1 ∧ mode ≠ 2) then s.answered (.injectBucket number mode) .badValue []
         else { s.answered (.injectBucket number mode) .ok [] with integrity := armed (.bucket number.toNat) }))
  ∧ (∀ i : Integrity,
      let flags : Byte := (if i.recordAgain then 1 else 0) + (if i.directoryAgain then 2 else 0)
      i.reportBlock = (match i.report with
        | none => [0#8, 0, 0, 0, 0, 0, 0, 0, 0, 0, 0]
        | some e => [1#8]
          ++ (match e.place with
              | .record slot => [0#8] ++ beBytes 2 slot ++ beBytes 1 (slot % 4)
              | .directory b => [1#8] ++ beBytes 2 b ++ [0xFF#8])
          ++ [match e.metBy with | .checkIn => 0#8 | .command => 1 | .sweep => 2 | .evacuation => 3]
          ++ (match e.minute with | none => [0#8, 0, 0, 0, 0] | some minute => [1#8] ++ beBytes 4 minute)) ++ [flags]
      ∧ i.injectionBlock = (match i.armed with
        | none => [0#8, 0, 0, 0, 0]
        | some a => [1#8]
          ++ (match a.target with
              | .record slot => [0#8] ++ beBytes 2 slot
              | .bucket b => [1#8] ++ beBytes 2 b)
          ++ [match a.mode with | .single => 1#8 | .double => 2]))

/-- IDENTIFY changes nothing and returns vendor, part, revision, start-up cause and 1,024 slots for each bank in use.
READ STATUS returns the 32-byte status block of the state before it and clears the BANK flag; the pending set is that
before the response is formed (DEDUCED, log 15). The bytes of the status block are given. SET ATTENTION: BAD_VALUE for
a mask outside the six sources; accepted, the mask is replaced, the line follows it, and the set reported holds
RESPONSE. -/
def Obligations.PortReports : Prop :=
  (∀ s : State, s.busy = false →
     exec .identify s = .next (s.answered .identify .ok ([0x0A, 0x31, 0x41, 0x00, 0x01, s.port.cause.code]
       ++ beBytes 2 (1024 * ((List.finRange 4).filter fun b =>
           decide ((s.bank b).state = .inService) || decide ((s.bank b).state = .evacuating)).length))))
  ∧ (∀ s : State, s.busy = false →
       let opened := s.openWrite HostCommand.readStatus.message
       exec .readStatus s = .next { s.answered .readStatus .ok opened.statusBlock with
           memory := { s.memory with bankFlag := false } }
         ∧ opened.statusBlock.length = 32)
  ∧ (∀ (s : State) (mask : Byte), s.busy = false →
       (63 < mask.toNat → exec (.setAttention mask) s = .next (s.answered (.setAttention mask) .badValue []))
       ∧ (mask.toNat ≤ 63 → ∃ t, exec (.setAttention mask) s = .next t
           ∧ t.port.mask = mask.truncate 6
           ∧ t.sources.getLsbD 0 = true ∧ t.port.resp = responseBytes 0x52 .ok [mask, t.sources.zeroExtend 8]
           ∧ t.attention = decide (mask.truncate 6 &&& t.sources ≠ 0)
           ∧ t = { s.answered (.setAttention mask) .ok [mask, t.sources.zeroExtend 8] with
               port := { (s.answered (.setAttention mask) .ok [mask, t.sources.zeroExtend 8]).port with
                 mask := mask.truncate 6 } }))
  ∧ (∀ s : State, Memory.wf s → (∀ b, 2048 ≤ b → (s.bucket b).state = .normal) →
      let e := s.engine
      let rebuilding := (List.range 2048).filter fun b => decide ((s.bucket b).state ≠ .normal)
      let state := fun b : Fin 4 => match (s.bank b).state with
        | .initialising => 0x00#8 | .inService => 0x01 | .evacuating => 0x02 | .outOfService => 0x03
      s.statusBlock = beBytes 2 e.enrolled ++ beBytes 2 e.running ++ beBytes 2 e.suspended ++ beBytes 2 e.owned
        ++ beBytes 2 ((s.bank 0).free + (s.bank 1).free + (s.bank 2).free + (s.bank 3).free)
        ++ beBytes 2 e.damaged ++ beBytes 2 e.marked ++ [state 0, state 1, state 2, state 3]
        ++ (match (List.finRange 4).find? fun b => decide ((s.bank b).state = .evacuating) with
            | none => [0xFF#8] | some b => beBytes 1 b.val)
        ++ beBytes 2 e.movesMade ++ beBytes 2 rebuilding.length
        ++ (match rebuilding.head? with | none => [0xFF#8, 0xFF] | some b => beBytes 2 b)
        ++ [if s.time.clock = .running then 1#8 else 0#8, if s.time.inputLost then 1#8 else 0#8,
            match s.link.state with | .disabled => 0#8 | .enabled => 1 | .faulted => 2]
        ++ beBytes 2 s.sweep.pass.toNat ++ beBytes 1 s.port.mask.toNat ++ beBytes 1 s.sources.toNat)

/-- RESTART, written to a port that is not BUSY or by a write that collides, returns the part to a quiet state block
by block and keeps records, directory, classes, time unit, integrity report, counters and moves made. No check-in turn
is then in progress (DESIGN CHOICE, log 31); the acknowledgements of the write stand in a field of the model's own (log
18). -/
def Obligations.Restart : Prop :=
  ∀ s : State, ∃ t, exec .restart s = .next t
    ∧ t.link.state = .disabled ∧ t.link.inService = none ∧ t.link.config = s.link.config
    ∧ t.link.counters = s.link.counters ∧ (s.link.state = .enabled → t.link.atRest)
    ∧ t.engine = { s.engine with
        waits := ⟨0, 0, 0, 0⟩, consecutive := 0, held := none, commandSearch := none
        checkInSearch := none, fetchCursor := 0, begun := none }
    ∧ t.sweep = { s.sweep with position := 0, credits := 0 }
    ∧ (∀ b, t.bank b = if (s.bank b).state = .evacuating then { s.bank b with state := .inService } else s.bank b)
    ∧ t.memory.bodies = s.memory.bodies ∧ t.memory.tags = s.memory.tags ∧ t.memory.bankFlag = s.memory.bankFlag
    ∧ t.port = { s.port with
        rx := [], collision := false, overrun := false, responseReady := true, resp := responseBytes 0x54 .ok []
        acks := [true, true, true, true] }
    ∧ t.time = s.time ∧ t.tariff = s.tariff ∧ t.dir = s.dir ∧ t.integrity = s.integrity
    ∧ t.hostRead = s.hostRead ∧ t.pending = s.pending

/-! ## Transactions of the station port -/

/-- A record command's row, with the port not BUSY: NOT_READY, then BAD_VALUE, is answered at once; otherwise the
command is handed to the record engine, BUSY shows, and nothing else has changed. BAD_VALUE is for a parameter outside
its range, or a RESTORE image for which a row of R92's table holds. -/
def Obligations.RecordCommandsAreHandedOver : Prop :=
  (∀ (s : State) (i : Instr) (c : RecordCommand), s.busy = false → hostCommandOf i = some (.record c) →
    exec i s = .next (
      if s.port.notReady then s.answered (.record c) .notReady []
      else if c.badValue then s.answered (.record c) .badValue []
      else { s.openWrite (HostCommand.record c).message with
        engine := { s.engine with held := some c, commandSearch := none } }))
  ∧ ∀ c : RecordCommand, c.badValue = true ↔ c.OutOfRange

/-- Writing the message of a command to the part's own address, in a transaction of either kind, is the command's
row: every parameter of every command survives its encoding. That a command's row is the write of its message (DESIGN
CHOICE, log 6), that either kind of transaction takes the course BUSY decides (DESIGN CHOICE, log 7) and that the row
writes to the part's own address (DEDUCED, log 28) is the model's reading. -/
def Obligations.MessageIsCommand : Prop :=
  ∀ (s : State) (i : Instr) (c : HostCommand), hostCommandOf i = some c →
    exec (.messageWrite s.address c.message) s = exec i s
      ∧ exec (.collidingWrite s.address c.message) s = exec i s

/-- MESSAGE_WRITE of a command's message to the part's own address, with the port not BUSY, is taken: the command is
executed and its response formed, or a record command held. A message followed by further bytes is taken with OVERRUN
set. MESSAGE_WRITE to another address, or with no data byte, changes nothing but what the port drives on the bus: it
acknowledges its own address and every byte written to it, those it discards too, and not another address (the field
that holds this is the model's own, log 18). With the port not BUSY, more than 64
bytes are discarded with OVERRUN and no response, a malformed message is answered BAD_MESSAGE with its second byte, or
00h, echoed, an unknown code UNKNOWN_COMMAND, and a known code of the wrong length BAD_MESSAGE. COLLIDING_WRITE while
BUSY: exactly one RESTART message is taken as RESTART, and anything else is discarded with COLLISION set, buffers and
command in progress as they were; that BUSY and not the row decides is DESIGN CHOICE, log 7. -/
def Obligations.WriteTransactions : Prop :=
  (∀ (s : State) (address : BitVec 7) (bytes : List Byte),
     let acks := List.replicate (bytes.length + 1) true
     (address ≠ s.address → exec (.messageWrite address bytes) s = .next { s with port := { s.port with acks := [] } })
     ∧ (address = s.address → bytes = [] →
         exec (.messageWrite address bytes) s = .next { s with port := { s.port with acks := [true] } })
     ∧ exec (.collidingWrite address bytes) s = exec (.messageWrite address bytes) s
     ∧ (address = s.address → s.busy = false → 64 < bytes.length →
         exec (.messageWrite address bytes) s = .next { s with
           port := { s.port with rx := [], resp := [], responseReady := false, overrun := true, acks := acks } })
     ∧ (address = s.address → s.busy = false → 1 ≤ bytes.length → bytes.length ≤ 64 →
         let len := (bytes.headD 0).toNat
         len < 2 ∨ 63 < len ∨ bytes.length < len + 1 ∨ ((bytes.take (len + 1)).map BitVec.toNat).sum % 256 ≠ 0 →
         exec (.messageWrite address bytes) s = .next ((s.openWrite bytes).respond (bytes.getD 1 0) .badMessage []))
     ∧ (s.openWrite bytes).port.acks = acks)
  ∧ (∀ (s : State) (bytes : List Byte), s.busy = true → bytes ≠ [] →
       exec (.collidingWrite s.address bytes) s =
         if bytes = [0x02, 0x54, 0xAA] then exec .restart s
         else .next { s with port := { s.port with
           collision := true, acks := List.replicate (bytes.length + 1) true } })
  ∧ (∀ (s : State) (i : Instr) (c : HostCommand) (more : List Byte), hostCommandOf i = some c → s.busy = false →
       (c.message ++ more).length ≤ 64 →
       let noted := if more = [] then s else { s with port := { s.port with overrun := true } }
       ∃ t, exec (.messageWrite s.address (c.message ++ more)) s = .next t
         ∧ exec i noted = .next { t with port := { t.port with acks := List.replicate (c.message.length + 1) true } }
         ∧ t.port.acks = List.replicate (c.message.length + more.length + 1) true
         ∧ (c ≠ .restart → t.port.rx = c.message)
         ∧ ((∃ rc, c = .record rc ∧ s.port.notReady = false ∧ rc.badValue = false ∧ t.engine.held = some rc
               ∧ t.port.responseReady = false)
             ∨ t.busy = false ∧ t.port.responseReady = true ∧ t.port.resp.getD 1 0 = c.code))
  ∧ (∀ (s : State) (code : Byte) (params : List Byte), s.busy = false → params.length ≤ 61 →
       let bytes := frame (code :: params)
       (commandLength code.toNat = none → exec (.messageWrite s.address bytes) s =
           .next ((s.openWrite bytes).respond code .unknownCommand []))
       ∧ ∀ n, commandLength code.toNat = some n → params.length ≠ n → exec (.messageWrite s.address bytes) s =
           .next ((s.openWrite bytes).respond code .badMessage []))

/-- STATUS_READ returns the status byte, then the response when RESPONSE_READY shows, then 00h; it clears COLLISION
and OVERRUN, and RESPONSE_READY with the response buffer only when the check byte has been sent. The port acknowledges
its own address and no other; a read of no byte changes nothing else (DEDUCED, log 30). The bits of the
status byte and of the pending sources, and when the attention line is asserted. -/
def Obligations.StatusRead : Prop :=
  (∀ s : State,
     let b := s.statusByte
     b.getLsbD 0 = s.port.responseReady ∧ b.getLsbD 1 = s.engine.held.isSome ∧ b.getLsbD 2 = s.port.collision
       ∧ b.getLsbD 3 = s.port.overrun ∧ b.getLsbD 4 = s.attention ∧ b.getLsbD 5 = s.port.notReady ∧ b.toNat < 64
       ∧ s.sources.getLsbD 0 = s.port.responseReady ∧ s.sources.getLsbD 1 = decide (0 < s.engine.marked)
       ∧ s.sources.getLsbD 2 = s.integrity.report.isSome
       ∧ s.sources.getLsbD 3 = (decide (s.time.clock = .unset) || s.time.inputLost)
       ∧ s.sources.getLsbD 4 = decide (s.link.state = .faulted) ∧ s.sources.getLsbD 5 = s.memory.bankFlag
       ∧ (s.attention = true ↔ ∃ k, k < 6 ∧ s.port.mask.getLsbD k = true ∧ s.sources.getLsbD k = true))
  ∧ (∀ (s : State) (address : BitVec 7) (n : Nat),
    (address ≠ s.address → exec (.statusRead address n) s = .next { s with port := { s.port with acks := [] } })
    ∧ exec (.statusRead s.address 0) s = .next { s with port := { s.port with acks := [true] } })
  ∧ ∀ (s : State) (n : Nat),
    let offered := if s.port.responseReady then s.port.resp else []
    let toEnd := s.port.responseReady = true ∧ s.port.resp.length ≤ n
    ∃ t, exec (.statusRead s.address (n + 1)) s = .next t
      ∧ t.hostRead.length = n + 1 ∧ t.hostRead.head? = some s.statusByte
      ∧ (∀ k, k < n → t.hostRead.getD (k + 1) 0 = offered.getD k 0)
      ∧ (toEnd → t.port = { s.port with
          collision := false, overrun := false, responseReady := false, resp := [], acks := [true] })
      ∧ (¬toEnd → t.port = { s.port with collision := false, overrun := false, acks := [true] })
      ∧ t = { s with hostRead := t.hostRead, port := t.port }

/-! ## Reception -/

/-- A good check-in packet at an ENABLED link in HUNT with a stamp held takes the stamp: it is placed in the arrival
queue, or, when the queue holds 16, discarded with the queue-full counter. A packet whose length byte is 0 or above
32, whose CRC does not match its length and payload, whose kind is not 01h, whose length is not 12, whose kit id is 0
or FFFFFFFFh, or that meets no stamp, is discarded as bad with the stamp. -/
def Obligations.KitPackets : Prop :=
  (∀ (s : State) (c : CheckIn) (stamp : Stamp), s.link.state = .enabled → s.link.parser = .hunt →
     s.link.stamp = some stamp → c.kit ≠ 0 → c.kit ≠ 0xFFFFFFFF#32 →
     let payload := [0x01#8] ++ beBytes 4 c.kit.toNat ++ [c.serial] ++ beBytes 2 c.acknowledged.toNat
       ++ beBytes 3 c.remaining.toNat ++ [c.flags]
     exec (.kitPacket ((packet payload).map s.link.config.sendChar)) s = .next (
       if s.link.queue.length < 16 then
         { s with link := { s.link with
             stamp := none, queue := s.link.queue ++ [⟨c, stamp, false⟩]
             counters := { s.link.counters with accepted := min (s.link.counters.accepted + 1) 65535 } } }
       else { s with link := { s.link with
           stamp := none
           counters := { s.link.counters with queueFull := min (s.link.counters.queueFull + 1) 65535 } } }))
  ∧ (∀ (s : State) (payload : List Byte) (received : BitVec 16), s.link.state = .enabled → s.link.parser = .hunt →
       1 ≤ payload.length → payload.length ≤ 32 →
       let body := BitVec.ofNat 8 payload.length :: payload
       received ≠ crc body ∨ s.link.stamp = none ∨ payload.headD 0 ≠ 0x01 ∨ payload.length ≠ 12
         ∨ (payload.drop 1).take 4 = [0, 0, 0, 0] ∨ (payload.drop 1).take 4 = [0xFF, 0xFF, 0xFF, 0xFF] →
       exec (.kitPacket ((0xA7#8 :: (body ++ beBytes 2 received.toNat)).map s.link.config.sendChar)) s = .next { s with
         link := { s.link with
           stamp := none
           counters := { s.link.counters with bad := min (s.link.counters.bad + 1) 65535 } } })
  ∧ (∀ (s : State) (length : Byte), s.link.state = .enabled → s.link.parser = .hunt →
       length = 0 ∨ 32 < length.toNat →
       exec (.kitPacket ([0xA7#8, length].map s.link.config.sendChar)) s = .next { s with link := { s.link with
         stamp := none
         counters := { s.link.counters with bad := min (s.link.counters.bad + 1) 65535 } } })

/-- A character error at an ENABLED link raises the parity counter; outside HUNT it discards the packet in progress
and the stamp held; a character whose first stop bit or parity bit is wrong is one. A frame-end strobe at an ENABLED
link captures the link timer; with a stamp held, the parser returns to HUNT and the disorder counter rises. A
transmit-done strobe ends the send, and the transmitter takes the READY channel with the smallest remaining count to
its latest start, the lowest number where two share it, the other channels staying; or it counts as disorder when the
transmitter is IDLE. A link that is not ENABLED ignores characters, character errors and both strobes. -/
def Obligations.LinkStrobesAndErrors : Prop :=
  (∀ s : State, s.link.state = .enabled →
     exec .kitCharacterError s = .next { s with link := { s.link with
       counters := { s.link.counters with parity := min (s.link.counters.parity + 1) 65535 }
       parser := .hunt
       stamp := if s.link.parser = .hunt then s.link.stamp else none } }
     ∧ ∀ ch : LineChar, let ones := ((List.range 8).filter fun k => ch.data.getLsbD k).length
         ch.stopLevel = false ∨ (s.link.config.parity = .even ∧ ch.parityBit ≠ decide (ones % 2 = 1))
           ∨ (s.link.config.parity = .odd ∧ ch.parityBit ≠ decide (ones % 2 = 0)) →
         exec (.kitPacket [ch]) s = exec .kitCharacterError s)
  ∧ (∀ s : State, s.link.state = .enabled →
       exec .frameEndStrobe s = .next { s with link := { s.link with
         stamp := some s.time.timer
         parser := if s.link.stamp = none then s.link.parser else .hunt
         counters := if s.link.stamp = none then s.link.counters else
           { s.link.counters with disorder := min (s.link.counters.disorder + 1) 65535 } } }
       ∧ (s.link.tx = .idle → exec .transmitDoneStrobe s = .next { s with link := { s.link with
           counters := { s.link.counters with disorder := min (s.link.counters.disorder + 1) 65535 } } })
       ∧ ∀ n k, s.link.tx = .sending n k → Memory.wf s →
           ∃ t, exec .transmitDoneStrobe s = .next t ∧ t.channel n = none
             ∧ t.link.counters = { s.link.counters with sent := min (s.link.counters.sent + 1) 65535 }
             ∧ ((∀ c, c < 8 → c ≠ n → ∀ ch, s.channel c = some ch → ch.phase ≠ .ready) → t.link.tx = .idle
                 ∧ ∀ c, c ≠ n → t.channel c = s.channel c)
             ∧ (∀ c ch, c < 8 → c ≠ n → s.channel c = some ch → ch.phase = .ready →
                 ∃ m, t.link.tx = .sending m s.time.timer)
             ∧ Sends (fun c => if c = n then none else s.channel c) s.time.timer t
             ∧ t = { s with
                 link := { s.link with channels := t.link.channels, tx := t.link.tx, counters := t.link.counters } })
  ∧ (∀ (s : State) (chars : List LineChar), s.link.state ≠ .enabled →
       exec (.kitPacket chars) s = .next s ∧ exec .kitCharacterError s = .next s
         ∧ exec .frameEndStrobe s = .next s ∧ exec .transmitDoneStrobe s = .next s)

/-! ## The arbiter -/

/-- The next turn goes to the aged requester with the highest waiting count, the first in the order CHECK-IN,
COMMAND, EVACUATION, SWEEP where several share it; then to CHECK-IN while its run is below 4; then to the first
waiting of COMMAND, EVACUATION, SWEEP; then to CHECK-IN; and to none when none waits. -/
def Obligations.ArbiterChoice : Prop :=
  ∀ s : State,
    let order := [Requester.checkIn, .command, .evacuation, .sweep]
    let aged := order.filter fun r => s.waits r && decide (16 ≤ s.engine.waits.get r)
    (∀ r, s.arbiter = some r → s.waits r = true)
    ∧ (s.arbiter = none ↔ ∀ r, s.waits r = false)
    ∧ (aged ≠ [] → ∃ r, s.arbiter = some r
        ∧ aged.find? (fun x => aged.all fun y => decide (s.engine.waits.get y ≤ s.engine.waits.get x)) = some r)
    ∧ (aged = [] → s.waits .checkIn = true → s.engine.consecutive < 4 → s.arbiter = some .checkIn)
    ∧ (aged = [] → ¬(s.waits .checkIn = true ∧ s.engine.consecutive < 4) →
        s.arbiter = ([Requester.command, .evacuation, .sweep, .checkIn].find? s.waits))

/-- When each requester waits. At the grant of a turn the waiting counts rise for the waiting requesters not granted,
stop at 255, and are 0 for the one granted; the consecutive check-in count follows R77. At the end of a turn granted,
a requester that then waits has the count its grant left, and one that has stopped waiting has 0; no check-in turn was
in progress as the link left ENABLED (DESIGN CHOICE, log 31). (What leaving ENABLED
and CANCEL EVACUATION make of the counts stands with those events.) -/
def Obligations.WaitingCounts : Prop :=
  (∀ (s : State) (g r : Requester),
    ((s.grant g).engine.waits.get r =
      if r = g then 0 else if s.waits r then min (s.engine.waits.get r + 1) 255 else s.engine.waits.get r)
    ∧ ((s.grant g).engine.consecutive =
      if g = .checkIn ∧ (s.waits .command ∨ s.waits .evacuation ∨ s.waits .sweep) then
        min (s.engine.consecutive + 1) 4 else 0)
    ∧ s.grant g = { s with engine := { s.engine with
        waits := (s.grant g).engine.waits, consecutive := (s.grant g).engine.consecutive } })
  ∧ (∀ s : State,
    (s.waits .checkIn = true ↔ s.port.notReady = false ∧ (s.link.queue ≠ [] ∨ s.engine.checkInSearch ≠ none))
    ∧ (s.waits .command = true ↔ s.port.notReady = false ∧ s.engine.held ≠ none)
    ∧ (s.waits .evacuation = true ↔ s.port.notReady = false ∧ ∃ b, s.evacuatingBank = some b ∧ 0 < s.liveIn b)
    ∧ (s.waits .sweep = true ↔ s.port.notReady = false ∧ 0 < s.sweep.credits))
  ∧ (∀ (s : State) (i : Instr) (g : Requester), IsTurnOf s i g →
    ∃ t, exec i s = .next t
      ∧ (∀ r, t.engine.waits.get r = if t.waits r then (s.grant g).engine.waits.get r else 0)
      ∧ t.engine.consecutive = (s.grant g).engine.consecutive ∧ t.engine.begun = none)

/-- A row that is a turn of the record engine leaves its surroundings as they are, whatever it does: time unit,
tariff table, link configuration, state, parser and stamp holder, the port but for its response, the sweep rate. -/
def Obligations.TurnsKeepSurroundings : Prop :=
  ∀ (s : State) (i : Instr),
    i = .commandTurn ∨ i = .searchStep ∨ i = .usingTurn ∨ i = .checkInTurn ∨ i = .sweepVisit ∨ i = .evacuationMove →
    ∃ t, exec i s = .next t ∧ KeepsSurroundings s t

/-! ## The turns that carry out record commands -/

/-- The command turn of TOP UP on an undamaged slot found by its lookup: WRONG_LIFECYCLE, CLASS_CLOSED, CREDIT_FULL,
or the result of the top-up computation written whole with its figures returned. The command turn of ADJUST on an
undamaged slot found by its lookup: WRONG_LIFECYCLE, CREDIT_FULL for positive minutes, or the result of the
computation written whole with its figures returned. The 31 bytes of the credit result. -/
def Obligations.TopUpAndAdjustTurns : Prop :=
  (∀ (s : State) (kit : KitId) (amount : BitVec 24) (slot : Nat) (r : Record) (now : Nat),
     s.commandTurnFor (.topUp kit amount) → s.now = some now → s.finds kit slot r →
     let tag := s.tag slot
     let c := s.tariffClass r.cls
     let home := some (homeBucket kit)
     ∃ t, exec .commandTurn s = .next t ∧
       if tag.lifecycle = .owned then CommandLeaves s t slot tag r .read home 0x11 .wrongLifecycle []
       else if c.price = 0 then CommandLeaves s t slot tag r .read home 0x11 .classClosed []
       else match topUp ⟨tag.lifecycle, r⟩ c amount.toNat now with
         | none => CommandLeaves s t slot tag r .read home 0x11 .creditFull []
         | some res => CommandLeaves s t slot { tag with lifecycle := res.account.lc, marked := true } res.account.r
             .written home 0x11 .ok (creditBytes res (res.account.standing c.grace now)))
  ∧ (∀ (s : State) (kit : KitId) (minutes : BitVec 24) (slot : Nat) (r : Record) (now : Nat),
       s.commandTurnFor (.adjust kit minutes) → s.now = some now → s.finds kit slot r →
       let tag := s.tag slot
       let c := s.tariffClass r.cls
       let m := minutes.toInt
       let home := some (homeBucket kit)
       ∃ t, exec .commandTurn s = .next t ∧
         if tag.lifecycle = .owned then CommandLeaves s t slot tag r .read home 0x12 .wrongLifecycle []
         else match (if 0 < m then adjustUp ⟨tag.lifecycle, r⟩ c m.natAbs now
             else some (adjustDown ⟨tag.lifecycle, r⟩ c m.natAbs now)) with
           | none => CommandLeaves s t slot tag r .read home 0x12 .creditFull []
           | some res => CommandLeaves s t slot { tag with lifecycle := res.account.lc, marked := true } res.account.r
               .written home 0x12 .ok (creditBytes res (res.account.standing c.grace now)))
  ∧ (∀ (res : CreditResult) (st : Option Standing),
       let r := res.account.r
       creditBytes res st = beBytes 3 res.applied ++ beBytes 3 (res.toReserve % 16777216).toNat
         ++ beBytes 3 res.unapplied ++ beBytes 4 r.expiry
         ++ (match res.account.lc, r.frozen with | .suspended, some f => beBytes 3 f | _, _ => [0#8, 0, 0])
         ++ beBytes 3 r.reserve ++ beBytes 4 r.outstanding ++ beBytes 3 res.surplus ++ beBytes 4 r.paidTotal
         ++ [match st with
             | none => 0x00#8
             | some .fresh => 0x01
             | some .credit => 0x02
             | some .grace => 0x03
             | some .locked => 0x04
             | some .barred => 0x05
             | some .owned => 0x06
             | some .keep => 0x07]
         ∧ (creditBytes res st).length = 31)

/-- The command turns of SUSPEND and RESUME on an undamaged slot found by their lookup: WRONG_LIFECYCLE, or the
freeze or the re-basing written whole with its figures returned. -/
def Obligations.SuspendResumeTurns : Prop :=
  ∀ (s : State) (kit : KitId) (slot : Nat) (r : Record) (now : Nat), s.now = some now → s.finds kit slot r →
    let tag := s.tag slot
    let c := s.tariffClass r.cls
    let home := some (homeBucket kit)
    let a := suspendAccount ⟨tag.lifecycle, r⟩ c now
    let b := resumeAccount ⟨tag.lifecycle, r⟩ c now
    (s.commandTurnFor (.suspend kit) → ∃ t, exec .commandTurn s = .next t ∧
      if tag.lifecycle ≠ .enrolled ∧ tag.lifecycle ≠ .running then
        CommandLeaves s t slot tag r .read home 0x13 .wrongLifecycle []
      else CommandLeaves s t slot { tag with lifecycle := .suspended, marked := true } a.r .written home 0x13 .ok
        (beBytes 3 (a.r.frozen.getD 0) ++ [tag.lifecycle.code] ++ beBytes 3 a.r.reserve ++ [0x05#8]))
    ∧ (s.commandTurnFor (.resume kit) → ∃ t, exec .commandTurn s = .next t ∧
      if tag.lifecycle ≠ .suspended then CommandLeaves s t slot tag r .read home 0x14 .wrongLifecycle []
      else CommandLeaves s t slot { tag with lifecycle := b.lc, marked := true } b.r .written home 0x14 .ok
        ([b.lc.code] ++ beBytes 4 b.r.expiry ++ beBytes 3 b.r.reserve ++ [standingCode (b.standing c.grace now)]))

/-- The command turn of CHANGE CLASS on an undamaged slot found by its lookup, in either clock state:
WRONG_LIFECYCLE, CLASS_CLOSED, or the class alone replaced with CHANGED set. The turn of READ RECORD on the slot
found, DAMAGED or not, returns the image and changes nothing of the record. The 47 bytes of a record image. -/
def Obligations.ChangeClassAndReadTurns : Prop :=
  (∀ (s : State) (kit : KitId) (cls : Byte) (slot : Nat) (r : Record), s.locates kit slot → s.gives slot r →
    let tag := s.tag slot
    let home := some (homeBucket kit)
    let r' := { r with cls := cls.toNat, marks := { r.marks with changed := true } }
    (s.commandTurnFor (.changeClass kit cls) → tag.damaged = false → ∃ t, exec .commandTurn s = .next t ∧
      if tag.lifecycle = .owned then CommandLeaves s t slot tag r .read home 0x15 .wrongLifecycle []
      else if (s.tariffClass cls.toNat).price = 0 then CommandLeaves s t slot tag r .read home 0x15 .classClosed []
      else CommandLeaves s t slot { tag with marked := true } r' .written home 0x15 .ok
        [cls, standingCode (standingOf false tag.lifecycle r' (s.tariffClass cls.toNat).grace s.now)])
    ∧ (s.commandTurnFor (.readRecord kit) → ∃ t, exec .commandTurn s = .next t ∧
      CommandLeaves s t slot tag r .read home 0x19 .ok (imageBytes (recordImage slot tag r
        (standingOf tag.damaged tag.lifecycle r (s.tariffClass r.cls).grace s.now)))))
  ∧ (∀ (slot : Nat) (tag : Tag) (r : Record) (st : Option Standing),
      let lifecycle := fun lc : Lifecycle => match lc with
        | .free => 0x00#8 | .enrolled => 0x01 | .running => 0x02 | .suspended => 0x03 | .owned => 0x04
      let flags := fun l : List Bool => beBytes 1 ((l.zipIdx.map fun e => if e.1 then 2 ^ e.2 else 0).sum)
      let place : Nat × Nat := match tag.location with
        | .nowhere => (0, 0) | .way b w => (1, b * 4 + w.val) | .spill i => (2, i)
      imageBytes (recordImage slot tag r st) = beBytes 2 slot ++ [lifecycle tag.lifecycle]
        ++ beBytes 1 ((if tag.damaged then 128 else 0) + place.1) ++ beBytes 2 place.2 ++ beBytes 4 r.kit.toNat
        ++ beBytes 1 r.cls
        ++ flags [r.awaiting.isSome, r.lastCheckIn.isSome, r.frozen.isSome, r.prior.isSome, r.lapseNoted, r.silenceNoted]
        ++ flags [r.marks.changed, r.marks.delivered, r.marks.lapsed, r.marks.silent, r.marks.tamper, r.marks.drift]
        ++ beBytes 4 r.expiry ++ beBytes 3 r.reserve ++ beBytes 2 r.residue ++ beBytes 4 r.outstanding
        ++ beBytes 4 r.paidTotal ++ beBytes 2 r.issued.toNat ++ beBytes 2 r.acknowledged.toNat
        ++ (match r.awaiting with | none => [0#8, 0] | some x => beBytes 2 x.toNat)
        ++ (match r.lastCheckIn with | none => [0#8, 0, 0, 0] | some m => beBytes 4 m)
        ++ beBytes 2 (r.drift % 65536).toNat
        ++ (match r.frozen with | none => [0#8, 0, 0] | some f => beBytes 3 f)
        ++ [match r.prior with | none => 0x00#8 | some lc => lifecycle lc]
        ++ [match st with
            | none => 0x00#8
            | some .fresh => 0x01
            | some .credit => 0x02
            | some .grace => 0x03
            | some .locked => 0x04
            | some .barred => 0x05
            | some .owned => 0x06
            | some .keep => 0x07]
        ∧ (imageBytes (recordImage slot tag r st)).length = 47)

/-- What a lookup finds (R64): the slot that the way of the home bucket holding the kit names; with no such way, the slot
that the spill entry with that home bucket and kit names; with neither, the kit is absent in a NORMAL bucket, and a
REBUILDING bucket cannot be trusted. (No two ways, and no two spill entries of one home bucket, hold one kit, R59 and
R60.) A way that a read corrects reads as it was written, any other as it lies stored, and a bucket is uncorrectable when
one of its ways is (R147). A command that names a kit, on a found slot already DAMAGED: TOP UP, ADJUST, SUSPEND, RESUME and CHANGE CLASS
are refused with RECORD_DAMAGED and change nothing of the record. A command that names a kit, when its lookup does
not find it: NOT_FOUND in a NORMAL bucket, and in a REBUILDING bucket a full search from slot 0 with the command
still held; the lookup has written back the corrected ways of the bucket and counted them. The commands that need the station minute are refused with CLOCK_UNSET by their command turn while the
clock is UNSET, before any lookup. -/
def Obligations.CommandTurnRefusals : Prop :=
  (∀ (s : State) (kit : KitId) (slot : Nat) (c : RecordCommand), (c.needsMinute = true → s.now ≠ none) →
     (∃ a, c = .topUp kit a) ∨ (∃ m, c = .adjust kit m) ∨ c = .suspend kit ∨ c = .resume kit
       ∨ (∃ k, c = .changeClass kit k) →
     s.commandTurnFor c → (s.bucket (homeBucket kit)).broken = false →
     s.lookupEnd (s.bucket (homeBucket kit)).values kit = .found slot →
     (s.tag slot).lifecycle ≠ .free → (s.tag slot).damaged = true →
     ∃ t, exec .commandTurn s = .next t ∧ CommandLeaves s t slot (s.tag slot) (s.body slot).stored .read
       (some (homeBucket kit)) c.code .recordDamaged [])
  ∧ (∀ (s : State) (kit : KitId) (c : RecordCommand), (c.needsMinute = true → s.now ≠ none) → c.seeks = some kit →
       s.commandTurnFor c → (s.bucket (homeBucket kit)).broken = false →
       (s.lookupEnd (s.bucket (homeBucket kit)).values kit = .absent → ∃ t, exec .commandTurn s = .next t
         ∧ LookupLeaves s t (some (homeBucket kit)) ∧ t.link = s.link ∧ t.finishedWith c.code .notFound []
         ∧ t.engine.checkInSearch = s.engine.checkInSearch)
       ∧ (s.lookupEnd (s.bucket (homeBucket kit)).values kit = .rebuilding → ∃ t, exec .commandTurn s = .next t
         ∧ LookupLeaves s t (some (homeBucket kit)) ∧ t.link = s.link ∧ t.engine.held = some c
         ∧ t.engine.commandSearch = some ⟨kit, homeBucket kit, 0, none⟩ ∧ t.port = s.port
         ∧ t.engine.checkInSearch = s.engine.checkInSearch))
  ∧ (∀ (s : State) (c : RecordCommand), s.time.clock = .unset → s.commandTurnFor c →
       c.code = 0x10 ∨ c.code = 0x11 ∨ c.code = 0x12 ∨ c.code = 0x13 ∨ c.code = 0x14 ∨ c.code = 0x18 →
       ∃ t, exec .commandTurn s = .next t ∧ LookupLeaves s t none ∧ t.dir = s.dir ∧ t.link = s.link
         ∧ t.finishedWith c.code .clockUnset [] ∧ t.engine.checkInSearch = s.engine.checkInSearch)
  ∧ (∀ (s : State) (kit : KitId) (ways : Four (Option Entry)),
       let home := homeBucket kit
       let inWay := fun (w : Fin 4) (slot : Nat) => ways.get w = some ⟨kit, slot⟩
       let inSpill := fun (i slot : Nat) => i < 32 ∧ s.spillEntry i = some ⟨kit, slot, home⟩
       let unheld := ∀ w slot, ¬inWay w slot
       let unspilled := ∀ i slot, ¬inSpill i slot
       (∀ w slot, inWay w slot → (∀ v x, inWay v x → v = w) → s.lookupEnd ways kit = .found slot)
       ∧ (∀ i slot, unheld → inSpill i slot → (∀ j x, inSpill j x → j = i) → s.lookupEnd ways kit = .found slot)
       ∧ (∀ slot, s.lookupEnd ways kit = .found slot →
           (∃ w, inWay w slot) ∨ unheld ∧ ∃ i, inSpill i slot)
       ∧ (s.lookupEnd ways kit = .absent ↔ unheld ∧ unspilled ∧ (s.bucket home).state = .normal)
       ∧ (s.lookupEnd ways kit = .rebuilding ↔ unheld ∧ unspilled ∧ (s.bucket home).state ≠ .normal)
       ∧ (∀ slot, wayHolding ways kit = some slot → ∃ w, inWay w slot) ∧ (wayHolding ways kit = none ↔ unheld)
       ∧ (∀ slot, s.spillHolding home kit = some slot → ∃ i, inSpill i slot)
       ∧ (s.spillHolding home kit = none ↔ unspilled))
  ∧ (∀ k : Bucket, (∀ w, k.values.get w =
         if (k.ways.get w).check = .single then (k.ways.get w).written else (k.ways.get w).stored)
       ∧ (k.broken = true ↔ ∃ w, (k.ways.get w).check = .double))

/-- The turns of RETIRE, on the slot its lookup finds, and of RETIRE SLOT, on the slot it names, DAMAGED or not, with
or without an evacuation: the retire of the last live slot of the bank being evacuated completes the evacuation. RETIRE
SLOT's refusals WRONG_STATE and NOT_FOUND. That the bodies of a bank powered down read as cleared is the model's choice
(DESIGN CHOICE, log 13). -/
def Obligations.RetireTurns : Prop :=
  ∀ s : State, (∀ b, s.evacuatingBank = some b → 0 < s.liveIn b) →
    (∀ kit slot, s.commandTurnFor (.retire kit) → s.locates kit slot →
      ∃ t, exec .commandTurn s = .next t ∧ Retires s t slot (some (homeBucket kit)) 0x16)
    ∧ ∀ slot : BitVec 16, s.commandTurnFor (.retireSlot slot) →
      let n := slot.toNat
      let inUse := (s.bank (bankIndex n)).inUse
      (inUse = false → ∃ t, exec .commandTurn s = .next t ∧ CommandLeaves s t n (s.tag n) (s.body n).stored
        .untouched none 0x17 .wrongState [])
      ∧ (inUse = true → (s.tag n).lifecycle = .free → ∃ t, exec .commandTurn s = .next t
          ∧ CommandLeaves s t n (s.tag n) (s.body n).stored .untouched none 0x17 .notFound [])
      ∧ (inUse = true → (s.tag n).lifecycle ≠ .free → ∃ t, exec .commandTurn s = .next t ∧ Retires s t n none 0x17)

/-- The turn of READ SLOT: WRONG_STATE for a bank out of use, the all-zero image for a FREE slot, the record's image
for a live one; the record is left as it is. The turn of FETCH MARKED: NOT_FOUND with the cursor where it stands
when no live slot needs the host; otherwise the first one from the cursor is returned with its marks, its marks are
cleared, and the cursor moves past it. The slot taken is the first, from the cursor and wrapping, that is live and
marked or DAMAGED. -/
def Obligations.ReadSlotAndFetchMarkedTurns : Prop :=
  (∀ (s : State) (slot : BitVec 16) (r : Record), s.commandTurnFor (.readSlot slot) →
     let n := slot.toNat
     let tag := s.tag n
     ∃ t, exec .commandTurn s = .next t ∧
       if (s.bank (bankIndex n)).inUse = false then
         CommandLeaves s t n tag (s.body n).stored .untouched none 0x1A .wrongState []
       else if tag.lifecycle = .free then
         CommandLeaves s t n tag (s.body n).stored .untouched none 0x1A .ok (beBytes 2 n ++ List.replicate 45 0)
       else s.gives n r → CommandLeaves s t n tag r .read none 0x1A .ok (imageBytes (recordImage n tag r
         (standingOf tag.damaged tag.lifecycle r (s.tariffClass r.cls).grace s.now))))
  ∧ (∀ (s : State) (r : Record), s.commandTurnFor .fetchMarked →
       (s.nextMarked = none → ∃ t, exec .commandTurn s = .next t ∧ LookupLeaves s t none ∧ t.dir = s.dir
         ∧ t.link = s.link ∧ t.engine.checkInSearch = s.engine.checkInSearch ∧ t.finishedWith 0x1B .notFound [])
       ∧ ∀ slot, s.nextMarked = some slot → s.gives slot r →
         let tag := s.tag slot
         ∃ t, exec .commandTurn s = .next t
           ∧ SlotLeaves s t slot { tag with marked := false }
               { r with marks := ⟨false, false, false, false, false, false⟩ } .written none .command s.now
           ∧ t.link = s.link ∧ t.engine.checkInSearch = s.engine.checkInSearch
           ∧ t.finishedWith 0x1B .ok (imageBytes (recordImage slot tag r
               (standingOf tag.damaged tag.lifecycle r (s.tariffClass r.cls).grace s.now)))
           ∧ t.engine.fetchCursor = (slot + 1) % 4096)
  ∧ (∀ s : State, s.engine.fetchCursor < 4096 →
       let needs := fun x => (s.tag x).lifecycle ≠ .free ∧ ((s.tag x).marked = true ∨ (s.tag x).damaged = true)
       (s.nextMarked = none ↔ ∀ x, x < 4096 → ¬needs x)
       ∧ ∀ slot, s.nextMarked = some slot ↔ FirstFrom s.engine.fetchCursor needs slot)

/-- The turn of ENROL, with its refusals in order: CLASS_CLOSED before any lookup, EXISTS, REBUILDING,
DIRECTORY_FULL, TABLE_FULL. EXISTS leaves the body of the slot found as its read leaves it, a corrected one written back
and counted, an uncorrectable one DAMAGED and reported (of an entry that names a FREE slot no body is read: DESIGN
CHOICE, log 23); the others write no record, no tag and no entry. Accepted, the ENROLLED record with its tag and
directory entry is written and the slot returned. The fields of the new record; the entry's place, the lowest empty way,
else the lowest empty spill entry; and the slot allocated, the first from the allocation pointer and wrapping that is
FREE in a bank IN_SERVICE, with TABLE_FULL when there is none or an evacuation's reservation holds. -/
def Obligations.EnrolTurn : Prop :=
  (∀ (s : State) (kit : KitId) (cls : Byte) (outstanding : BitVec 32) (now : Nat),
    s.commandTurnFor (.enrol kit cls outstanding) → s.now = some now →
    (s.bucket (homeBucket kit)).broken = false →
    let values := (s.bucket (homeBucket kit)).values
    let l := s.lookupEnd values kit
    let loc := s.placeFor (homeBucket kit) values
    let home := some (homeBucket kit)
    let refuses := fun t looked st => LookupLeaves s t looked ∧ t.link = s.link
      ∧ t.engine.checkInSearch = s.engine.checkInSearch ∧ t.finishedWith 0x10 st []
    ∃ t, exec .commandTurn s = .next t ∧
      if (s.tariffClass cls.toNat).price = 0 then refuses t none .classClosed
      else match l with
        | .found slot =>
          if (s.tag slot).lifecycle = .free then refuses t home .kitExists
          else CommandLeaves s t slot (s.tagRead slot) (s.reading slot) .read home 0x10 .kitExists []
        | .rebuilding => refuses t home .rebuilding
        | .absent =>
          if loc = .nowhere then refuses t home .directoryFull
          else match s.allocate with
            | none => refuses t home .tableFull
            | some slot => Places s t loc slot ⟨.enrolled, false, loc, true⟩
                (enrolledRecord kit cls.toNat outstanding.toNat now)
                ∧ t.engine.enrolled = s.engine.enrolled + 1 ∧ t.finishedWith 0x10 .ok (beBytes 2 slot))
  ∧ (∀ (kit : KitId) (cls outstanding now : Nat), enrolledRecord kit cls outstanding now =
      { kit := kit, cls := cls, expiry := now, reserve := 0, residue := 0, outstanding := outstanding, paidTotal := 0
        issued := 0, acknowledged := 0, awaiting := none, lastCheckIn := none, drift := 0, frozen := none
        prior := none, lapseNoted := false, silenceNoted := false
        marks := ⟨true, false, false, false, false, false⟩ })
  ∧ (∀ (s : State) (b : Nat) (ways : Four (Option Entry)),
      (∀ w, ways.get w = none → (∀ v, v < w → ways.get v ≠ none) → s.placeFor b ways = .way b w)
      ∧ ((∀ w, ways.get w ≠ none) → ∀ i, i < 32 → s.spillEntry i = none → (∀ j, j < i → s.spillEntry j ≠ none) →
          s.placeFor b ways = .spill i)
      ∧ ((∀ w, ways.get w ≠ none) → (∀ i, i < 32 → s.spillEntry i ≠ none) → s.placeFor b ways = .nowhere))
  ∧ (∀ s : State, s.engine.allocPtr < 4096 →
      let reserved := ∃ b, s.evacuatingBank = some b ∧ s.allocatable ≤ s.liveIn b
      (s.allocate = none ↔ s.allocatable = 0 ∨ reserved ∨ ∀ x, x < 4096 → ¬s.isOpen x)
      ∧ (∀ slot, s.allocate = some slot ↔
          s.allocatable ≠ 0 ∧ ¬reserved ∧ FirstFrom s.engine.allocPtr s.isOpen slot)
      ∧ s.allocatable = ((List.finRange 4).map fun b =>
          if (s.bank b).state = .inService then (s.bank b).free else 0).sum)

/-- The turn of RESTORE of an image that passed R92: in place on the slot found by its lookup, DAMAGED or not, or in
a new slot, with REBUILDING, DIRECTORY_FULL, TABLE_FULL and last CREDIT_FULL, which write no record, no tag and no entry. The record written holds the image's
items, with the expiry kept within the horizon, the excess joining the reserve of an ENROLLED or RUNNING record, the
issued serial leapt by 1,024 and the awaiting serial armed past it, a last check-in no later than now, CHANGED and both
noted flags clear, and the drift of the slot it replaces, or 0. In place the image's kit id is written (DEDUCED,
log 29). -/
def Obligations.RestoreTurn : Prop :=
  (∀ (s : State) (i : RecordImage) (now : Nat),
    s.commandTurnFor (.restore i) → s.now = some now → badImage i = false →
    (s.bucket (homeBucket i.kit)).broken = false →
    let values := (s.bucket (homeBucket i.kit)).values
    let loc := s.placeFor (homeBucket i.kit) values
    let c := s.tariffClass i.cls.toNat
    let lc := imageLifecycle i
    let home := some (homeBucket i.kit)
    let refuses := fun t st => LookupLeaves s t home ∧ t.link = s.link
      ∧ t.engine.checkInSearch = s.engine.checkInSearch ∧ t.finishedWith 0x18 st []
    ∃ t, exec .commandTurn s = .next t ∧
      match s.lookupEnd values i.kit with
      | .rebuilding => refuses t .rebuilding
      | .absent =>
        let r := restoredRecord i c now 0
        if loc = .nowhere then refuses t .directoryFull
        else match s.allocate with
          | none => refuses t .tableFull
          | some slot =>
            if 1048575 < r.reserve then refuses t .creditFull
            else Places s t loc slot ⟨lc, false, loc, r.marks.any⟩ r
              ∧ t.finishedWith 0x18 .ok (restoreBytes slot true lc r c now)
      | .found slot => (s.tag slot).lifecycle ≠ .free →
        let old := s.reading slot
        let r := restoredRecord i c now old.drift
        let tag := s.tagRead slot
        if 1048575 < r.reserve then CommandLeaves s t slot tag old .read home 0x18 .creditFull []
        else CommandLeaves s t slot ⟨lc, false, tag.location, r.marks.any⟩ r .written home
          0x18 .ok (restoreBytes slot false lc r c now))
  ∧ (∀ (i : RecordImage) (c : TariffClass) (now : Nat) (drift : Int), badImage i = false →
    let has := fun bit => i.presence.getLsbD bit = true
    let marked := fun bit => i.marks.getLsbD bit
    let most := now + c.horizon
    let excess := i.expiry.toNat - most
    (imageLifecycle i).code = i.lifecycle
    ∧ restoredRecord i c now drift =
      { kit := i.kit, cls := i.cls.toNat
        expiry := if i.expiry.toNat ≤ most then i.expiry.toNat else most
        reserve := i.reserve.toNat + (if i.lifecycle = 1 ∨ i.lifecycle = 2 then excess else 0)
        residue := i.residue.toNat, outstanding := i.outstanding.toNat, paidTotal := i.paidTotal.toNat
        issued := i.issued + 1024#16, acknowledged := i.acknowledged
        awaiting := some (i.issued + 1025#16)
        lastCheckIn := if has 1 then some (min i.lastCheckIn.toNat now) else none
        drift := drift
        frozen := if has 2 then some i.frozen.toNat else none
        prior := if has 3 then some (if i.prior = 1 then .enrolled else .running) else none
        lapseNoted := false, silenceNoted := false
        marks := ⟨false, marked 1, marked 2, marked 3, marked 4, marked 5⟩ })
  ∧ (∀ (slot : Nat) (new : Bool) (lc : Lifecycle) (r : Record) (c : TariffClass) (now : Nat),
    restoreBytes slot new lc r c now = beBytes 2 slot ++ [if new then 1#8 else 0] ++ beBytes 4 r.expiry
      ++ beBytes 3 r.reserve ++ beBytes 2 r.issued.toNat
      ++ [standingCode (standingOf false lc r c.grace (some now))])

/-! ## Full searches -/

/-- SEARCH_STEP of the search of a command or of a check-in: up to 64 slots are examined from the search's next slot,
until the body of a live, undamaged slot reads as the kit sought. A slot read corrected is written back and counted;
one found uncorrectable becomes DAMAGED and is reported. A match is held in the search, and re-entered under the home
bucket when its location is none. Without a match the next slot rises by 64, or after slot 4,095 the command is
answered NOT_FOUND, the check-in counted unknown. The other requester's work is as it was, and no check-in turn was in
progress as the link left ENABLED (DESIGN CHOICE, log 31). -/
def Obligations.SearchStep : Prop :=
  ∀ (s : State) (owner : Requester) (se : Search), Memory.wf s → s.arbiter = some owner → se.found = none →
    (owner = .command ∧ s.engine.commandSearch = some se ∧ s.engine.held ≠ none
      ∨ owner = .checkIn ∧ s.engine.checkInSearch = some se) →
    let live := fun x => decide ((s.tag x).lifecycle ≠ .free) && !(s.tag x).damaged
    let isIt := fun x => live x && !s.newlyDamaged x && decide ((s.reading x).kit = se.kit)
    let slots := (List.range 64).map (se.next + ·)
    let hit := slots.find? isIt
    let read := slots.filter fun x => live x && hit.all fun h => decide (x ≤ h)
    let damaged := read.filter fun x => s.newlyDamaged x
    let enters := hit.any fun x => decide ((s.tag x).location = .nowhere)
    let wiped := if enters then s.wipedBy se.home else none
    let next := { se with next := se.next + 64 }
    let goesOn := fun t : State => t.engine.held = s.engine.held ∧ t.port = s.port ∧ t.link = s.link
    ∃ t, exec .searchStep s = .next t ∧ KeepsSurroundings s t ∧ t.sweep = s.sweep
      ∧ (∀ x, t.body x = if x ∈ read then s.bodyLeft x .read (s.reading x) else s.body x)
      ∧ (∀ x, t.tag x = { (s.tag x).without wiped with
          damaged := (s.tag x).damaged || decide (x ∈ damaged)
          location := if hit = some x then (t.tag x).location else ((s.tag x).without wiped).location })
      ∧ (∀ b,
          let singles := (read.filter fun x => decide (bankIndex x = b ∧ (s.body x).check = .single)).length
          t.bank b = { s.bank b with corrected :=
            if singles = 0 then (s.bank b).corrected else min ((s.bank b).corrected + singles) 65535 })
      ∧ t.memory.bankFlag = s.memory.bankFlag
      ∧ FeedsErrors s t (damaged.map .record ++ (wiped.map .directory).toList) owner s.now
      ∧ t.integrity.armed = s.armedLeft (read.filter s.corrects) (if enters then s.entryWrites se.home else [])
      ∧ (enters = false → t.integrity.dirCorrected = s.integrity.dirCorrected)
      ∧ t.engine = { s.engine with
          waits := t.engine.waits, consecutive := t.engine.consecutive, begun := none
          damaged := s.engine.damaged + damaged.length, held := t.engine.held
          commandSearch := t.engine.commandSearch, checkInSearch := t.engine.checkInSearch }
      ∧ (owner = .command → t.engine.checkInSearch = s.engine.checkInSearch)
      ∧ (owner = .checkIn → t.engine.commandSearch = s.engine.commandSearch ∧ t.engine.held = s.engine.held) ∧
      match hit with
      | some x => goesOn t
          ∧ (owner = .command → t.engine.commandSearch = some { se with found := some x })
          ∧ (owner = .checkIn → t.engine.checkInSearch = some { se with found := some x })
          ∧ (if enters then Reenters s t x se.kit se.home s.sweep.pass id
              else (t.tag x).location = (s.tag x).location ∧ t.dir = s.dir)
      | none => t.dir = s.dir ∧
          if se.next + 64 < 4096 then goesOn t
            ∧ (owner = .command → t.engine.commandSearch = some next)
            ∧ (owner = .checkIn → t.engine.checkInSearch = some next)
          else (∀ c, owner = .command → s.engine.held = some c → t.finishedWith c.code .notFound [] ∧ t.link = s.link)
            ∧ (owner = .checkIn → t.engine.checkInSearch = none ∧ t.port = s.port ∧ t.link = { s.link with
                inService := none
                counters := { s.link.counters with unknown := min (s.link.counters.unknown + 1) 65535 } })

/-- A re-insertion of a slot whose location is none into a readable home bucket: it takes the lowest-numbered empty
way, else the lowest-numbered empty spill entry, and the tag names the entry; with neither, the bucket is REBUILDING
under the current pass. Each corrected way of the bucket is written back with good check values and the directory
corrected count rises by 1 for it, stopping at 65,535. -/
def Obligations.Reinsertion : Prop :=
  ∀ (t : Turn) (slot : Nat) (kit : KitId), Memory.wf t.s → (t.s.tag slot).location = .nowhere →
    (t.s.bucket (homeBucket kit)).broken = false →
    let home := homeBucket kit
    let ways := (t.s.bucket home).values
    let u := (t.reinsert slot kit home).s
    (∀ w, ways.lowest (·.isNone) = some w → (u.tag slot).location = .way home w
        ∧ (u.bucket home).values = ways.set w (some ⟨kit, slot⟩) ∧ (u.bucket home).state = (t.s.bucket home).state)
    ∧ (ways.lowest (·.isNone) = none → ∀ i, (∀ j, j < i → t.s.spillEntry j ≠ none) → i < 32 → t.s.spillEntry i = none →
        (u.tag slot).location = .spill i ∧ u.spillEntry i = some ⟨kit, slot, home⟩)
    ∧ (ways.lowest (·.isNone) = none → (∀ j, j < 32 → t.s.spillEntry j ≠ none) →
        (u.tag slot).location = .nowhere ∧ (u.bucket home).state = .rebuilding t.s.sweep.pass)
    ∧ (∀ w, (u.bucket home).ways.get w =
        if (u.tag slot).location = .way home w then ⟨some ⟨kit, slot⟩, some ⟨kit, slot⟩, .good⟩
        else if ((t.s.bucket home).ways.get w).check = .single then
          ⟨((t.s.bucket home).ways.get w).written, ((t.s.bucket home).ways.get w).written, .good⟩
        else (t.s.bucket home).ways.get w)
    ∧ (∀ b, b ≠ home → u.bucket b = t.s.bucket b)
    ∧ (let singles := ((List.finRange 4).filter fun w => decide (((t.s.bucket home).ways.get w).check = .single)).length
       u.integrity.dirCorrected = if singles = 0 then t.s.integrity.dirCorrected
         else min (t.s.integrity.dirCorrected + singles) 65535)

/-- USING_TURN: a found slot that is FREE, or that reads as another kit, answers the command NOT_FOUND, or counts the
check-in unknown; a slot that reads as the kit sought, DAMAGED or not, is used by the held command as a lookup's slot
would be, or serves the check-in. The search ends, and the other requester's work is as it was. That the bodies of a
bank powered down by a retire read as cleared (DESIGN CHOICE, log 13), and that a held command that starts no search is
answered NOT_FOUND (DESIGN CHOICE, log 32), is the model's choice. -/
def Obligations.UsingTurn : Prop :=
  (∀ (s : State) (c : RecordCommand) (kit : KitId) (home next slot : Nat), Memory.wf s →
    s.engine.held = some c → s.engine.commandSearch = some ⟨kit, home, next, some slot⟩ →
    s.arbiter = some .command →
    let live := (s.tag slot).lifecycle ≠ .free
    ∃ t, exec .usingTurn s = .next t
      ∧ t.engine.held = none ∧ t.engine.commandSearch = none ∧ t.engine.checkInSearch = s.engine.checkInSearch
      ∧ (¬live → CommandLeaves s t slot (s.tag slot) (s.body slot).stored .untouched none c.code .notFound [])
      ∧ (live → (s.reading slot).kit ≠ kit → CommandLeaves s t slot (s.tagRead slot) (s.reading slot) .read
          none c.code .notFound [])
      ∧ (live → (s.reading slot).kit = kit → ServesCommand s t slot c))
  ∧ (∀ (s : State) (kit : KitId) (home next slot : Nat), Memory.wf s →
    s.engine.checkInSearch = some ⟨kit, home, next, some slot⟩ → s.arbiter = some .checkIn →
    let live := (s.tag slot).lifecycle ≠ .free
    let unknown := { s.link with
      inService := none, counters := { s.link.counters with unknown := min (s.link.counters.unknown + 1) 65535 } }
    ∃ t, exec .usingTurn s = .next t ∧ t.port = s.port ∧ t.engine.checkInSearch = none
      ∧ t.engine.held = s.engine.held ∧ t.engine.commandSearch = s.engine.commandSearch
      ∧ (¬live → t.memory = s.memory ∧ t.dir = s.dir ∧ t.integrity = s.integrity ∧ KeepsSurroundings s t
          ∧ t.link = unknown)
      ∧ (live → (s.reading slot).kit ≠ kit → TurnLeaves s t slot (s.tagRead slot) (s.reading slot) .read none .checkIn s.now
          ∧ t.link = unknown)
      ∧ ∀ a, live → (s.reading slot).kit = kit → s.link.inService = some a →
          CheckInLeaves s t s.now a slot s.link.queue none)

/-! ## Memory errors -/

/-- The first read of an undamaged live slot whose body is uncorrectable makes the slot DAMAGED and reports it. The
command turns of TOP UP, ADJUST, SUSPEND, RESUME and CHANGE CLASS are then refused with RECORD_DAMAGED, that of READ
RECORD returns the image of the DAMAGED slot; a check-in is answered with a KEEP grant carrying the serial as read;
a sweep visit evaluates nothing. READ SLOT returns the image of the DAMAGED slot, and FETCH MARKED too, with the marks
of the body as read then cleared. A check-in of a slot already DAMAGED gets KEEP and changes no record. What a read
returns, word by word: a field of a corrected word as it was written, any other as it lies stored; the body is
uncorrectable when a word is, else corrected when a word is, else good. (In which word a field lies: free, log 10.) -/
def Obligations.DoubleErrors : Prop :=
  (∀ (s : State) (kit : KitId) (slot : Nat) (c : RecordCommand), (c.needsMinute = true → s.now ≠ none) →
     s.commandTurnFor c → s.locates kit slot → (s.tag slot).damaged = false → (s.body slot).check = .double →
     ((∃ a, c = .topUp kit a) ∨ (∃ m, c = .adjust kit m) ∨ c = .suspend kit ∨ c = .resume kit
         ∨ (∃ k, c = .changeClass kit k) →
       ∃ t, exec .commandTurn s = .next t ∧ BecomesDamaged s t slot .command (some (homeBucket kit)) ∧ t.finishedWith c.code .recordDamaged [])
     ∧ (c = .readRecord kit → ∃ t, exec .commandTurn s = .next t ∧ BecomesDamaged s t slot .command (some (homeBucket kit))
       ∧ t.finishedWith 0x19 .ok (imageBytes (recordImage slot { s.tag slot with damaged := true } (s.body slot).read
           (some .keep)))))
  ∧ (∀ (s : State) (a : Arrival) (rest : List Arrival) (slot : Nat), CheckInNext s a rest →
       s.locates a.checkIn.kit slot →
       let given := ({ s with link := { s.link with queue := rest, inService := some a } }.handOver
         ⟨a.checkIn.kit, (s.reading slot).issued, .keep, 0, 0, a.checkIn.serial⟩ a).link
       ((s.tag slot).damaged = false → (s.body slot).check = .double → ∃ t, exec .checkInTurn s = .next t
         ∧ BecomesDamaged s t slot .checkIn (some (homeBucket a.checkIn.kit)) ∧ t.link = given)
       ∧ ((s.tag slot).damaged = true → ∃ t, exec .checkInTurn s = .next t ∧ (∀ x, t.tag x = s.tag x)
         ∧ (∀ x, t.body x = s.body x) ∧ KeepsSurroundings s t ∧ t.link = given))
  ∧ (∀ s : State, Memory.wf s → s.arbiter = some .sweep → (s.bank (bankIndex s.sweep.position)).inUse = true →
       (s.tag s.sweep.position).lifecycle ≠ .free → (s.tag s.sweep.position).damaged = false →
       (s.body s.sweep.position).check = .double → ∃ t, exec .sweepVisit s = .next t
         ∧ BecomesDamaged s t s.sweep.position .sweep none ∧ t.link = s.link ∧ t.port = s.port)
  ∧ (∀ (s : State) (slot : BitVec 16), s.commandTurnFor (.readSlot slot) →
       let n := slot.toNat
       (s.bank (bankIndex n)).inUse = true → (s.tag n).lifecycle ≠ .free → (s.tag n).damaged = false →
       (s.body n).check = .double → ∃ t, exec .commandTurn s = .next t ∧ BecomesDamaged s t n .command none
         ∧ t.finishedWith 0x1A .ok (imageBytes (recordImage n { s.tag n with damaged := true } (s.body n).read
             (some .keep))))
  ∧ (∀ (s : State) (slot : Nat), s.commandTurnFor .fetchMarked → s.nextMarked = some slot →
       (s.tag slot).damaged = false → (s.body slot).check = .double →
       let r := (s.body slot).read
       ∃ t, exec .commandTurn s = .next t
         ∧ SlotLeaves s t slot { s.tag slot with damaged := true, marked := false }
             { r with marks := ⟨false, false, false, false, false, false⟩ } .written none .command s.now
         ∧ FeedsError s t (.record slot) .command ∧ t.link = s.link ∧ t.engine.fetchCursor = (slot + 1) % 4096
         ∧ t.finishedWith 0x1B .ok (imageBytes (recordImage slot { s.tag slot with damaged := true } r (some .keep))))
  ∧ (∀ b : StoredBody,
       let field := fun {α : Type} (f : RecordField) (get : Record → α) =>
         get b.read = if cellRead .good b.words (Config.fieldWord f) = .single then get b.written else get b.stored
       field .kit (·.kit) ∧ field .cls (·.cls) ∧ field .expiry (·.expiry) ∧ field .reserve (·.reserve)
         ∧ field .residue (·.residue) ∧ field .outstanding (·.outstanding) ∧ field .paidTotal (·.paidTotal)
         ∧ field .issued (·.issued) ∧ field .acknowledged (·.acknowledged) ∧ field .awaiting (·.awaiting)
         ∧ field .lastCheckIn (·.lastCheckIn) ∧ field .drift (·.drift) ∧ field .frozen (·.frozen)
         ∧ field .prior (·.prior) ∧ field .lapseNoted (·.lapseNoted) ∧ field .silenceNoted (·.silenceNoted)
         ∧ field .marks (·.marks))
  ∧ (∀ b : StoredBody, cellsWf Check.good b.words →
       (b.check = .double ↔ ∃ w, cellRead .good b.words w = .double)
       ∧ (b.check = .good ↔ ∀ w, cellRead .good b.words w = .good))

/-- A lookup of a command turn that names a kit, in a bucket with an uncorrectable way: the four ways become empty,
the bucket REBUILDING under the current pass, every tag that named one of its ways has no location, the error is
reported, and the lookup goes on with empty ways: without a spill entry of the kit the full search starts. In every
case, and for the lookups of ENROL, of RESTORE, of a check-in turn and of a check-in turn in progress as the link left
ENABLED (DESIGN CHOICE, log 31), the turn does what it does with the bucket so wiped; an injection armed for the bucket
spoils its way 0, the lowest the turn has written (DEDUCED, log 22). -/
def Obligations.UncorrectableBucket : Prop :=
  (∀ (s : State) (kit : KitId) (c : RecordCommand), (c.needsMinute = true → s.now ≠ none) → s.commandTurnFor c →
    c.seeks = some kit →
    let home := homeBucket kit
    (s.bucket home).broken = true → s.spillHolding home kit = none →
    ∃ t, exec .commandTurn s = .next t ∧ KeepsSurroundings s t ∧ t.port = s.port ∧ t.link = s.link
      ∧ (t.bucket home).values = ⟨none, none, none, none⟩ ∧ (t.bucket home).state = .rebuilding s.sweep.pass
      ∧ (∀ b, b ≠ home → t.bucket b = s.bucket b) ∧ t.dir.spill = s.dir.spill
      ∧ (∀ x, t.body x = s.body x ∧ t.tag x = { s.tag x with
          location := if ∃ w, (s.tag x).location = .way home w then .nowhere else (s.tag x).location })
      ∧ FeedsError s t (.directory home) .command ∧ t.integrity.dirCorrected = s.integrity.dirCorrected
      ∧ t.engine.held = some c ∧ t.engine.commandSearch = some ⟨kit, home, 0, none⟩)
  ∧ (∀ (s : State) (kit : KitId) (c : RecordCommand), (c.needsMinute = true → s.now ≠ none) → s.commandTurnFor c →
      c.looksUp = some kit → (∀ k cls o, c = .enrol k cls o → (s.tariffClass cls.toNat).price ≠ 0) →
      (s.bucket (homeBucket kit)).broken = true → GoesOnWiped s .commandTurn (homeBucket kit) .command s.now)
  ∧ (∀ (s : State) (a : Arrival) (rest : List Arrival), CheckInNext s a rest →
      (s.bucket (homeBucket a.checkIn.kit)).broken = true →
      GoesOnWiped s .checkInTurn (homeBucket a.checkIn.kit) .checkIn s.now)
  ∧ (∀ (s : State) (b : BegunTurn), Memory.wf s → s.engine.checkInSearch = none →
      s.link.queue = [] ∨ s.arbiter ≠ some .checkIn → s.engine.begun = some b →
      (s.bucket (homeBucket b.arrival.checkIn.kit)).broken = true →
      GoesOnWiped s .checkInTurn (homeBucket b.arrival.checkIn.kit) .checkIn b.now)

/-- An armed injection is taken by a turn's write that carries its target, and by no other: the first word of
the body, or the lowest-numbered way written, is next found with the error of its mode, the data lies as written, and nothing is armed. That the
one write of the turn takes it, and the lowest of all ways the turn has written, is the model's reading (DEDUCED,
log 22). -/
def Obligations.InjectionTaken : Prop :=
  (∀ (t : Turn) (slot : Nat) (m : InjectMode), Memory.wf t.s → t.s.integrity.armed = some ⟨.record slot, m⟩ →
     (slot ∉ t.bodies → t.write = t.s)
     ∧ (slot ∈ t.bodies →
         (∀ w, cellRead .good (t.write.body slot).words w =
           if w = 0 then (match m with | .single => .single | .double => .double)
           else cellRead .good (t.s.body slot).words w)
         ∧ t.write.body slot = { t.s.body slot with words := (t.write.body slot).words }
         ∧ (∀ x, x ≠ slot → t.write.body x = t.s.body x) ∧ t.write.memory.tags = t.s.memory.tags
         ∧ t.write = { t.s with
             memory := { t.s.memory with bodies := t.write.memory.bodies }
             integrity := { t.s.integrity with armed := none } }))
  ∧ (∀ (t : Turn) (b : Nat) (m : InjectMode), Memory.wf t.s → t.s.integrity.armed = some ⟨.bucket b, m⟩ →
       ((∀ w, (b, w) ∉ t.ways) → t.write = t.s)
       ∧ ∀ w, (b, w) ∈ t.ways → (∀ v, v < w → (b, v) ∉ t.ways) →
         (t.write.bucket b).ways = (t.s.bucket b).ways.set w { (t.s.bucket b).ways.get w with
             check := match m with | .single => .single | .double => .double }
           ∧ (t.write.bucket b).state = (t.s.bucket b).state ∧ (∀ x, x ≠ b → t.write.bucket x = t.s.bucket x)
           ∧ t.write = { t.s with
               dir := { t.s.dir with buckets := t.write.dir.buckets }
               integrity := { t.s.integrity with armed := none } })

/-! ## Check-ins -/

/-- CHECK_IN_TURN of a kit not found: the head leaves the queue, no record changes and the unknown counter rises; in
a REBUILDING bucket a full search holds the check-in in service instead. The lookup has written back the corrected ways
of the bucket and counted them. -/
def Obligations.CheckInUnknown : Prop :=
  ∀ (s : State) (a : Arrival) (rest : List Arrival), CheckInNext s a rest →
    let kit := a.checkIn.kit
    (s.bucket (homeBucket kit)).broken = false →
    (s.lookupEnd (s.bucket (homeBucket kit)).values kit = .absent → ∃ t, exec .checkInTurn s = .next t
      ∧ LookupLeaves s t (some (homeBucket kit)) ∧ t.engine.checkInSearch = none ∧ t.port = s.port
      ∧ t.engine.held = s.engine.held ∧ t.engine.commandSearch = s.engine.commandSearch
      ∧ t.link = { s.link with
          queue := rest, inService := none
          counters := { s.link.counters with unknown := min (s.link.counters.unknown + 1) 65535 } })
    ∧ (s.lookupEnd (s.bucket (homeBucket kit)).values kit = .rebuilding → ∃ t, exec .checkInTurn s = .next t
      ∧ LookupLeaves s t (some (homeBucket kit)) ∧ t.engine.checkInSearch = some ⟨kit, homeBucket kit, 0, none⟩
      ∧ t.port = s.port ∧ t.engine.held = s.engine.held ∧ t.engine.commandSearch = s.engine.commandSearch
      ∧ t.link = { s.link with queue := rest, inService := some a })

/-- CHECK_IN_TURN of a kit found in a slot: with the slot undamaged and the clock RUNNING the record of the ordinary
check-in turn is written to its slot and no other slot changes, and a grant with the issued serial as written is handed
to the link; with the slot DAMAGED or the clock UNSET the record stays and a KEEP grant with the serial as read is
handed over. The check-in leaves the queue and is given up by the link, and the counts follow. A check-in turn in
progress as the link left ENABLED completes whole with the minute it read, and its grant meets a link that is not
ENABLED and is suppressed; the row is its completion, and with none in progress and none to grant there is no event
(DESIGN CHOICE, log 31, log 1). -/
def Obligations.CheckInTurn : Prop :=
  (∀ (s : State) (a : Arrival) (rest : List Arrival) (slot : Nat), CheckInNext s a rest →
    s.locates a.checkIn.kit slot →
    ∃ t, exec .checkInTurn s = .next t ∧ CheckInLeaves s t s.now a slot rest (some (homeBucket a.checkIn.kit)))
  ∧ (∀ (s : State) (b : BegunTurn) (slot : Nat), Memory.wf s → s.engine.checkInSearch = none →
    s.link.queue = [] ∨ s.arbiter ≠ some .checkIn → s.engine.begun = some b →
    s.locates b.arrival.checkIn.kit slot →
    ∃ t, exec .checkInTurn s = .next t ∧ CheckInLeaves s t b.now b.arrival slot s.link.queue
        (some (homeBucket b.arrival.checkIn.kit))
      ∧ (s.link.state ≠ .enabled → t.link = { s.link with
          inService := none
          counters := { s.link.counters with suppressed := min (s.link.counters.suppressed + 1) 65535 } })
      ∧ (∀ r, t.engine.waits.get r = if t.waits r then b.waits.get r else 0) ∧ t.engine.consecutive = b.consecutive
      ∧ t.engine.begun = none)
  ∧ (∀ s : State, s.engine.checkInSearch ≠ none
      ∨ (s.link.queue = [] ∨ s.arbiter ≠ some .checkIn) ∧ s.engine.begun = none →
      exec .checkInTurn s = .next s)

/-- The hand-over of a grant: suppressed at a link that is not ENABLED; LATE when overdue or older than O + W; no
channel when all eight are in use; otherwise the lowest-numbered FREE channel takes it, SCHEDULED before O and else
READY. An IDLE transmitter then takes the READY channel with the smallest remaining count to its latest start, the
lowest number where two share it, and the other channels stay. The check-in in service is given up. -/
def Obligations.GrantHandOver : Prop :=
  ∀ (s : State) (g : Grant) (a : Arrival), Memory.wf s →
    let e := (s.time.timer - a.stamp).toNat
    let o := s.link.config.openDelay
    let w := s.link.config.window
    let t := s.handOver g a
    let n := s.link.counters
    t.link.inService = none ∧ t = { s with link := t.link }
    ∧ (s.link.state ≠ .enabled → t.link = { s.link with
        inService := none, counters := { n with suppressed := min (n.suppressed + 1) 65535 } })
    ∧ (s.link.state = .enabled → a.overdue = true ∨ o + w < e →
        t.link = { s.link with inService := none, counters := { n with late := min (n.late + 1) 65535 } })
    ∧ (s.link.state = .enabled → ¬(a.overdue = true ∨ o + w < e) → (∀ c, c < 8 → s.channel c ≠ none) →
        t.link = { s.link with inService := none, counters := { n with noChannel := min (n.noChannel + 1) 65535 } })
    ∧ ∀ c, s.link.state = .enabled → ¬(a.overdue = true ∨ o + w < e) → c < 8 → s.channel c = none →
        (∀ x, x < c → s.channel x ≠ none) →
        let ch := fun p => Channel.mk p g a.stamp (a.stamp + BitVec.ofNat 16 o) (a.stamp + BitVec.ofNat 16 (o + w))
        t.link.counters = n
          ∧ (e < o → t.channel c = some (ch .scheduled))
          ∧ (o ≤ e → s.link.tx ≠ .idle → t.channel c = some (ch .ready) ∧ t.link.tx = s.link.tx)
          ∧ (o ≤ e → s.link.tx = .idle → (∃ m, t.link.tx = .sending m s.time.timer)
              ∧ (t.channel c = some (ch .ready) ∨ t.channel c = some (ch .sending)))
          ∧ let taken := fun n => if n = c then some (ch (if e < o then .scheduled else .ready)) else s.channel n
            (s.link.tx = .idle → Sends taken s.time.timer t)
            ∧ (s.link.tx ≠ .idle → t.link.tx = s.link.tx ∧ ∀ n, t.channel n = taken n)

/-- The serials of an ordinary check-in turn: an acknowledgement newer than the issued serial changes neither
acknowledged nor awaiting serial; otherwise a newer one is taken and the delivery test made on the serial reported.
The issued serial rises by 1, and stays at most 32,767 ahead of the acknowledged one. What else the ordinary check- in
turn writes, by lifecycle: last check-in, silence noted and tamper always; the drift, the release, and LAPSED with
lapse noted, only of a RUNNING record; no other field of the record. -/
def Obligations.CheckInRecord : Prop :=
  (∀ (lc : Lifecycle) (r : Record) (ci : CheckIn) (c : TariffClass) (now : Nat),
     (r.issued - r.acknowledged).toNat ≤ 32767 →
     let s := ci.acknowledged
     let r' := checkedInRecord lc r ci c now
     let newer := fun x y : Serial => 1 ≤ (x - y).toNat ∧ (x - y).toNat ≤ 32767
     let acked := if newer s r.issued then r.acknowledged else if newer s r.acknowledged then s else r.acknowledged
     r'.issued = r.issued + 1
     ∧ (r'.issued - r'.acknowledged).toNat ≤ 32767
     ∧ r'.acknowledged = (if (r.issued + 1 - acked) = 32768#16 then acked + 1 else acked)
     ∧ (newer s r.issued → r'.awaiting = r.awaiting ∧ r'.marks.delivered = r.marks.delivered)
     ∧ (¬newer s r.issued → ∀ x, r.awaiting = some x →
         if s = x ∨ newer s x then r'.awaiting = none ∧ r'.marks.delivered = true
         else r'.awaiting = some x ∧ r'.marks.delivered = r.marks.delivered)
     ∧ (r.awaiting = none → r'.awaiting = none ∧ r'.marks.delivered = r.marks.delivered))
  ∧ (∀ (lc : Lifecycle) (r : Record) (ci : CheckIn) (c : TariffClass) (now : Nat),
       let r' := checkedInRecord lc r ci c now
       let e : Int := (r.expiry - now : Nat)
       let d : Int := max (-32767) (min 32767 ((ci.remaining.toNat : Int) - e))
       r'.lastCheckIn = some now ∧ r'.silenceNoted = false
       ∧ r'.marks.tamper = (r.marks.tamper || ci.flags.getLsbD 0)
       ∧ r'.drift = (if lc = .running then d else r.drift)
       ∧ r'.marks.drift = (r.marks.drift || decide (lc = .running ∧ c.drift ≠ 0 ∧ c.drift < d.natAbs))
       ∧ (lc ≠ .running → r'.expiry = r.expiry ∧ r'.reserve = r.reserve ∧ r'.lapseNoted = r.lapseNoted
           ∧ r'.marks.lapsed = r.marks.lapsed)
       ∧ (lc = .running →
           let r1 := releaseRecord lc r now c.horizon
           let locked := decide (r1.expiry + c.grace ≤ now)
           let noted := r.lapseNoted && !(decide (r1.reserve < r.reserve) && decide (now < r1.expiry))
           r'.expiry = r1.expiry ∧ r'.reserve = r1.reserve
           ∧ r'.marks.lapsed = (r.marks.lapsed || (locked && !noted)) ∧ r'.lapseNoted = (noted || locked))
       ∧ r'.marks.changed = r.marks.changed ∧ r'.marks.silent = r.marks.silent
       ∧ r'.kit = r.kit ∧ r'.cls = r.cls ∧ r'.residue = r.residue ∧ r'.outstanding = r.outstanding
       ∧ r'.paidTotal = r.paidTotal ∧ r'.frozen = r.frozen ∧ r'.prior = r.prior)

/-! ## Sweep visits and evacuation moves -/

/-- SWEEP_VISIT: the slot visited is the first from the position whose bank is in use, those before it being passed
over. One credit is spent and the position moves past the slot; where it moves from 4,095 to 0 the pass ends, so that
the pass number rises and every REBUILDING bucket marked under another pass returns to NORMAL. A FREE slot is scrubbed
by the outcome of its read, and a DAMAGED slot is left as it is. No check-in turn was in progress as the link left
ENABLED (DESIGN CHOICE, log 31). -/
def Obligations.SweepVisit : Prop :=
  ∀ (s : State) (p : Nat), Memory.wf s → s.arbiter = some .sweep → s.sweep.position < 4096 →
    FirstFrom s.sweep.position (fun x => (s.bank (bankIndex x)).inUse = true) p →
    let tag := s.tag p
    let b := s.body p
    let passEnds := p < s.sweep.position ∨ p = 4095
    ∃ t, exec .sweepVisit s = .next t ∧ KeepsSurroundings s t ∧ t.port = s.port ∧ t.link = s.link
      ∧ SweepMoves s t p
      ∧ (∀ x, x ≠ p → t.body x = s.body x ∧ (t.tag x).lifecycle = (s.tag x).lifecycle
          ∧ (t.tag x).damaged = (s.tag x).damaged ∧ (t.tag x).marked = (s.tag x).marked)
      ∧ (tag.lifecycle = .free ∨ tag.damaged = true ∨ b.check = .double ∨ tag.location ≠ .nowhere →
          t.integrity.dirCorrected = s.integrity.dirCorrected ∧ (∀ d, (t.bucket d).ways = (s.bucket d).ways
            ∧ (t.bucket d).state = if passEnds then (s.bucket d).state.passed s.sweep.pass else (s.bucket d).state)
          ∧ ∀ i, t.spillEntry i = s.spillEntry i)
      ∧ (tag.lifecycle = .free ∨ tag.damaged = true → t.engine = { s.engine with
          waits := t.engine.waits, consecutive := t.engine.consecutive, begun := none })
      ∧ (tag.damaged = true → tag.lifecycle ≠ .free → t.memory = s.memory ∧ t.integrity = s.integrity)
      ∧ (tag.lifecycle = .free → t.memory.tags = s.memory.tags
          ∧ (b.check = .good → t.memory = s.memory ∧ t.integrity = s.integrity)
          ∧ (b.check = .single → t.body p = s.bodyWritten p b.read
              ∧ t.integrity = { s.integrity with armed := s.armedLeft [p] [] }
              ∧ (∀ x, x ≠ bankIndex p → t.bank x = s.bank x)
              ∧ (t.bank (bankIndex p)).corrected = min ((s.bank (bankIndex p)).corrected + 1) 65535)
          ∧ (b.check = .double → t.body p = s.bodyWritten p Record.cleared ∧ t.memory.banks = s.memory.banks
              ∧ t.integrity.armed = s.armedLeft [p] [] ∧ t.integrity.directoryAgain = s.integrity.directoryAgain
              ∧ (s.integrity.report = none → t.integrity.report = some ⟨.record p, .sweep, s.now⟩
                  ∧ t.integrity.recordAgain = s.integrity.recordAgain)
              ∧ (s.integrity.report ≠ none → t.integrity.report = s.integrity.report ∧ t.integrity.recordAgain = true)))

/-- SWEEP_VISIT to a live, undamaged slot that reads as `r`: with the clock RUNNING the evaluation of the visit is
written, with the clock UNSET the record stays; its lifecycle stays and the counts follow. A slot whose location is
none is re-inserted under the pass then current; an entry that is set stays. -/
def Obligations.SweepVisitLive : Prop :=
  ∀ (s : State) (p : Nat) (r : Record), Memory.wf s → s.arbiter = some .sweep → s.sweep.position < 4096 →
    FirstFrom s.sweep.position (fun x => (s.bank (bankIndex x)).inUse = true) p →
    let tag := s.tag p
    tag.lifecycle ≠ .free → tag.damaged = false → s.readsAs p r →
    let home := homeBucket r.kit
    let wiped := if tag.location = .nowhere then s.wipedBy home else none
    let wraps := p < s.sweep.position
    let changes := s.now.any fun now => decide (visitedRecord tag.lifecycle r (s.tariffClass r.cls) now ≠ r)
    let access := if changes then BodyAccess.written else .read
    ∃ t, exec .sweepVisit s = .next t ∧ KeepsSurroundings s t ∧ t.port = s.port ∧ t.link = s.link
      ∧ SweepMoves s t p ∧ CountsFollow s t p ∧ BanksFollow s t p
      ∧ (∀ x, x ≠ p → t.tag x = (s.tag x).without wiped ∧ t.body x = s.body x)
      ∧ FeedsErrors s t (wiped.map .directory).toList .sweep s.now
      ∧ (t.bank (bankIndex p)).corrected = s.correctedLeft p .read
      ∧ t.integrity.armed = s.armedLeft (if s.writesBody p access then [p] else [])
          (if tag.location = .nowhere then s.entryWrites home else [])
      ∧ (tag.location ≠ .nowhere → (t.tag p).location = tag.location)
      ∧ (tag.location = .nowhere → Reenters (if wraps then s.endPass else s) t p r.kit home
          (if wraps then s.sweep.pass + 1 else s.sweep.pass)
          (if p = 4095 then BucketState.passed s.sweep.pass else id)) ∧
      match s.now with
      | none => t.tag p = { tag with location := (t.tag p).location } ∧ t.body p = s.bodyLeft p access r
      | some now =>
        let r' := visitedRecord tag.lifecycle r (s.tariffClass r.cls) now
        t.body p = s.bodyLeft p access r' ∧ t.tag p = { tag with
          marked := if r' = r then tag.marked else r'.marks.any, location := (t.tag p).location }

/-- The evaluation of a sweep visit: a release that moves minutes is a credit change; LAPSED with lapse noted when
the standing is then LOCKED; SILENT with silence noted when the class limit has passed since the last check-in; no
other field is changed. -/
def Obligations.VisitEvaluation : Prop :=
  ∀ (lc : Lifecycle) (r : Record) (c : TariffClass) (now : Nat),
    let r1 := releaseRecord lc r now c.horizon
    let moved := r1.reserve < r.reserve
    let st := standingOf false lc r1 c.grace (some now)
    let noted := if moved ∧ st = some .credit then false else r.lapseNoted
    let lapses := st = some .locked ∧ noted = false
    let silent := decide (c.silence ≠ 0) && !r.silenceNoted
      && (r.lastCheckIn.any fun last => decide (c.silence ≤ now - last))
    visitedRecord lc r c now = { r1 with
      awaiting := if moved then some (r.issued + 1) else r.awaiting
      lapseNoted := noted || decide lapses
      silenceNoted := r.silenceNoted || silent
      marks := { r.marks with
        changed := r.marks.changed || decide moved
        lapsed := r.marks.lapsed || decide lapses
        silent := r.marks.silent || silent } }

/-- The end of a pass: every REBUILDING bucket whose marking pass number differs from the pass ending becomes NORMAL
with its ways as they are, every other bucket stays, and the pass number rises by 1. -/
def Obligations.PassEnd : Prop :=
  ∀ (s : State) (b : Nat), Memory.wf s →
    (s.endPass.bucket b).ways = (s.bucket b).ways
    ∧ (s.endPass.bucket b).state = (match (s.bucket b).state with
        | .normal => .normal
        | .rebuilding pass => if pass = s.sweep.pass then .rebuilding pass else .normal)
    ∧ s.endPass.sweep = { s.sweep with pass := s.sweep.pass + 1 }

/-- EVACUATION_MOVE: the lowest-numbered live slot of the evacuating bank moves to the first slot, from the allocation
pointer and wrapping, that is FREE in a bank IN_SERVICE. The source becomes FREE, the target takes what the read gives
with lifecycle and marked indication, DAMAGED when it was or became so, and the moves made rise by 1; every count of
the record engine but a newly DAMAGED slot's is as it was. An entry the source names is repointed; where its bucket's
way reads uncorrectable the bucket is wiped and the target has no location; a source without one is re-inserted, unless
DAMAGED. When the bank holds no further live slot it is OUT_OF_SERVICE and the BANK flag is set. That its bodies then
read as cleared (DESIGN CHOICE, log 13), and that no check-in turn was in progress as the link left ENABLED (DESIGN
CHOICE, log 31), is the model's choice. -/
def Obligations.EvacuationMove : Prop :=
  ∀ (s : State) (b : Fin 4) (source target : Nat), Memory.wf s → s.arbiter = some .evacuation →
    s.evacuatingBank = some b → s.engine.allocPtr < 4096 →
    source < 4096 → bankIndex source = b → (s.tag source).lifecycle ≠ .free →
    (∀ x, x < source → bankIndex x = b → (s.tag x).lifecycle = .free) →
    FirstFrom s.engine.allocPtr s.isOpen target →
    let r := s.reading source
    let tag := s.tagRead source
    let home := homeBucket r.kit
    let wiped := match tag.location with
      | .way d w => if ((s.bucket d).ways.get w).check = .double then some d else none
      | .spill _ => none
      | .nowhere => if tag.damaged then none else s.wipedBy home
    ∃ t, exec .evacuationMove s = .next t ∧ KeepsSurroundings s t ∧ t.port = s.port ∧ t.sweep = s.sweep
      ∧ t.link = s.link ∧ t.tag source = Tag.cleared ∧ t.body target = s.bodyWritten target r
      ∧ t.tag target = { tag with location := (t.tag target).location }
      ∧ (∀ x, x ≠ source → x ≠ target → t.tag x = (s.tag x).without wiped)
      ∧ (∀ x, x ≠ target → bankIndex x ≠ b ∨ 1 < s.liveIn b → t.body x = s.body x)
      ∧ (t.bank b).corrected = s.correctedLeft source .read
      ∧ (∀ x, x ≠ b → (t.bank x).corrected = (s.bank x).corrected ∧ (t.bank x).state = (s.bank x).state)
      ∧ t.integrity.armed = s.armedLeft [target] (match tag.location with
          | .way d _ => [d]
          | .spill _ => []
          | .nowhere => if tag.damaged then [] else s.entryWrites home)
      ∧ FeedsErrors s t (s.errorsAt source ++ (wiped.map .directory).toList) .evacuation s.now
      ∧ (match tag.location with
        | .way d w =>
          (let way := (s.bucket d).ways.get w
           let moved := way.value.map fun e => { e with slot := target }
           WaysAre s t (fun x v => if wiped = some x then ⟨none, none, .good⟩
             else if x = d ∧ v = w then ⟨moved, moved, .good⟩ else (s.bucket x).ways.get v)
           ∧ t.integrity.dirCorrected = (if way.check = .single then min (s.integrity.dirCorrected + 1) 65535
               else s.integrity.dirCorrected))
          ∧ (wiped = none → (t.tag target).location = tag.location
            ∧ ((t.bucket d).ways.get w).value =
              ((s.bucket d).ways.get w).value.map (fun e => { e with slot := target })
            ∧ (∀ v, v ≠ w → ((t.bucket d).ways.get v).value = ((s.bucket d).ways.get v).value)
            ∧ (t.bucket d).state = (s.bucket d).state)
          ∧ (wiped ≠ none → (t.tag target).location = .nowhere
            ∧ (t.bucket d).values = ⟨none, none, none, none⟩ ∧ (t.bucket d).state = .rebuilding s.sweep.pass)
          ∧ (∀ x, x ≠ d → t.bucket x = s.bucket x) ∧ ∀ i, t.spillEntry i = s.spillEntry i
        | .spill i => (t.tag target).location = tag.location ∧ t.dir.buckets = s.dir.buckets
            ∧ t.integrity.dirCorrected = s.integrity.dirCorrected
            ∧ ∀ j, t.spillEntry j =
              if j = i then (s.spillEntry i).map (fun e => { e with slot := target }) else s.spillEntry j
        | .nowhere =>
          (tag.damaged = true → (t.tag target).location = .nowhere ∧ t.dir = s.dir
            ∧ t.integrity.dirCorrected = s.integrity.dirCorrected)
          ∧ (tag.damaged = false → Reenters s t target r.kit home s.sweep.pass id))
      ∧ (s.tag target = Tag.cleared → t.engine = { s.engine with
          waits := t.engine.waits, consecutive := t.engine.consecutive, begun := none
          allocPtr := (target + 1) % 4096, movesMade := s.engine.movesMade + 1
          damaged := s.engine.damaged + oneIf (s.newlyDamaged source) })
      ∧ t.engine.movesMade = s.engine.movesMade + 1 ∧ t.engine.allocPtr = (target + 1) % 4096
      ∧ (t.bank (bankIndex target)).free = (s.bank (bankIndex target)).free - 1
      ∧ (1 < s.liveIn b → (t.bank b).state = .evacuating ∧ (t.bank b).free = (s.bank b).free + 1
          ∧ t.memory.bankFlag = s.memory.bankFlag)
      ∧ (s.liveIn b = 1 → (t.bank b).state = .outOfService ∧ (t.bank b).free = 0 ∧ t.memory.bankFlag = true
          ∧ ∀ x, bankIndex x = b → (t.body x).stored = Record.cleared)

/-! ## Credit -/

/-- Release: minutes move only in a RUNNING record, from the reserve to the expiry, no further than now + H from the
larger of expiry and now; when nothing moves, nothing changes. -/
def Obligations.Release : Prop :=
  ∀ (lc : Lifecycle) (r : Record) (now horizon : Nat),
    let base := max r.expiry now
    let move := min r.reserve (now + horizon - base)
    releaseRecord lc r now horizon =
      if lc = .running ∧ 0 < move then { r with expiry := base + move, reserve := r.reserve - move } else r

/-- A top-up loses no money: a pay-off returns what exceeds the outstanding and makes the kit OWNED; otherwise the
amount is taken off the outstanding, and amount and residue make exactly the minutes applied, the minutes to the
reserve and the new residue; with the reserve bound respected, and refused only when it would be passed. The minutes
bought are placed in the expiry, or, of a SUSPENDED kit, in the frozen credit, as far as the horizon allows; an
ENROLLED kit that buys no minute keeps its expiry (DEDUCED, log 14). Lapse noted is cleared when the standing is then
CREDIT. The awaiting serial is armed and CHANGED set; the kit, its class, its serials, its last check-in and drift,
silence noted and the other marks stay. -/
def Obligations.TopUpKeepsMoney : Prop :=
  ∀ (a : Account) (c : TariffClass) (amount now : Nat), c.price ≠ 0 →
    let r1 := releaseRecord a.lc a.r now c.horizon
    match topUp a c amount now with
    | some res =>
      if r1.outstanding ≤ amount then
        res.surplus + r1.outstanding = amount ∧ res.account.lc = .owned ∧ res.account.r.outstanding = 0
          ∧ res.account.r.reserve = 0 ∧ res.account.r.residue = 0 ∧ res.account.r.frozen = none
          ∧ res.account.r.prior = none ∧ res.account.r.expiry = r1.expiry ∧ res.applied = 0 ∧ res.toReserve = 0
          ∧ res.account.r.paidTotal = min (r1.paidTotal + r1.outstanding) 4294967295
          ∧ CreditChanged a.r res.account.r ∧ res.account.r.lapseNoted = false ∧ res.unapplied = 0
      else
        res.account.r.outstanding + amount = r1.outstanding ∧ 1 ≤ res.account.r.outstanding ∧ res.surplus = 0
          ∧ ((res.applied : Int) + res.toReserve) * c.price + res.account.r.residue = amount * 1440 + a.r.residue
          ∧ res.account.r.residue < c.price
          ∧ (res.account.r.reserve : Int) = r1.reserve + res.toReserve ∧ res.account.r.reserve ≤ 1048575
          ∧ res.account.lc = (if a.lc = .enrolled then .running else a.lc)
          ∧ res.account.r.paidTotal = min (r1.paidTotal + amount) 4294967295
          ∧ CreditChanged a.r res.account.r ∧ res.unapplied = 0
          ∧ (let bought := (amount * 1440 + a.r.residue) / c.price
             (¬(a.lc = .enrolled ∧ bought = 0) →
                PlacesMinutes a.lc r1 res.account.r bought res.applied now c.horizon)
             ∧ (a.lc = .enrolled ∧ bought = 0 → res.applied = 0 ∧ res.account.r.expiry = r1.expiry
                ∧ res.account.r.frozen = r1.frozen ∧ res.account.r.prior = r1.prior))
          ∧ res.account.r.lapseNoted = res.account.lapseLeft a.r.lapseNoted c.grace now
    | none => amount < r1.outstanding ∧ 1048575 < r1.reserve
        + ((amount * 1440 + a.r.residue) / c.price - appliedMinutes ⟨a.lc, r1⟩ ((amount * 1440 + a.r.residue) / c.price)
            now c.horizon)

/-- A positive adjust places its minutes as a purchase does and adds the rest to the reserve, or is refused when the
reserve's bound would be passed; no money moves. A negative adjust is clamped, never refused: it takes from the reserve
first and from the credit only once the reserve is empty, and leaves minutes unapplied only once both are; what it takes
from the reserve, from the credit and what is unapplied add up to the minutes asked, the expiry is not lowered below now,
and reserve and credit fall by exactly what was taken. A suspension releases, freezes what is left to run and keeps the
lifecycle; a resumption lays the frozen minutes down from its own minute, returns the prior lifecycle and releases at the
resuming minute. Suspended at one minute and resumed at another, a kit has the same minutes left to run, plus what its
reserve then releases, and its lifecycle is back. Each arms the awaiting serial and sets CHANGED; each but the suspension
clears lapse noted when the standing is then CREDIT; every other field of the record stays. -/
def Obligations.AdjustAndSuspendKeepMinutes : Prop :=
  (∀ (a : Account) (c : TariffClass) (m now : Nat), a.lc = .running ∨ a.lc = .enrolled ∨ a.lc = .suspended →
     let r1 := releaseRecord a.lc a.r now c.horizon
     match adjustUp a c m now with
     | some res =>
       PlacesMinutes a.lc r1 res.account.r m res.applied now c.horizon
       ∧ res.applied + res.toReserve = m ∧ res.unapplied = 0 ∧ res.surplus = 0
       ∧ (res.account.r.reserve : Int) = r1.reserve + res.toReserve ∧ res.account.r.reserve ≤ 1048575
       ∧ res.account.lc = (if a.lc = .enrolled then .running else a.lc)
       ∧ res.account.r.outstanding = a.r.outstanding ∧ res.account.r.paidTotal = a.r.paidTotal
       ∧ res.account.r.residue = a.r.residue ∧ CreditChanged a.r res.account.r
       ∧ res.account.r.lapseNoted = res.account.lapseLeft a.r.lapseNoted c.grace now
     | none =>
       let room := if a.lc = .suspended then c.horizon - r1.frozen.getD 0 else now + c.horizon - max r1.expiry now
       1048575 < r1.reserve + (m - min m room))
  ∧ (∀ (a : Account) (c : TariffClass) (m now : Nat), a.lc = .running ∨ a.lc = .enrolled ∨ a.lc = .suspended →
     (a.lc = .suspended → a.r.frozen ≠ none) →
     let r1 := releaseRecord a.lc a.r now c.horizon
     let res := adjustDown a c m now
     res.account.lc = a.lc
     ∧ (res.applied : Int) - res.toReserve + res.unapplied = m ∧ res.surplus = 0
     ∧ (res.account.r.reserve : Int) = r1.reserve + res.toReserve ∧ res.toReserve ≤ 0
     ∧ (0 < res.applied → res.account.r.reserve = 0) ∧ (0 < res.unapplied → res.account.r.reserve = 0)
     ∧ (a.lc ≠ .suspended → res.account.r.expiry + res.applied = r1.expiry ∧ min r1.expiry now ≤ res.account.r.expiry
         ∧ (0 < res.unapplied → res.account.r.expiry ≤ now) ∧ res.account.r.frozen = a.r.frozen)
     ∧ (a.lc = .suspended → res.account.r.expiry = r1.expiry
         ∧ res.account.r.frozen.getD 0 + res.applied = r1.frozen.getD 0 ∧ res.account.r.frozen ≠ none
         ∧ (0 < res.unapplied → res.account.r.frozen = some 0))
     ∧ res.account.r.outstanding = a.r.outstanding ∧ res.account.r.residue = a.r.residue
     ∧ res.account.r.paidTotal = a.r.paidTotal ∧ res.account.r.prior = a.r.prior
     ∧ CreditChanged a.r res.account.r
     ∧ res.account.r.lapseNoted = res.account.lapseLeft a.r.lapseNoted c.grace now)
  ∧ (∀ (a : Account) (c : TariffClass) (now : Nat), a.lc = .running ∨ a.lc = .enrolled →
     let r1 := releaseRecord a.lc a.r now c.horizon
     suspendAccount a c now = ⟨.suspended, { a.r with
       expiry := r1.expiry
       reserve := r1.reserve
       frozen := some (r1.expiry - now)
       prior := some a.lc
       awaiting := some (a.r.issued + 1)
       marks := { a.r.marks with changed := true } }⟩)
  ∧ (∀ (a : Account) (c : TariffClass) (now f : Nat) (lc : Lifecycle), a.r.frozen = some f → a.r.prior = some lc →
     let laid := { a.r with expiry := now + f, frozen := none, prior := none }
     let r1 := releaseRecord lc laid now c.horizon
     resumeAccount a c now = ⟨lc, { laid with
       expiry := r1.expiry
       reserve := r1.reserve
       awaiting := some (a.r.issued + 1)
       lapseNoted := (Account.mk lc r1).lapseLeft a.r.lapseNoted c.grace now
       marks := { a.r.marks with changed := true } }⟩)
  ∧ (∀ (a : Account) (c : TariffClass) (now later : Nat), a.lc = .running ∨ a.lc = .enrolled →
     let r1 := releaseRecord a.lc a.r now c.horizon
     let back := resumeAccount (suspendAccount a c now) c later
     let move := if a.lc = .running then min r1.reserve (c.horizon - (r1.expiry - now)) else 0
     back.lc = a.lc ∧ back.r.frozen = none ∧ back.r.prior = none
     ∧ back.r.expiry = later + (r1.expiry - now) + move ∧ back.r.reserve + move = r1.reserve
     ∧ CreditChanged a.r back.r)

/-- The standing of a live slot and the figures of its grant: the first row of R54's table that holds, and R55's
minutes and grace for it. -/
def Obligations.StandingAndGrant : Prop :=
  ∀ (damaged : Bool) (lc : Lifecycle) (r : Record) (grace : Nat) (clock : Option Nat), lc ≠ .free →
    let st := (standingOf damaged lc r grace clock).getD .keep
    standingOf damaged lc r grace clock = some st
    ∧ (damaged = true ∨ clock = none → st = .keep)
    ∧ ∀ now, damaged = false → clock = some now →
      (lc = .enrolled → st = .fresh) ∧ (lc = .suspended → st = .barred) ∧ (lc = .owned → st = .owned)
      ∧ (lc = .running → st = (if now < r.expiry then .credit else if now < r.expiry + grace then .grace else .locked))
      ∧ grantMinutes st r.expiry now = (if st = .credit then r.expiry - now else 0)
      ∧ grantGrace st r.expiry grace now =
          (if st = .credit then grace else if st = .grace then r.expiry + grace - now else 0)

/-- The home bucket is the exclusive-or of the three fields of the kit id and lies in 0..2,047. The serial order: of
two different serials exactly one is newer, except when they lie 32,768 apart, and none is newer than itself. -/
def Obligations.HomeBucketAndSerialOrder : Prop :=
  (∀ kit : KitId, homeBucket kit = (kit.toNat % 2048) ^^^ (kit.toNat / 2048 % 2048) ^^^ (kit.toNat / 4194304)
     ∧ homeBucket kit < 2048)
  ∧ (∀ a b : Serial, (newer a b = true ↔ 1 ≤ (a.toNat + 65536 - b.toNat) % 65536 ∧ (a.toNat + 65536 - b.toNat) % 65536 ≤ 32767)
       ∧ newer a a = false
       ∧ (a ≠ b → a - b ≠ 32768#16 → newer a b = !newer b a)
       ∧ (a - b = 32768#16 → newer a b = false ∧ newer b a = false))

/-! ## Invariants -/

/-- Every step keeps the canonical form of every store: record bodies, slot tags, buckets, spill list, classes,
channels. -/
def Obligations.StepKeepsStoresCanonical : Prop :=
  ∀ s s' : State, Memory.wf s → step s = .next s' → Memory.wf s'

/-- Every step keeps the time unit, the sweep unit, the arbiter's counts and the record engine's pointers in their
ranges. Every step keeps a link that is not ENABLED at rest, and the arrival queue within 16 entries. Every step keeps
at most one bank EVACUATING, with a live slot in it, the held command within the ranges of its parameters and every
body's prior lifecycle absent, ENROLLED or RUNNING. Every step leaves no channel READY at an IDLE transmitter. -/
def Obligations.StepKeepsRangesAndOrder : Prop :=
  (∀ s s' : State, s.time.inRange → s.sweep.inRange → s.engine.arbiterInRange → step s = .next s' →
     s'.time.inRange ∧ s'.sweep.inRange ∧ s'.engine.arbiterInRange)
  ∧ (∀ s s' : State, s.link.inOrder → step s = .next s' → s'.link.inOrder)
  ∧ (∀ s s' : State, s.engine.pointersInRange → step s = .next s' → s'.engine.pointersInRange)
  ∧ (∀ s s' : State, Memory.wf s → s.evacuationHolds → s.heldInRange → s.priorsHold → step s = .next s' →
     s'.evacuationHolds ∧ s'.heldInRange ∧ s'.priorsHold)
  ∧ (∀ s s' : State, s.nothingToSend → step s = .next s' → s'.nothingToSend)

/-- State.reset has the canonical form, the ranges, the order of the link and the banks that every step keeps, and
nothing to send. -/
def Obligations.ResetMeetsInvariants : Prop :=
  Memory.wf State.reset ∧ State.reset.time.inRange ∧ State.reset.sweep.inRange
    ∧ State.reset.engine.arbiterInRange ∧ State.reset.link.inOrder ∧ State.reset.nothingToSend
    ∧ State.reset.engine.pointersInRange ∧ State.reset.evacuationHolds ∧ State.reset.heldInRange
    ∧ State.reset.priorsHold
end

