-- ==== Sys2Proof/Laws/Cells.lean ====
section
/-! SUPPORT. The numbered stores: what a read finds after each write, and that every write keeps the canonical form. -/

namespace Sys2Proof.Machine

variable {α : Type} [DecidableEq α] {d : α}

omit [DecidableEq α] in
@[simp] theorem cellRead_nil (a : Nat) : cellRead d [] a = d := rfl

omit [DecidableEq α] in
theorem cellsWf_nil : cellsWf d ([] : List (Nat × α)) := ⟨List.Pairwise.nil, by simp⟩

omit [DecidableEq α] in
theorem cellsWf_tail {e : Nat × α} {m : List (Nat × α)} (h : cellsWf d (e :: m)) : cellsWf d m :=
  ⟨h.1.of_cons, fun x hx => h.2 x (List.mem_cons_of_mem _ hx)⟩

omit [DecidableEq α] in
/-- Below every listed number a store holds what an unlisted number holds. -/
theorem cellRead_below {m : List (Nat × α)} {a : Nat} (h : ∀ e ∈ m, a < e.1) : cellRead d m a = d := by
  induction m with
  | nil => rfl
  | cons e m ih =>
    obtain ⟨k, w⟩ := e
    have hk : a < k := h (k, w) (by simp)
    simp only [cellRead, if_neg (Nat.ne_of_gt hk)]
    exact ih fun x hx => h x (List.mem_cons_of_mem _ hx)

omit [DecidableEq α] in
theorem cellsWf_head {k : Nat} {w : α} {m : List (Nat × α)} (h : cellsWf d ((k, w) :: m)) :
    ∀ e ∈ m, k < e.1 := fun e he => (List.pairwise_cons.1 h.1).1 e he

theorem cellRead_write_same {m : List (Nat × α)} (h : cellsWf d m) (a : Nat) (v : α) :
    cellRead d (cellWrite d m a v) a = v := by
  induction m with
  | nil =>
    by_cases hv : v = d
    · simp [cellWrite, hv]
    · simp [cellWrite, hv, cellRead]
  | cons e m ih =>
    obtain ⟨k, w⟩ := e
    have hb := cellsWf_head h
    rw [cellWrite]
    by_cases h1 : a < k
    · rw [if_pos h1]
      by_cases hv : v = d
      · rw [if_pos hv, hv]
        refine cellRead_below fun x hx => ?_
        rcases List.mem_cons.1 hx with rfl | hx
        · exact h1
        · exact Nat.lt_trans h1 (hb x hx)
      · rw [if_neg hv]; simp [cellRead]
    · rw [if_neg h1]
      by_cases h2 : a = k
      · subst h2
        rw [if_pos rfl]
        by_cases hv : v = d
        · rw [if_pos hv, hv]; exact cellRead_below hb
        · rw [if_neg hv]; simp [cellRead]
      · rw [if_neg h2, cellRead, if_neg (Ne.symm h2)]
        exact ih (cellsWf_tail h)

theorem cellRead_write_other {m : List (Nat × α)} (h : cellsWf d m) {a b : Nat} (v : α) (hab : b ≠ a) :
    cellRead d (cellWrite d m a v) b = cellRead d m b := by
  induction m with
  | nil =>
    by_cases hv : v = d
    · simp [cellWrite, hv]
    · simp [cellWrite, hv, cellRead, Ne.symm hab]
  | cons e m ih =>
    obtain ⟨k, w⟩ := e
    rw [cellWrite]
    by_cases h1 : a < k
    · rw [if_pos h1]
      by_cases hv : v = d
      · rw [if_pos hv]
      · rw [if_neg hv]; simp [cellRead, Ne.symm hab]
    · rw [if_neg h1]
      by_cases h2 : a = k
      · subst h2
        rw [if_pos rfl]
        by_cases hv : v = d
        · rw [if_pos hv]; simp [cellRead, Ne.symm hab]
        · rw [if_neg hv]; simp [cellRead, Ne.symm hab]
      · rw [if_neg h2, cellRead, cellRead, ih (cellsWf_tail h)]

theorem cellWrite_bound {m : List (Nat × α)} {a b : Nat} {v : α} (h : ∀ e ∈ m, b < e.1) (hab : b < a) :
    ∀ e ∈ cellWrite d m a v, b < e.1 := by
  induction m with
  | nil => intro e he; by_cases hv : v = d <;> simp_all [cellWrite]
  | cons x m ih =>
    obtain ⟨k, w⟩ := x
    have hk : b < k := h (k, w) (by simp)
    have hm : ∀ e ∈ m, b < e.1 := fun e he => h e (List.mem_cons_of_mem _ he)
    intro e he
    rw [cellWrite] at he
    split at he
    · split at he
      · exact h e he
      · rcases List.mem_cons.1 he with rfl | he
        · exact hab
        · exact h e he
    · split at he
      · split at he
        · exact hm e he
        · rcases List.mem_cons.1 he with rfl | he
          · exact hab
          · exact hm e he
      · rcases List.mem_cons.1 he with rfl | he
        · exact hk
        · exact ih hm e he

theorem cellWrite_values {m : List (Nat × α)} {a : Nat} {v : α} (h : ∀ e ∈ m, e.2 ≠ d) :
    ∀ e ∈ cellWrite d m a v, e.2 ≠ d := by
  induction m with
  | nil => intro e he; by_cases hv : v = d <;> simp_all [cellWrite]
  | cons x m ih =>
    have hx := h x (by simp)
    have hm : ∀ e ∈ m, e.2 ≠ d := fun e he => h e (List.mem_cons_of_mem _ he)
    obtain ⟨k, w⟩ := x
    intro e he
    rw [cellWrite] at he
    split at he
    · split at he
      · exact h e he
      · next hv => rcases List.mem_cons.1 he with rfl | he
                   · exact hv
                   · exact h e he
    · split at he
      · split at he
        · exact hm e he
        · next hv => rcases List.mem_cons.1 he with rfl | he
                     · exact hv
                     · exact hm e he
      · rcases List.mem_cons.1 he with rfl | he
        · exact hx
        · exact ih hm e he

/-- A write keeps the canonical form. -/
theorem cellsWf_write {m : List (Nat × α)} (h : cellsWf d m) (a : Nat) (v : α) : cellsWf d (cellWrite d m a v) := by
  refine ⟨?_, cellWrite_values h.2⟩
  induction m with
  | nil => by_cases hv : v = d <;> simp [cellWrite, hv]
  | cons x m ih =>
    obtain ⟨k, w⟩ := x
    have hb := cellsWf_head h
    have ht := cellsWf_tail h
    rw [cellWrite]
    split
    · next h1 =>
      split
      · exact h.1
      · refine List.pairwise_cons.2 ⟨fun e he => ?_, h.1⟩
        rcases List.mem_cons.1 he with rfl | he
        · exact h1
        · exact Nat.lt_trans h1 (hb e he)
    · next h1 =>
      split
      · next h2 =>
        split
        · exact ht.1
        · exact List.pairwise_cons.2 ⟨fun e he => h2 ▸ hb e he, ht.1⟩
      · next h2 =>
        exact List.pairwise_cons.2 ⟨cellWrite_bound hb (by omega), ih ht⟩

omit [DecidableEq α] in
theorem pairwise_sub {m m' : List (Nat × α)} (h : m.Pairwise (fun e f => e.1 < f.1))
    (hs : (m'.map (·.1)).Sublist (m.map (·.1))) : m'.Pairwise (fun e f => e.1 < f.1) := by
  have h1 : (m.map (·.1)).Pairwise (· < ·) := List.pairwise_map.2 h
  exact List.pairwise_map.1 (h1.sublist hs)

/-- Putting every number through a function keeps the canonical form. -/
theorem cellsWf_map {m : List (Nat × α)} (h : cellsWf d m) (f : α → α) : cellsWf d (cellMap d f m) := by
  refine ⟨pairwise_sub h.1 ?_, fun e he => ?_⟩
  · have : (m.map fun e => (e.1, f e.2)).map (·.1) = m.map (·.1) := by simp
    rw [← this]
    exact List.filter_sublist.map _
  · simpa [cellMap] using (List.mem_filter.1 he).2

omit [DecidableEq α] in
/-- Erasing numbers keeps the canonical form. -/
theorem cellsWf_erase {m : List (Nat × α)} (h : cellsWf d m) (p : Nat → Bool) : cellsWf d (cellErase p m) :=
  ⟨pairwise_sub h.1 (List.filter_sublist.map _), fun e he => h.2 e (List.mem_filter.1 he).1⟩

omit [DecidableEq α] in
theorem cellRead_erase {m : List (Nat × α)} (p : Nat → Bool) (a : Nat) :
    cellRead d (cellErase p m) a = if p a then d else cellRead d m a := by
  induction m with
  | nil => simp [cellErase]
  | cons x m ih =>
    obtain ⟨k, w⟩ := x
    unfold cellErase at ih ⊢
    rw [List.filter_cons]
    by_cases hk : k = a
    · subst hk
      by_cases hp : p k <;> simp [hp, cellRead]
      simpa [hp] using ih
    · by_cases hp : p k <;> simp [hp, cellRead, hk, ih]

theorem cellRead_map {m : List (Nat × α)} (h : m.Pairwise (fun e f => e.1 < f.1)) (f : α → α) (hf : f d = d)
    (a : Nat) : cellRead d (cellMap d f m) a = f (cellRead d m a) := by
  induction m with
  | nil => simp [cellMap, hf]
  | cons x m ih =>
    obtain ⟨k, w⟩ := x
    have ih := ih h.of_cons
    have hb : ∀ e ∈ m, k < e.1 := fun e he => (List.pairwise_cons.1 h).1 e he
    unfold cellMap at ih ⊢
    rw [List.map_cons, List.filter_cons]
    by_cases hk : k = a
    · subst hk
      by_cases hw : f w = d
      · simp only [hw, ne_eq, not_true_eq_false, decide_false, Bool.false_eq_true, if_false, cellRead, if_true]
        rw [ih, cellRead_below hb, hf]
      · simp [hw, cellRead]
    · by_cases hw : f w = d <;> simp [hw, cellRead, hk] <;> simpa using ih

/-! ## Four-part values -/

@[simp] theorem Four.get_set_same {β : Type} (f : Four β) (i : Fin 4) (v : β) : (f.set i v).get i = v := by
  fin_cases i <;> rfl

@[simp] theorem Four.get_set_other {β : Type} (f : Four β) {i j : Fin 4} (v : β) (h : j ≠ i) :
    (f.set i v).get j = f.get j := by
  fin_cases i <;> fin_cases j <;> first | rfl | exact absurd rfl h

/-! ## Scanning -/

/-- A number a scan finds satisfies what was sought. -/
theorem scan_sound {size : Nat} {p : Nat → Bool} {n a r : Nat} (h : scan size p n a = some r) : p r = true := by
  induction n generalizing a with
  | zero => simp [scan] at h
  | succ n ih =>
    rw [scan] at h
    split at h
    · next hp => cases h; exact hp
    · exact ih h

/-- A scan that starts below `size` finds a number below `size`. -/
theorem scan_lt {size : Nat} {p : Nat → Bool} {n a r : Nat} (hs : 0 < size) (ha : a < size)
    (h : scan size p n a = some r) : r < size := by
  induction n generalizing a with
  | zero => simp [scan] at h
  | succ n ih =>
    rw [scan] at h
    split at h
    · cases h; exact ha
    · exact ih (Nat.mod_lt _ hs) h

end Sys2Proof.Machine
end

