-- ==== Sys2Proof/Laws/Bodies.lean ====
section
/-! SUPPORT. Record bodies in checked memory: what the words of a body make of a read, the canonical form of the bodies,
and what a turn's read or write of a body does. -/

namespace Sys2Proof.Machine

/-! ## A body as it is read -/

@[simp] theorem StoredBody.word_nil (r q : Record) (w : Nat) : (StoredBody.mk r q []).word w = .good := rfl

@[simp] theorem StoredBody.check_nil (r q : Record) : (StoredBody.mk r q []).check = .good := rfl

@[simp] theorem StoredBody.check_first (r q : Record) (m : InjectMode) :
    (StoredBody.mk r q [(0, m.check)]).check = m.check := by
  cases m <;> rfl

theorem StoredBody.field_same {α : Type} (b : StoredBody) (f : RecordField) (get : Record → α)
    (h : get b.written = get b.stored) : b.field f get = get b.stored := by
  unfold StoredBody.field
  split
  · exact h
  · rfl

/-- A field of a corrected word is returned as it was written. -/
theorem StoredBody.field_single {α : Type} (b : StoredBody) (f : RecordField) (get : Record → α)
    (h : b.word (Config.fieldWord f) = .single) : b.field f get = get b.written := if_pos h

/-- A field of a word that is not corrected is returned as it lies stored. -/
theorem StoredBody.field_stored {α : Type} (b : StoredBody) (f : RecordField) (get : Record → α)
    (h : b.word (Config.fieldWord f) ≠ .single) : b.field f get = get b.stored := if_neg h

/-- Data that lies as written is read so. -/
@[simp] theorem StoredBody.read_same (r : Record) (words : List (Nat × Check)) :
    (StoredBody.mk r r words).read = r := if_pos rfl

/-- A read takes every field from the word it lies in. -/
theorem StoredBody.read_eq (b : StoredBody) :
    b.read =
      { kit := b.field .kit (·.kit), cls := b.field .cls (·.cls), expiry := b.field .expiry (·.expiry)
        reserve := b.field .reserve (·.reserve), residue := b.field .residue (·.residue)
        outstanding := b.field .outstanding (·.outstanding), paidTotal := b.field .paidTotal (·.paidTotal)
        issued := b.field .issued (·.issued), acknowledged := b.field .acknowledged (·.acknowledged)
        awaiting := b.field .awaiting (·.awaiting), lastCheckIn := b.field .lastCheckIn (·.lastCheckIn)
        drift := b.field .drift (·.drift), frozen := b.field .frozen (·.frozen), prior := b.field .prior (·.prior)
        lapseNoted := b.field .lapseNoted (·.lapseNoted), silenceNoted := b.field .silenceNoted (·.silenceNoted)
        marks := b.field .marks (·.marks) } := by
  unfold StoredBody.read
  split
  · next h => simp [StoredBody.field, h]
  · rfl

/-- A body without a corrected word is read as it lies stored. -/
theorem StoredBody.read_stored (b : StoredBody) (h : ∀ w, b.word w ≠ .single) : b.read = b.stored := by
  rw [StoredBody.read_eq]
  simp only [StoredBody.field_stored b _ _ (h _)]

/-- What holds of a field of both the written and the stored data holds of it as read. -/
theorem StoredBody.field_of {α : Type} (b : StoredBody) (f : RecordField) (get : Record → α) (p : α → Prop)
    (hw : p (get b.written)) (hs : p (get b.stored)) : p (b.field f get) := by
  unfold StoredBody.field
  split
  · exact hw
  · exact hs

/-! ## The canonical form of the bodies -/

theorem mem_cellWrite {α : Type} [DecidableEq α] {d : α} {m : List (Nat × α)} {a : Nat} {v : α} {e : Nat × α}
    (h : e ∈ cellWrite d m a v) : e = (a, v) ∨ e ∈ m := by
  induction m with
  | nil =>
    by_cases hv : v = d
    · simp [cellWrite, hv] at h
    · simp [cellWrite, hv] at h
      exact .inl h
  | cons x m ih =>
    obtain ⟨k, w⟩ := x
    rw [cellWrite] at h
    split at h
    · split at h
      · exact .inr h
      · rcases List.mem_cons.1 h with h | h
        · exact .inl h
        · exact .inr h
    · split at h
      · split at h
        · exact .inr (List.mem_cons_of_mem _ h)
        · rcases List.mem_cons.1 h with h | h
          · exact .inl h
          · exact .inr (List.mem_cons_of_mem _ h)
      · rcases List.mem_cons.1 h with h | h
        · exact .inr (h ▸ List.mem_cons_self)
        · exact (ih h).imp id (List.mem_cons_of_mem _)

theorem mem_of_cellRead {α : Type} {d : α} {m : List (Nat × α)} {a : Nat} :
    cellRead d m a = d ∨ ∃ e ∈ m, e.2 = cellRead d m a := by
  induction m with
  | nil => exact .inl rfl
  | cons x m ih =>
    obtain ⟨k, w⟩ := x
    rw [cellRead]
    split
    · exact .inr ⟨(k, w), List.mem_cons_self, rfl⟩
    · exact ih.imp id fun ⟨e, he, h⟩ => ⟨e, List.mem_cons_of_mem _ he, h⟩

/-- Writing a body whose words have their canonical form keeps that of the bodies. -/
theorem bodiesWf_write {m : List (Nat × StoredBody)} (h : bodiesWf m) (a : Nat) {v : StoredBody}
    (hv : cellsWf Check.good v.words) : bodiesWf (cellWrite StoredBody.cleared m a v) := by
  refine ⟨cellsWf_write h.1 a v, fun e he => ?_⟩
  rcases mem_cellWrite he with rfl | he
  · exact hv
  · exact h.2 e he

/-- Erasing bodies keeps their canonical form. -/
theorem bodiesWf_erase {m : List (Nat × StoredBody)} (h : bodiesWf m) (p : Nat → Bool) : bodiesWf (cellErase p m) :=
  ⟨cellsWf_erase h.1 p, fun e he => h.2 e (List.mem_filter.1 he).1⟩

/-- The words of a body that is read have their canonical form. -/
theorem body_wordsWf {s : State} (h : bodiesWf s.memory.bodies) (slot : Nat) :
    cellsWf Check.good (s.body slot).words := by
  unfold State.body
  rcases mem_of_cellRead (d := StoredBody.cleared) (m := s.memory.bodies) (a := slot) with h' | ⟨e, he, h'⟩
  · rw [h']
    exact cellsWf_nil
  · exact h' ▸ h.2 e he

/-! ## The reads and writes of a body in a turn -/

theorem Turn.putBody_body_same {t : Turn} (h : bodiesWf t.s.memory.bodies) (slot : Nat) (r : Record) :
    (t.putBody slot r).s.body slot = ⟨r, r, []⟩ := cellRead_write_same h.1 slot _

theorem Turn.putBody_body_other {t : Turn} (h : bodiesWf t.s.memory.bodies) {slot x : Nat} (r : Record)
    (hx : x ≠ slot) : (t.putBody slot r).s.body x = t.s.body x := cellRead_write_other h.1 _ hx

theorem spoilBody_body_same {s : State} (h : bodiesWf s.memory.bodies) (slot : Nat) (m : InjectMode) :
    (s.spoilBody slot m).body slot =
      { s.body slot with words := cellWrite .good (s.body slot).words 0 m.check } := cellRead_write_same h.1 slot _

theorem spoilBody_body_other {s : State} (h : bodiesWf s.memory.bodies) {slot x : Nat} (m : InjectMode)
    (hx : x ≠ slot) : (s.spoilBody slot m).body x = s.body x := cellRead_write_other h.1 _ hx

/-- The data a read of a live slot gives. -/
theorem Turn.readLive_record (t : Turn) (slot : Nat) (wb : Bool) : (t.readLive slot wb).2 = t.s.reading slot := by
  unfold Turn.readLive State.reading
  dsimp only
  split
  · rfl
  · split <;> rfl

/-- What a read of a live slot does: it corrects a body and writes it back, or makes the slot DAMAGED, or nothing. -/
theorem Turn.readLive_turn (t : Turn) (slot : Nat) (wb : Bool) :
    (t.readLive slot wb).1 =
      if t.s.corrects slot then
        (if wb then (t.countCorrected (bankIndex slot)).putBody slot (t.s.reading slot)
          else t.countCorrected (bankIndex slot))
      else if t.s.newlyDamaged slot then t.damage slot else t := by
  unfold Turn.readLive State.reading State.corrects State.newlyDamaged
  dsimp only
  cases hd : (t.s.tag slot).damaged
  · cases hc : (t.s.body slot).check <;> simp
  · simp

/-- A body that a turn has written with no injection armed for its slot is good. -/
theorem State.bodyWritten_good (s : State) (slot : Nat) (r : Record)
    (h : s.integrity.armed.map (·.target) ≠ some (.record slot)) : s.bodyWritten slot r = ⟨r, r, []⟩ := by
  unfold State.bodyWritten
  split
  · next x ha =>
    have : x ≠ slot := fun hx => h (by rw [ha, hx]; rfl)
    rw [if_neg this]
  · next x ha =>
    have : x ≠ slot := fun hx => h (by rw [ha, hx]; rfl)
    rw [if_neg this]
  · rfl

end Sys2Proof.Machine
end

