-- ==== Sys2Proof/Laws/Codes.lean ====
section
/-! SUPPORT. What the byte forms of fields give back. -/

namespace Sys2Proof.Machine

theorem beBytes_length (n x : Nat) : (beBytes n x).length = n := by
  induction n generalizing x with
  | zero => rfl
  | succ n ih => simp [beBytes, ih]

/-- Bytes read after an accumulated value. -/
theorem ofBytes_append_acc (bs : List Byte) (acc : Nat) :
    bs.foldl (fun acc b => acc * 256 + b.toNat) acc = acc * 256 ^ bs.length + ofBytes bs := by
  induction bs generalizing acc with
  | nil => simp [ofBytes]
  | cons b bs ih =>
    have whole : ofBytes (b :: bs) = b.toNat * 256 ^ bs.length + ofBytes bs := by
      rw [ofBytes, List.foldl_cons, ih, Nat.zero_mul, Nat.zero_add]
    rw [List.foldl_cons, ih, whole, List.length_cons, pow_succ]
    ring

/-- A field that fits its width is read back as it was written. -/
theorem ofBytes_beBytes (n x : Nat) (h : x < 256 ^ n) : ofBytes (beBytes n x) = x := by
  induction n generalizing x with
  | zero => simp at h; simp [beBytes, ofBytes, h]
  | succ n ih =>
    have hq : x / 256 ^ n < 256 := Nat.div_lt_of_lt_mul (by rw [← pow_succ]; exact h)
    rw [beBytes, ofBytes, List.foldl_cons, ofBytes_append_acc, ih _ (Nat.mod_lt _ (by positivity)), beBytes_length,
      BitVec.toNat_ofNat, Nat.mod_eq_of_lt (by simpa using hq)]
    simpa using Nat.div_add_mod' x (256 ^ n)

/-- A field of a message is the field at its offset, where it was written. -/
theorem fieldAt_of_append (before after : List Byte) (n x : Nat) (h : x < 256 ^ n) :
    fieldAt before.length n (before ++ beBytes n x ++ after) = x := by
  rw [fieldAt, List.append_assoc, List.drop_left,
    List.take_left' (by rw [beBytes_length]), ofBytes_beBytes n x h]

end Sys2Proof.Machine
end

