-- ==== Sys2Proof/Laws/State.lean ====
section
/-! SUPPORT. What each named update of the state leaves as it stands, field by field. -/

namespace Sys2Proof.Machine

namespace State

variable (s : State)

@[simp] theorem respond_keeps (code : Byte) (st : Status) (fields : List Byte) :
    (s.respond code st fields).time = s.time ∧ (s.respond code st fields).tariff = s.tariff
      ∧ (s.respond code st fields).memory = s.memory ∧ (s.respond code st fields).dir = s.dir
      ∧ (s.respond code st fields).engine = s.engine ∧ (s.respond code st fields).link = s.link
      ∧ (s.respond code st fields).sweep = s.sweep ∧ (s.respond code st fields).integrity = s.integrity
      ∧ (s.respond code st fields).hostRead = s.hostRead ∧ (s.respond code st fields).pending = s.pending :=
  ⟨rfl, rfl, rfl, rfl, rfl, rfl, rfl, rfl, rfl, rfl⟩

@[simp] theorem refuse_keeps (code : Byte) (st : Status) :
    (s.refuse code st).time = s.time ∧ (s.refuse code st).tariff = s.tariff ∧ (s.refuse code st).memory = s.memory
      ∧ (s.refuse code st).dir = s.dir ∧ (s.refuse code st).engine = s.engine ∧ (s.refuse code st).link = s.link
      ∧ (s.refuse code st).sweep = s.sweep ∧ (s.refuse code st).integrity = s.integrity
      ∧ (s.refuse code st).hostRead = s.hostRead ∧ (s.refuse code st).pending = s.pending :=
  ⟨rfl, rfl, rfl, rfl, rfl, rfl, rfl, rfl, rfl, rfl⟩

@[simp] theorem release_keeps :
    s.release.time = s.time ∧ s.release.tariff = s.tariff ∧ s.release.memory = s.memory ∧ s.release.dir = s.dir
      ∧ s.release.link = s.link ∧ s.release.sweep = s.sweep ∧ s.release.integrity = s.integrity
      ∧ s.release.port = s.port ∧ s.release.hostRead = s.hostRead ∧ s.release.pending = s.pending :=
  ⟨rfl, rfl, rfl, rfl, rfl, rfl, rfl, rfl, rfl, rfl⟩

@[simp] theorem openWrite_keeps (bytes : List Byte) :
    (s.openWrite bytes).time = s.time ∧ (s.openWrite bytes).tariff = s.tariff
      ∧ (s.openWrite bytes).memory = s.memory ∧ (s.openWrite bytes).dir = s.dir
      ∧ (s.openWrite bytes).engine = s.engine ∧ (s.openWrite bytes).link = s.link
      ∧ (s.openWrite bytes).sweep = s.sweep ∧ (s.openWrite bytes).integrity = s.integrity
      ∧ (s.openWrite bytes).hostRead = s.hostRead ∧ (s.openWrite bytes).pending = s.pending :=
  ⟨rfl, rfl, rfl, rfl, rfl, rfl, rfl, rfl, rfl, rfl⟩

@[simp] theorem drives_keeps (acks : List Bool) :
    (s.drives acks).time = s.time ∧ (s.drives acks).tariff = s.tariff ∧ (s.drives acks).memory = s.memory
      ∧ (s.drives acks).dir = s.dir ∧ (s.drives acks).engine = s.engine ∧ (s.drives acks).link = s.link
      ∧ (s.drives acks).sweep = s.sweep ∧ (s.drives acks).integrity = s.integrity
      ∧ (s.drives acks).hostRead = s.hostRead ∧ (s.drives acks).pending = s.pending :=
  ⟨rfl, rfl, rfl, rfl, rfl, rfl, rfl, rfl, rfl, rfl⟩

@[simp] theorem discardLong_keeps :
    s.discardLong.time = s.time ∧ s.discardLong.tariff = s.tariff ∧ s.discardLong.memory = s.memory
      ∧ s.discardLong.dir = s.dir ∧ s.discardLong.engine = s.engine ∧ s.discardLong.link = s.link
      ∧ s.discardLong.sweep = s.sweep ∧ s.discardLong.integrity = s.integrity ∧ s.discardLong.hostRead = s.hostRead
      ∧ s.discardLong.pending = s.pending :=
  ⟨rfl, rfl, rfl, rfl, rfl, rfl, rfl, rfl, rfl, rfl⟩

@[simp] theorem discardExtra_keeps (bytes : List Byte) :
    (s.discardExtra bytes).time = s.time ∧ (s.discardExtra bytes).tariff = s.tariff
      ∧ (s.discardExtra bytes).memory = s.memory ∧ (s.discardExtra bytes).dir = s.dir
      ∧ (s.discardExtra bytes).engine = s.engine ∧ (s.discardExtra bytes).link = s.link
      ∧ (s.discardExtra bytes).sweep = s.sweep ∧ (s.discardExtra bytes).integrity = s.integrity
      ∧ (s.discardExtra bytes).hostRead = s.hostRead ∧ (s.discardExtra bytes).pending = s.pending :=
  ⟨rfl, rfl, rfl, rfl, rfl, rfl, rfl, rfl, rfl, rfl⟩

@[simp] theorem readTransaction_keeps (count : Nat) :
    (s.readTransaction count).time = s.time ∧ (s.readTransaction count).tariff = s.tariff
      ∧ (s.readTransaction count).memory = s.memory ∧ (s.readTransaction count).dir = s.dir
      ∧ (s.readTransaction count).engine = s.engine ∧ (s.readTransaction count).link = s.link
      ∧ (s.readTransaction count).sweep = s.sweep ∧ (s.readTransaction count).integrity = s.integrity
      ∧ (s.readTransaction count).pending = s.pending :=
  ⟨rfl, rfl, rfl, rfl, rfl, rfl, rfl, rfl, rfl⟩

@[simp] theorem setBank_keeps (b : Fin 4) (v : Bank) :
    (s.setBank b v).time = s.time ∧ (s.setBank b v).tariff = s.tariff ∧ (s.setBank b v).dir = s.dir
      ∧ (s.setBank b v).engine = s.engine ∧ (s.setBank b v).link = s.link ∧ (s.setBank b v).sweep = s.sweep
      ∧ (s.setBank b v).integrity = s.integrity ∧ (s.setBank b v).port = s.port
      ∧ (s.setBank b v).hostRead = s.hostRead ∧ (s.setBank b v).pending = s.pending :=
  ⟨rfl, rfl, rfl, rfl, rfl, rfl, rfl, rfl, rfl, rfl⟩

@[simp] theorem putTag_keeps (slot : Nat) (t : Tag) :
    (s.putTag slot t).time = s.time ∧ (s.putTag slot t).tariff = s.tariff ∧ (s.putTag slot t).dir = s.dir
      ∧ (s.putTag slot t).link = s.link ∧ (s.putTag slot t).sweep = s.sweep
      ∧ (s.putTag slot t).integrity = s.integrity ∧ (s.putTag slot t).port = s.port
      ∧ (s.putTag slot t).hostRead = s.hostRead ∧ (s.putTag slot t).pending = s.pending :=
  ⟨rfl, rfl, rfl, rfl, rfl, rfl, rfl, rfl, rfl⟩

@[simp] theorem putClass_keeps (c : Nat) (v : TariffClass) :
    (s.putClass c v).time = s.time ∧ (s.putClass c v).memory = s.memory ∧ (s.putClass c v).dir = s.dir
      ∧ (s.putClass c v).engine = s.engine ∧ (s.putClass c v).link = s.link ∧ (s.putClass c v).sweep = s.sweep
      ∧ (s.putClass c v).integrity = s.integrity ∧ (s.putClass c v).port = s.port
      ∧ (s.putClass c v).hostRead = s.hostRead ∧ (s.putClass c v).pending = s.pending :=
  ⟨rfl, rfl, rfl, rfl, rfl, rfl, rfl, rfl, rfl, rfl⟩

@[simp] theorem putChannel_keeps (c : Nat) (v : Option Channel) :
    (s.putChannel c v).time = s.time ∧ (s.putChannel c v).tariff = s.tariff ∧ (s.putChannel c v).memory = s.memory
      ∧ (s.putChannel c v).dir = s.dir ∧ (s.putChannel c v).engine = s.engine ∧ (s.putChannel c v).sweep = s.sweep
      ∧ (s.putChannel c v).integrity = s.integrity ∧ (s.putChannel c v).port = s.port
      ∧ (s.putChannel c v).hostRead = s.hostRead ∧ (s.putChannel c v).pending = s.pending :=
  ⟨rfl, rfl, rfl, rfl, rfl, rfl, rfl, rfl, rfl, rfl⟩

@[simp] theorem clearBank_keeps (b : Fin 4) :
    (s.clearBank b).time = s.time ∧ (s.clearBank b).tariff = s.tariff ∧ (s.clearBank b).dir = s.dir
      ∧ (s.clearBank b).engine = s.engine ∧ (s.clearBank b).link = s.link ∧ (s.clearBank b).sweep = s.sweep
      ∧ (s.clearBank b).integrity = s.integrity ∧ (s.clearBank b).port = s.port
      ∧ (s.clearBank b).hostRead = s.hostRead ∧ (s.clearBank b).pending = s.pending :=
  ⟨rfl, rfl, rfl, rfl, rfl, rfl, rfl, rfl, rfl, rfl⟩

@[simp] theorem bankCleared_keeps (b : Fin 4) :
    (s.bankCleared b).time = s.time ∧ (s.bankCleared b).tariff = s.tariff ∧ (s.bankCleared b).dir = s.dir
      ∧ (s.bankCleared b).engine = s.engine ∧ (s.bankCleared b).link = s.link ∧ (s.bankCleared b).sweep = s.sweep
      ∧ (s.bankCleared b).integrity = s.integrity ∧ (s.bankCleared b).port = s.port
      ∧ (s.bankCleared b).hostRead = s.hostRead ∧ (s.bankCleared b).pending = s.pending :=
  ⟨rfl, rfl, rfl, rfl, rfl, rfl, rfl, rfl, rfl, rfl⟩

@[simp] theorem completeEvacuation_keeps (b : Fin 4) :
    (s.completeEvacuation b).time = s.time ∧ (s.completeEvacuation b).tariff = s.tariff
      ∧ (s.completeEvacuation b).dir = s.dir ∧ (s.completeEvacuation b).engine = s.engine
      ∧ (s.completeEvacuation b).link = s.link ∧ (s.completeEvacuation b).sweep = s.sweep
      ∧ (s.completeEvacuation b).integrity = s.integrity ∧ (s.completeEvacuation b).port = s.port
      ∧ (s.completeEvacuation b).hostRead = s.hostRead ∧ (s.completeEvacuation b).pending = s.pending :=
  ⟨rfl, rfl, rfl, rfl, rfl, rfl, rfl, rfl, rfl, rfl⟩

@[simp] theorem forgetBucket_keeps (b : Nat) :
    (s.forgetBucket b).time = s.time ∧ (s.forgetBucket b).tariff = s.tariff ∧ (s.forgetBucket b).dir = s.dir
      ∧ (s.forgetBucket b).engine = s.engine ∧ (s.forgetBucket b).link = s.link ∧ (s.forgetBucket b).sweep = s.sweep
      ∧ (s.forgetBucket b).integrity = s.integrity ∧ (s.forgetBucket b).port = s.port
      ∧ (s.forgetBucket b).hostRead = s.hostRead ∧ (s.forgetBucket b).pending = s.pending :=
  ⟨rfl, rfl, rfl, rfl, rfl, rfl, rfl, rfl, rfl, rfl⟩

@[simp] theorem spoilBody_keeps (slot : Nat) (m : InjectMode) :
    (s.spoilBody slot m).time = s.time ∧ (s.spoilBody slot m).tariff = s.tariff ∧ (s.spoilBody slot m).dir = s.dir
      ∧ (s.spoilBody slot m).engine = s.engine ∧ (s.spoilBody slot m).link = s.link
      ∧ (s.spoilBody slot m).sweep = s.sweep ∧ (s.spoilBody slot m).port = s.port
      ∧ (s.spoilBody slot m).hostRead = s.hostRead ∧ (s.spoilBody slot m).pending = s.pending :=
  ⟨rfl, rfl, rfl, rfl, rfl, rfl, rfl, rfl, rfl⟩

@[simp] theorem spoilWay_keeps (b : Nat) (w : Fin 4) (m : InjectMode) :
    (s.spoilWay b w m).time = s.time ∧ (s.spoilWay b w m).tariff = s.tariff ∧ (s.spoilWay b w m).memory = s.memory
      ∧ (s.spoilWay b w m).engine = s.engine ∧ (s.spoilWay b w m).link = s.link ∧ (s.spoilWay b w m).sweep = s.sweep
      ∧ (s.spoilWay b w m).port = s.port ∧ (s.spoilWay b w m).hostRead = s.hostRead
      ∧ (s.spoilWay b w m).pending = s.pending :=
  ⟨rfl, rfl, rfl, rfl, rfl, rfl, rfl, rfl, rfl⟩

@[simp] theorem pastSlot_keeps (slot : Nat) :
    (s.pastSlot slot).time = s.time ∧ (s.pastSlot slot).tariff = s.tariff ∧ (s.pastSlot slot).memory = s.memory
      ∧ (s.pastSlot slot).dir = s.dir ∧ (s.pastSlot slot).link = s.link ∧ (s.pastSlot slot).sweep = s.sweep
      ∧ (s.pastSlot slot).integrity = s.integrity ∧ (s.pastSlot slot).port = s.port
      ∧ (s.pastSlot slot).hostRead = s.hostRead ∧ (s.pastSlot slot).pending = s.pending :=
  ⟨rfl, rfl, rfl, rfl, rfl, rfl, rfl, rfl, rfl, rfl⟩

@[simp] theorem fetchPast_keeps (slot : Nat) :
    (s.fetchPast slot).time = s.time ∧ (s.fetchPast slot).tariff = s.tariff ∧ (s.fetchPast slot).memory = s.memory
      ∧ (s.fetchPast slot).dir = s.dir ∧ (s.fetchPast slot).link = s.link ∧ (s.fetchPast slot).sweep = s.sweep
      ∧ (s.fetchPast slot).integrity = s.integrity ∧ (s.fetchPast slot).port = s.port
      ∧ (s.fetchPast slot).hostRead = s.hostRead ∧ (s.fetchPast slot).pending = s.pending :=
  ⟨rfl, rfl, rfl, rfl, rfl, rfl, rfl, rfl, rfl, rfl⟩

@[simp] theorem countMove_keeps :
    s.countMove.time = s.time ∧ s.countMove.tariff = s.tariff ∧ s.countMove.memory = s.memory
      ∧ s.countMove.dir = s.dir ∧ s.countMove.link = s.link ∧ s.countMove.sweep = s.sweep
      ∧ s.countMove.integrity = s.integrity ∧ s.countMove.port = s.port ∧ s.countMove.hostRead = s.hostRead
      ∧ s.countMove.pending = s.pending :=
  ⟨rfl, rfl, rfl, rfl, rfl, rfl, rfl, rfl, rfl, rfl⟩

@[simp] theorem grant_keeps (r : Requester) :
    (s.grant r).time = s.time ∧ (s.grant r).tariff = s.tariff ∧ (s.grant r).memory = s.memory
      ∧ (s.grant r).dir = s.dir ∧ (s.grant r).link = s.link ∧ (s.grant r).sweep = s.sweep
      ∧ (s.grant r).integrity = s.integrity ∧ (s.grant r).port = s.port ∧ (s.grant r).hostRead = s.hostRead
      ∧ (s.grant r).pending = s.pending :=
  ⟨rfl, rfl, rfl, rfl, rfl, rfl, rfl, rfl, rfl, rfl⟩

@[simp] theorem dropBegun_keeps :
    s.dropBegun.time = s.time ∧ s.dropBegun.tariff = s.tariff ∧ s.dropBegun.memory = s.memory
      ∧ s.dropBegun.dir = s.dir ∧ s.dropBegun.link = s.link ∧ s.dropBegun.sweep = s.sweep
      ∧ s.dropBegun.integrity = s.integrity ∧ s.dropBegun.port = s.port ∧ s.dropBegun.hostRead = s.hostRead
      ∧ s.dropBegun.pending = s.pending :=
  ⟨rfl, rfl, rfl, rfl, rfl, rfl, rfl, rfl, rfl, rfl⟩

@[simp] theorem resume_keeps (b : BegunTurn) :
    (b.resume s).tariff = s.tariff ∧ (b.resume s).memory = s.memory ∧ (b.resume s).dir = s.dir
      ∧ (b.resume s).link = s.link ∧ (b.resume s).sweep = s.sweep ∧ (b.resume s).integrity = s.integrity
      ∧ (b.resume s).port = s.port ∧ (b.resume s).hostRead = s.hostRead ∧ (b.resume s).pending = s.pending :=
  ⟨rfl, rfl, rfl, rfl, rfl, rfl, rfl, rfl, rfl⟩

@[simp] theorem settle_keeps :
    s.settle.time = s.time ∧ s.settle.tariff = s.tariff ∧ s.settle.memory = s.memory ∧ s.settle.dir = s.dir
      ∧ s.settle.link = s.link ∧ s.settle.sweep = s.sweep ∧ s.settle.integrity = s.integrity
      ∧ s.settle.port = s.port ∧ s.settle.hostRead = s.hostRead ∧ s.settle.pending = s.pending :=
  ⟨rfl, rfl, rfl, rfl, rfl, rfl, rfl, rfl, rfl, rfl⟩

@[simp] theorem count_keeps (f : LinkCounters → LinkCounters) :
    (s.count f).time = s.time ∧ (s.count f).tariff = s.tariff ∧ (s.count f).memory = s.memory
      ∧ (s.count f).dir = s.dir ∧ (s.count f).engine = s.engine ∧ (s.count f).sweep = s.sweep
      ∧ (s.count f).integrity = s.integrity ∧ (s.count f).port = s.port ∧ (s.count f).hostRead = s.hostRead
      ∧ (s.count f).pending = s.pending :=
  ⟨rfl, rfl, rfl, rfl, rfl, rfl, rfl, rfl, rfl, rfl⟩

@[simp] theorem giveUp_keeps :
    s.giveUp.time = s.time ∧ s.giveUp.tariff = s.tariff ∧ s.giveUp.memory = s.memory ∧ s.giveUp.dir = s.dir
      ∧ s.giveUp.engine = s.engine ∧ s.giveUp.sweep = s.sweep ∧ s.giveUp.integrity = s.integrity
      ∧ s.giveUp.port = s.port ∧ s.giveUp.hostRead = s.hostRead ∧ s.giveUp.pending = s.pending :=
  ⟨rfl, rfl, rfl, rfl, rfl, rfl, rfl, rfl, rfl, rfl⟩

@[simp] theorem noticeUnknown_keeps :
    s.noticeUnknown.time = s.time ∧ s.noticeUnknown.tariff = s.tariff ∧ s.noticeUnknown.memory = s.memory
      ∧ s.noticeUnknown.dir = s.dir ∧ s.noticeUnknown.engine = s.engine ∧ s.noticeUnknown.sweep = s.sweep
      ∧ s.noticeUnknown.integrity = s.integrity ∧ s.noticeUnknown.port = s.port
      ∧ s.noticeUnknown.hostRead = s.hostRead ∧ s.noticeUnknown.pending = s.pending :=
  ⟨rfl, rfl, rfl, rfl, rfl, rfl, rfl, rfl, rfl, rfl⟩

@[simp] theorem takeArrival_keeps (a : Arrival) (rest : List Arrival) :
    (s.takeArrival a rest).time = s.time ∧ (s.takeArrival a rest).tariff = s.tariff
      ∧ (s.takeArrival a rest).memory = s.memory ∧ (s.takeArrival a rest).dir = s.dir
      ∧ (s.takeArrival a rest).engine = s.engine ∧ (s.takeArrival a rest).sweep = s.sweep
      ∧ (s.takeArrival a rest).integrity = s.integrity ∧ (s.takeArrival a rest).port = s.port
      ∧ (s.takeArrival a rest).hostRead = s.hostRead ∧ (s.takeArrival a rest).pending = s.pending :=
  ⟨rfl, rfl, rfl, rfl, rfl, rfl, rfl, rfl, rfl, rfl⟩

@[simp] theorem startSend_keeps (c : Nat) :
    (s.startSend c).time = s.time ∧ (s.startSend c).tariff = s.tariff ∧ (s.startSend c).memory = s.memory
      ∧ (s.startSend c).dir = s.dir ∧ (s.startSend c).engine = s.engine ∧ (s.startSend c).sweep = s.sweep
      ∧ (s.startSend c).integrity = s.integrity ∧ (s.startSend c).port = s.port
      ∧ (s.startSend c).hostRead = s.hostRead ∧ (s.startSend c).pending = s.pending :=
  ⟨rfl, rfl, rfl, rfl, rfl, rfl, rfl, rfl, rfl, rfl⟩

@[simp] theorem watchStamps_keeps :
    s.watchStamps.time = s.time ∧ s.watchStamps.tariff = s.tariff ∧ s.watchStamps.memory = s.memory
      ∧ s.watchStamps.dir = s.dir ∧ s.watchStamps.engine = s.engine ∧ s.watchStamps.sweep = s.sweep
      ∧ s.watchStamps.integrity = s.integrity ∧ s.watchStamps.port = s.port ∧ s.watchStamps.hostRead = s.hostRead
      ∧ s.watchStamps.pending = s.pending :=
  ⟨rfl, rfl, rfl, rfl, rfl, rfl, rfl, rfl, rfl, rfl⟩

@[simp] theorem leaveEnabled_keeps (dest : LinkState) :
    (s.leaveEnabled dest).time = s.time ∧ (s.leaveEnabled dest).tariff = s.tariff
      ∧ (s.leaveEnabled dest).memory = s.memory ∧ (s.leaveEnabled dest).dir = s.dir
      ∧ (s.leaveEnabled dest).sweep = s.sweep ∧ (s.leaveEnabled dest).integrity = s.integrity
      ∧ (s.leaveEnabled dest).port = s.port ∧ (s.leaveEnabled dest).hostRead = s.hostRead
      ∧ (s.leaveEnabled dest).pending = s.pending :=
  ⟨rfl, rfl, rfl, rfl, rfl, rfl, rfl, rfl, rfl⟩

@[simp] theorem startCheckInSearch_keeps (kit : KitId) :
    (s.startCheckInSearch kit).time = s.time ∧ (s.startCheckInSearch kit).tariff = s.tariff
      ∧ (s.startCheckInSearch kit).memory = s.memory ∧ (s.startCheckInSearch kit).dir = s.dir
      ∧ (s.startCheckInSearch kit).link = s.link ∧ (s.startCheckInSearch kit).sweep = s.sweep
      ∧ (s.startCheckInSearch kit).integrity = s.integrity ∧ (s.startCheckInSearch kit).port = s.port
      ∧ (s.startCheckInSearch kit).hostRead = s.hostRead ∧ (s.startCheckInSearch kit).pending = s.pending :=
  ⟨rfl, rfl, rfl, rfl, rfl, rfl, rfl, rfl, rfl, rfl⟩

@[simp] theorem tick_keeps :
    s.tick.tariff = s.tariff ∧ s.tick.memory = s.memory ∧ s.tick.dir = s.dir ∧ s.tick.engine = s.engine
      ∧ s.tick.link = s.link ∧ s.tick.integrity = s.integrity ∧ s.tick.port = s.port ∧ s.tick.hostRead = s.hostRead
      ∧ s.tick.pending = s.pending :=
  ⟨rfl, rfl, rfl, rfl, rfl, rfl, rfl, rfl, rfl⟩

@[simp] theorem quiet_keeps (n : Nat) :
    (s.quiet n).tariff = s.tariff ∧ (s.quiet n).memory = s.memory ∧ (s.quiet n).dir = s.dir
      ∧ (s.quiet n).engine = s.engine ∧ (s.quiet n).link = s.link ∧ (s.quiet n).sweep = s.sweep
      ∧ (s.quiet n).integrity = s.integrity ∧ (s.quiet n).port = s.port ∧ (s.quiet n).hostRead = s.hostRead
      ∧ (s.quiet n).pending = s.pending :=
  ⟨rfl, rfl, rfl, rfl, rfl, rfl, rfl, rfl, rfl, rfl⟩

@[simp] theorem answerTime_keeps (code : Byte) (t : TimeUnit) :
    (s.answerTime code t).tariff = s.tariff ∧ (s.answerTime code t).memory = s.memory
      ∧ (s.answerTime code t).dir = s.dir ∧ (s.answerTime code t).engine = s.engine
      ∧ (s.answerTime code t).link = s.link ∧ (s.answerTime code t).sweep = s.sweep
      ∧ (s.answerTime code t).integrity = s.integrity ∧ (s.answerTime code t).hostRead = s.hostRead
      ∧ (s.answerTime code t).pending = s.pending :=
  ⟨rfl, rfl, rfl, rfl, rfl, rfl, rfl, rfl, rfl⟩

@[simp] theorem endPass_keeps :
    s.endPass.time = s.time ∧ s.endPass.tariff = s.tariff ∧ s.endPass.memory = s.memory
      ∧ s.endPass.engine = s.engine ∧ s.endPass.link = s.link ∧ s.endPass.integrity = s.integrity
      ∧ s.endPass.port = s.port ∧ s.endPass.hostRead = s.hostRead ∧ s.endPass.pending = s.pending :=
  ⟨rfl, rfl, rfl, rfl, rfl, rfl, rfl, rfl, rfl⟩

@[simp] theorem spendCredit_keeps :
    s.spendCredit.time = s.time ∧ s.spendCredit.tariff = s.tariff ∧ s.spendCredit.memory = s.memory
      ∧ s.spendCredit.dir = s.dir ∧ s.spendCredit.engine = s.engine ∧ s.spendCredit.link = s.link
      ∧ s.spendCredit.integrity = s.integrity ∧ s.spendCredit.port = s.port ∧ s.spendCredit.hostRead = s.hostRead
      ∧ s.spendCredit.pending = s.pending :=
  ⟨rfl, rfl, rfl, rfl, rfl, rfl, rfl, rfl, rfl, rfl⟩

@[simp] theorem arm_keeps (target : InjectTarget) (mode : InjectMode) :
    (s.arm target mode).time = s.time ∧ (s.arm target mode).tariff = s.tariff
      ∧ (s.arm target mode).memory = s.memory ∧ (s.arm target mode).dir = s.dir
      ∧ (s.arm target mode).engine = s.engine ∧ (s.arm target mode).link = s.link
      ∧ (s.arm target mode).sweep = s.sweep ∧ (s.arm target mode).port = s.port
      ∧ (s.arm target mode).hostRead = s.hostRead ∧ (s.arm target mode).pending = s.pending :=
  ⟨rfl, rfl, rfl, rfl, rfl, rfl, rfl, rfl, rfl, rfl⟩

@[simp] theorem endEvacuation_keeps (b : Fin 4) :
    (s.endEvacuation b).time = s.time ∧ (s.endEvacuation b).tariff = s.tariff ∧ (s.endEvacuation b).dir = s.dir
      ∧ (s.endEvacuation b).link = s.link ∧ (s.endEvacuation b).sweep = s.sweep
      ∧ (s.endEvacuation b).integrity = s.integrity ∧ (s.endEvacuation b).port = s.port
      ∧ (s.endEvacuation b).hostRead = s.hostRead ∧ (s.endEvacuation b).pending = s.pending :=
  ⟨rfl, rfl, rfl, rfl, rfl, rfl, rfl, rfl, rfl⟩

/-! ## The fields that are written -/

@[simp] theorem respond_port (code : Byte) (st : Status) (fields : List Byte) : (s.respond code st fields).port =
    { s.port with resp := responseBytes code st fields, responseReady := true } := rfl

@[simp] theorem openWrite_port (bytes : List Byte) : (s.openWrite bytes).port =
    { s.port with
      rx := bytes.take Config.bufferBytes, resp := [], responseReady := false
      acks := acknowledged bytes.length } := rfl

@[simp] theorem drives_port (acks : List Bool) : (s.drives acks).port = { s.port with acks := acks } := rfl

@[simp] theorem settle_engine : s.settle.engine = { s.engine with
    waits := s.engine.waits.kept s.waits
    begun := s.engine.begun.map fun b => { b with waits := b.waits.kept s.waits } } := rfl

@[simp] theorem tick_time : s.tick.time = s.time.tick := rfl

@[simp] theorem tick_sweep : s.tick.sweep = s.sweep.tick := rfl

@[simp] theorem dropBegun_engine : s.dropBegun.engine = { s.engine with begun := none } := rfl

/-- The minute a completed turn reads is the one read at its start (R27). -/
@[simp] theorem resume_now (b : BegunTurn) : (b.resume s).now = b.now := by
  obtain ⟨_, now, _, _⟩ := b
  cases now <;> rfl

@[simp] theorem resume_timer (b : BegunTurn) : (b.resume s).time.timer = s.time.timer := by
  obtain ⟨_, now, _, _⟩ := b
  cases now <;> rfl

@[simp] theorem resume_engine (b : BegunTurn) : (b.resume s).engine =
    { s.engine with waits := b.waits, consecutive := b.consecutive, begun := none } := rfl

@[simp] theorem settle_engine_held : s.settle.engine.held = s.engine.held := rfl

@[simp] theorem release_engine : s.release.engine = { s.engine with held := none, commandSearch := none } := rfl

@[simp] theorem leaveEnabled_state (dest : LinkState) : (s.leaveEnabled dest).link.state = dest := rfl

@[simp] theorem arm_armed (target : InjectTarget) (mode : InjectMode) :
    (s.arm target mode).integrity.armed = some ⟨target, mode⟩ := rfl

end State

end Sys2Proof.Machine
end

