-- ==== Sys2Proof/Laws/Steps.lean ====
section
/-! SUPPORT. How each kind of row comes to its meaning: the turn that a turn row is, and the command that a host
command's row takes. -/

namespace Sys2Proof.Machine

theorem exec_commandTurn {s : State} {c : RecordCommand} (h : s.commandTurnFor c) :
    exec .commandTurn s = .next (s.turn .command c.work) := by
  obtain ⟨_, held, search, granted⟩ := h
  simp [exec, execCommandTurn, held, search, granted]

theorem exec_checkInTurn {s : State} {a : Arrival} {rest : List Arrival} (h : CheckInNext s a rest) :
    exec .checkInTurn s = .next (s.turn .checkIn (workCheckIn a rest)) := by
  obtain ⟨_, queue, search, granted⟩ := h
  simp [exec, execCheckInTurn, queue, search, granted]

/-- With no check-in turn to grant, the one found in progress as the link left ENABLED is completed (R116). -/
theorem exec_checkInTurn_begun {s : State} {b : BegunTurn} (search : s.engine.checkInSearch = none)
    (other : s.link.queue = [] ∨ s.arbiter ≠ some .checkIn) (begun : s.engine.begun = some b) :
    exec .checkInTurn s = .next (s.finishTurn b) := by
  simp only [exec, execCheckInTurn, search, begun]
  split <;> simp_all

theorem exec_sweepVisit {s : State} (h : s.arbiter = some .sweep) :
    exec .sweepVisit s = .next (s.turn .sweep workSweepVisit) := by
  simp [exec, execSweepVisit, h]

theorem exec_evacuationMove {s : State} (h : s.arbiter = some .evacuation) :
    exec .evacuationMove s = .next (s.turn .evacuation workEvacuationMove) := by
  simp [exec, execEvacuationMove, h]

theorem exec_searchStep {s : State} {c : RecordCommand} {se : Search} (search : s.engine.commandSearch = some se)
    (open' : se.found = none) (granted : s.arbiter = some .command) (_ : s.engine.held = some c) :
    exec .searchStep s = .next (s.turn .command (workSearchStep .command se)) := by
  obtain ⟨kit, home, next, found⟩ := se
  subst open'
  simp [exec, execSearchStep, State.searchOf, search, granted]

theorem exec_usingTurn {s : State} {kit : KitId} {home next slot : Nat}
    (search : s.engine.commandSearch = some ⟨kit, home, next, some slot⟩) (granted : s.arbiter = some .command) :
    exec .usingTurn s = .next (s.turn .command (workUsingTurn .command kit slot)) := by
  simp [exec, execUsingTurn, State.searchOf, search, granted]

/-- A host command's row sends its command. -/
theorem exec_hostCommand {i : Instr} {c : HostCommand} (h : hostCommandOf i = some c) (s : State) :
    exec i s = .next (s.send c) := by
  cases i <;> first | (injection h with h; subst h; rfl) | cases h

/-- To a port that is not BUSY a command is taken. -/
theorem send_of_free {s : State} (h : s.busy = false) (c : HostCommand) :
    s.send c = takeCommand c (s.openWrite c.message) := by
  simp [State.send, h]

/-- The state in which a command is taken differs from the state before in the port's buffers only. -/
theorem openWrite_eq (s : State) (bytes : List Byte) : s.openWrite bytes
    = { s with port := { s.port with
        rx := bytes.take 64, resp := [], responseReady := false, acks := acknowledged bytes.length } } := rfl

end Sys2Proof.Machine
end

