-- ==== Sys2Proof/Laws/Turns.lean ====
section
/-! SUPPORT. What the pieces of a record engine turn can do: one lemma for each shared operation. -/

namespace Sys2Proof.Machine

-- One theorem after the other: many at once would need more threads than the memory limit has room for.
set_option Elab.async false

/-- What every piece of a turn's work keeps: the surroundings of the record engine, the arbiter's counts, the check-in
turn found in progress, the canonical form of the stores, the order of the link and the ranges of the sweep unit. -/
structure TurnKeeps (s s' : State) : Prop where
  surroundings : KeepsSurroundings s s'
  waits : s'.engine.waits = s.engine.waits
  consecutive : s'.engine.consecutive = s.engine.consecutive
  begun : s'.engine.begun = s.engine.begun
  wf : Memory.wf s → Memory.wf s'
  link : s.link.inOrder → s'.link.inOrder
  sweep : s.sweep.inRange → s'.sweep.inRange

theorem TurnKeeps.refl (s : State) : TurnKeeps s s :=
  ⟨⟨rfl, rfl, rfl, rfl, rfl, rfl, rfl, rfl, rfl, rfl⟩, rfl, rfl, rfl, id, id, id⟩

theorem TurnKeeps.trans {a b c : State} (h : TurnKeeps a b) (k : TurnKeeps b c) : TurnKeeps a c := by
  obtain ⟨⟨h1, h2, h3, h4, h5, h6, h7, h8, h9, h10⟩, hw, hc, hb, hwf, hl, hs⟩ := h
  obtain ⟨⟨k1, k2, k3, k4, k5, k6, k7, k8, k9, k10⟩, kw, kc, kb, kwf, kl, ks⟩ := k
  refine ⟨⟨k1.trans h1, k2.trans h2, k3.trans h3, k4.trans h4, k5.trans h5, k6.trans h6, k7.trans h7, ?_,
    k9.trans h9, k10.trans h10⟩, kw.trans hw, kc.trans hc, kb.trans hb, kwf ∘ hwf, kl ∘ hl, ks ∘ hs⟩
  rw [k8, h8]

/-- The frame of an operation that leaves the link, the sweep unit and the port as they stand. -/
theorem TurnKeeps.ofInner {s s' : State} (hwf : Memory.wf s → Memory.wf s')
    (h : s'.time = s.time ∧ s'.tariff = s.tariff ∧ s'.link = s.link ∧ s'.sweep = s.sweep ∧ s'.port = s.port
      ∧ s'.hostRead = s.hostRead ∧ s'.pending = s.pending ∧ s'.engine.waits = s.engine.waits
      ∧ s'.engine.consecutive = s.engine.consecutive ∧ s'.engine.begun = s.engine.begun := by
        exact ⟨rfl, rfl, rfl, rfl, rfl, rfl, rfl, rfl, rfl, rfl⟩) : TurnKeeps s s' := by
  obtain ⟨ht, hta, hl, hs, hp, hh, hpe, hw, hc, hb⟩ := h
  refine ⟨⟨ht, hta, by rw [hl], by rw [hl], by rw [hl], by rw [hl], by rw [hs], by rw [hp], hh, hpe⟩, hw, hc, hb, hwf,
    fun k => hl ▸ k, fun k => hs ▸ k⟩

/-! ## Operations over states -/

theorem putTag_keeps (s : State) (slot : Nat) (t : Tag) : TurnKeeps s (s.putTag slot t) :=
  .ofInner fun h => ⟨h.1, cellsWf_write h.2.1 _ _, h.2.2⟩

theorem setBank_keeps (s : State) (b : Fin 4) (v : Bank) : TurnKeeps s (s.setBank b v) :=
  .ofInner id

theorem feedError_keeps (s : State) (p : ErrorPlace) (r : Requester) : TurnKeeps s (s.feedError p r) := by
  unfold State.feedError
  dsimp only
  split
  · exact .ofInner id
  · split <;> exact .ofInner id

theorem spoilBody_keeps (s : State) (slot : Nat) (m : InjectMode) : TurnKeeps s (s.spoilBody slot m) :=
  .ofInner fun h => ⟨bodiesWf_write h.1 _ (cellsWf_write (body_wordsWf h.1 slot) _ _), h.2⟩

theorem spoilWay_keeps (s : State) (b : Nat) (w : Fin 4) (m : InjectMode) : TurnKeeps s (s.spoilWay b w m) :=
  .ofInner fun h => ⟨h.1, h.2.1, cellsWf_write h.2.2.1 _ _, h.2.2.2⟩

theorem completeEvacuation_keeps (s : State) (b : Fin 4) : TurnKeeps s (s.completeEvacuation b) :=
  .ofInner fun (h : Memory.wf s) => show Memory.wf (s.completeEvacuation b) from
    ⟨bodiesWf_erase (m := s.memory.bodies) h.1 fun slot => decide (bankIndex slot = b), h.2⟩

theorem checkEvacuation_keeps (s : State) : TurnKeeps s s.checkEvacuation := by
  unfold State.checkEvacuation
  split
  · exact .refl s
  · split
    · exact completeEvacuation_keeps s _
    · exact .refl s

theorem pastSlot_keeps (s : State) (slot : Nat) : TurnKeeps s (s.pastSlot slot) := .ofInner id

theorem fetchPast_keeps (s : State) (slot : Nat) : TurnKeeps s (s.fetchPast slot) := .ofInner id

theorem countMove_keeps (s : State) : TurnKeeps s s.countMove := .ofInner id

theorem release_keeps (s : State) : TurnKeeps s s.release := .ofInner id

theorem respond_keeps (s : State) (code : Byte) (st : Status) (fields : List Byte) :
    TurnKeeps s (s.respond code st fields) :=
  ⟨⟨rfl, rfl, rfl, rfl, rfl, rfl, rfl, rfl, rfl, rfl⟩, rfl, rfl, rfl, id, id, id⟩

theorem putSearch_keeps (s : State) (owner : Requester) (se : Option Search) :
    TurnKeeps s (s.putSearch owner se) := by
  cases owner <;> exact .ofInner id

theorem startCheckInSearch_keeps (s : State) (kit : KitId) : TurnKeeps s (s.startCheckInSearch kit) :=
  .ofInner id

/-! ## The link's part of a turn -/

/-- The frame of an operation that changes only the link's queue, check-in in service, channels, transmitter and
counters. -/
theorem TurnKeeps.ofLink {s s' : State} (hwf : Memory.wf s → Memory.wf s')
    (hl : s.link.inOrder → s'.link.inOrder)
    (h : s'.time = s.time ∧ s'.tariff = s.tariff ∧ s'.link.config = s.link.config ∧ s'.link.state = s.link.state
      ∧ s'.link.parser = s.link.parser ∧ s'.link.stamp = s.link.stamp ∧ s'.sweep = s.sweep ∧ s'.port = s.port
      ∧ s'.hostRead = s.hostRead ∧ s'.pending = s.pending ∧ s'.engine = s.engine := by
        exact ⟨rfl, rfl, rfl, rfl, rfl, rfl, rfl, rfl, rfl, rfl, rfl⟩) : TurnKeeps s s' := by
  obtain ⟨ht, hta, h1, h2, h3, h4, hs, hp, hh, hpe, he⟩ := h
  exact ⟨⟨ht, hta, h1, h2, h3, h4, by rw [hs], by rw [hp], hh, hpe⟩, by rw [he], by rw [he], by rw [he], hwf, hl,
    fun k => hs ▸ k⟩

theorem count_keeps (s : State) (f : LinkCounters → LinkCounters) : TurnKeeps s (s.count f) :=
  .ofLink id id

theorem giveUp_keeps (s : State) : TurnKeeps s s.giveUp := .ofLink id id

theorem noticeUnknown_keeps (s : State) : TurnKeeps s s.noticeUnknown :=
  (count_keeps _ _).trans (giveUp_keeps _)

/-- A channel of an ENABLED link is written. -/
theorem putChannel_keeps {s : State} (he : s.link.state = .enabled) (c : Nat) (v : Option Channel) :
    TurnKeeps s (s.putChannel c v) :=
  .ofLink (fun h => ⟨h.1, h.2.1, h.2.2.1, h.2.2.2.1, h.2.2.2.2.1, cellsWf_write h.2.2.2.2.2 _ _⟩)
    fun h => ⟨fun hn => absurd he hn, h.2⟩

theorem startSend_keeps {s : State} (he : s.link.state = .enabled) (c : Nat) : TurnKeeps s (s.startSend c) := by
  refine (putChannel_keeps he c _).trans (.ofLink id fun h => ⟨fun hn => absurd he hn, h.2⟩)

theorem offer_keeps {s : State} (he : s.link.state = .enabled) : TurnKeeps s s.offer := by
  unfold State.offer
  split
  · exact .refl s
  · split
    · exact .refl s
    · exact startSend_keeps he _

theorem scheduleGrant_keeps {s : State} (he : s.link.state = .enabled) (g : Grant) (a : Arrival) :
    TurnKeeps s (s.scheduleGrant g a) := by
  unfold State.scheduleGrant
  split
  · exact count_keeps _ _
  · split
    · exact count_keeps _ _
    · exact (putChannel_keeps he _ _).trans (offer_keeps he)

theorem handOver_keeps (s : State) (g : Grant) (a : Arrival) : TurnKeeps s (s.handOver g a) := by
  unfold State.handOver
  split
  · next he => exact (scheduleGrant_keeps he g a).trans (giveUp_keeps _)
  · exact (count_keeps _ _).trans (giveUp_keeps _)

/-- A check-in is taken from the head of the queue, or was taken before, by a turn in progress. -/
theorem takeArrival_keeps (s : State) (a : Arrival) (rest : List Arrival)
    (h : s.link.queue = a :: rest ∨ s.link.queue = rest) : TurnKeeps s (s.takeArrival a rest) := by
  refine .ofLink id fun k => ⟨fun hn => ?_, ?_⟩
  · obtain ⟨h1, h2, h3, h4⟩ := k.1 hn
    refine ⟨h1, h2, ?_, h4⟩
    rcases h with h | h
    · rw [h] at h3
      exact absurd h3 (by simp)
    · exact h ▸ h3
  · have := k.2
    rcases h with h | h
    · rw [h, List.length_cons] at this
      exact Nat.le_of_succ_le this
    · exact h ▸ this

/-! ## The sweep's part of a turn -/

theorem endPass_keeps (s : State) : TurnKeeps s s.endPass :=
  ⟨⟨rfl, rfl, rfl, rfl, rfl, rfl, rfl, rfl, rfl, rfl⟩, rfl, rfl, rfl,
    fun h => ⟨h.1, h.2.1, cellsWf_map h.2.2.1 _, h.2.2.2⟩, id, id⟩

theorem movePosition_keeps (s : State) : TurnKeeps s s.movePosition := by
  have h : TurnKeeps s { s with sweep := { s.sweep with position := (s.sweep.position + 1) % Config.slots } } :=
    ⟨⟨rfl, rfl, rfl, rfl, rfl, rfl, rfl, rfl, rfl, rfl⟩, rfl, rfl, rfl, id, id,
      fun k => ⟨k.1, k.2.1, Nat.mod_lt _ (by decide)⟩⟩
  unfold State.movePosition
  dsimp only
  split
  · exact h.trans (endPass_keeps _)
  · exact h

theorem passOver_keeps (n : Nat) (s : State) : TurnKeeps s (s.passOver n) := by
  induction n generalizing s with
  | zero => exact .refl s
  | succ n ih =>
    rw [State.passOver]
    split
    · exact .refl s
    · exact (movePosition_keeps s).trans (ih _)

theorem spendCredit_keeps (s : State) : TurnKeeps s s.spendCredit :=
  ⟨⟨rfl, rfl, rfl, rfl, rfl, rfl, rfl, rfl, rfl, rfl⟩, rfl, rfl, rfl, id, id,
    fun k => ⟨k.1, Nat.le_trans (Nat.sub_le _ _) k.2.1, k.2.2⟩⟩

/-! ## Operations over turns -/

theorem Turn.map_keeps {t : Turn} {f : State → State} (h : TurnKeeps t.s (f t.s)) : TurnKeeps t.s (t.map f).s := h

theorem Turn.putBody_keeps (t : Turn) (slot : Nat) (r : Record) : TurnKeeps t.s (t.putBody slot r).s :=
  .ofInner fun h => ⟨bodiesWf_write h.1 _ cellsWf_nil, h.2⟩

theorem Turn.putTag_keeps (t : Turn) (slot : Nat) (tag : Tag) : TurnKeeps t.s (t.putTag slot tag).s :=
  Machine.putTag_keeps t.s slot tag

theorem Turn.putBucket_keeps (t : Turn) (b : Nat) (v : Bucket) (ws : List (Fin 4)) :
    TurnKeeps t.s (t.putBucket b v ws).s :=
  .ofInner fun h => ⟨h.1, h.2.1, cellsWf_write h.2.2.1 _ _, h.2.2.2⟩

theorem Turn.putWay_keeps (t : Turn) (b : Nat) (w : Fin 4) (e : Option Entry) : TurnKeeps t.s (t.putWay b w e).s :=
  Turn.putBucket_keeps _ _ _ _

theorem Turn.putSpill_keeps (t : Turn) (i : Nat) (e : Option SpillEntry) : TurnKeeps t.s (t.putSpill i e).s :=
  .ofInner fun h => ⟨h.1, h.2.1, h.2.2.1, cellsWf_write h.2.2.2.1 _ _, h.2.2.2.2⟩

theorem Turn.putRecord_keeps (t : Turn) (slot : Nat) (lc : Lifecycle) (r : Record) :
    TurnKeeps t.s (t.putRecord slot lc r).s :=
  (Turn.putBody_keeps t slot r).trans (Turn.putTag_keeps _ _ _)

theorem Turn.countCorrected_keeps (t : Turn) (b : Fin 4) : TurnKeeps t.s (t.countCorrected b).s :=
  setBank_keeps _ _ _

theorem Turn.damage_keeps (t : Turn) (slot : Nat) : TurnKeeps t.s (t.damage slot).s :=
  (Turn.putTag_keeps t slot _).trans (feedError_keeps _ _ _)

theorem Turn.readLive_keeps (t : Turn) (slot : Nat) (wb : Bool) : TurnKeeps t.s (t.readLive slot wb).1.s := by
  unfold Turn.readLive
  dsimp only
  split
  · exact .refl _
  · split
    · exact .refl _
    · cases wb
      · exact Turn.countCorrected_keeps _ _
      · exact (Turn.countCorrected_keeps _ _).trans (Turn.putBody_keeps _ _ _)
    · exact Turn.damage_keeps _ _

theorem Turn.freeSlot_keeps (t : Turn) (slot : Nat) : TurnKeeps t.s (t.freeSlot slot).s := Turn.putTag_keeps _ _ _

theorem Turn.write_keeps (t : Turn) : TurnKeeps t.s t.write := by
  unfold Turn.write
  split
  · exact .refl _
  · split
    · exact spoilBody_keeps _ _ _
    · exact .refl _
  · split
    · exact .refl _
    · exact spoilWay_keeps _ _ _ _

theorem Turn.answer_keeps (t : Turn) (code : Byte) (st : Status) (fields : List Byte) :
    TurnKeeps t.s (t.answer code st fields).s :=
  (release_keeps _).trans (respond_keeps _ _ _ _)

theorem Turn.refuse_keeps (t : Turn) (code : Byte) (st : Status) : TurnKeeps t.s (t.refuse code st).s :=
  Turn.answer_keeps _ _ _ _

/-! ## The directory's part of a turn -/

theorem Turn.countWay_keeps (t : Turn) : TurnKeeps t.s t.countWay.s := .ofInner id

theorem Turn.correctWay_keeps (b : Nat) (t : Turn) (w : Fin 4) : TurnKeeps t.s (Turn.correctWay b t w).s := by
  unfold Turn.correctWay
  dsimp only
  split
  · exact (Turn.putWay_keeps _ _ _ _).trans (Turn.countWay_keeps _)
  · exact .refl _

theorem forgetBucket_keeps (s : State) (b : Nat) : TurnKeeps s (s.forgetBucket b) :=
  .ofInner fun h => ⟨h.1, cellsWf_map h.2.1 _, h.2.2⟩

theorem Turn.wipe_keeps (t : Turn) (b : Nat) : TurnKeeps t.s (t.wipe b).s := by
  unfold Turn.wipe
  exact (Turn.putBucket_keeps t b _ _).trans ((forgetBucket_keeps _ b).trans (feedError_keeps _ _ _))

theorem foldl_keeps {β : Type} (f : Turn → β → Turn) (hf : ∀ t x, TurnKeeps t.s (f t x).s) (l : List β) (t : Turn) :
    TurnKeeps t.s (l.foldl f t).s := by
  induction l generalizing t with
  | nil => exact .refl _
  | cons x l ih => exact (hf t x).trans (ih _)

theorem Turn.readBucket_keeps (t : Turn) (b : Nat) : TurnKeeps t.s (t.readBucket b).1.s := by
  unfold Turn.readBucket
  dsimp only
  split
  · exact Turn.wipe_keeps _ _
  · exact foldl_keeps _ (Turn.correctWay_keeps b) _ _

theorem Turn.lookup_keeps (t : Turn) (kit : KitId) : TurnKeeps t.s (t.lookup kit).1.s :=
  Turn.readBucket_keeps _ _

theorem Turn.putEntry_keeps (t : Turn) (loc : Location) (kit : KitId) (slot home : Nat) :
    TurnKeeps t.s (t.putEntry loc kit slot home).s := by
  cases loc
  · exact .refl _
  · exact Turn.putWay_keeps _ _ _ _
  · exact Turn.putSpill_keeps _ _ _

theorem Turn.removeEntry_keeps (t : Turn) (loc : Location) : TurnKeeps t.s (t.removeEntry loc).s := by
  cases loc
  · exact .refl _
  · exact Turn.putWay_keeps _ _ _ _
  · exact Turn.putSpill_keeps _ _ _

theorem Turn.setLocation_keeps (t : Turn) (slot : Nat) (loc : Location) : TurnKeeps t.s (t.setLocation slot loc).s :=
  Turn.putTag_keeps _ _ _

theorem Turn.markRebuilding_keeps (t : Turn) (b : Nat) : TurnKeeps t.s (t.markRebuilding b).s :=
  Turn.putBucket_keeps _ _ _ _

theorem Turn.enterAt_keeps (t : Turn) (loc : Location) (slot : Nat) (kit : KitId) (home : Nat) :
    TurnKeeps t.s (t.enterAt loc slot kit home).s := by
  unfold Turn.enterAt
  split
  · exact Turn.markRebuilding_keeps _ _
  · exact (Turn.putEntry_keeps _ _ _ _ _).trans (Turn.setLocation_keeps _ _ _)

theorem Turn.reinsert_keeps (t : Turn) (slot : Nat) (kit : KitId) (home : Nat) :
    TurnKeeps t.s (t.reinsert slot kit home).s := by
  unfold Turn.reinsert
  split
  · exact (Turn.readBucket_keeps _ _).trans (Turn.enterAt_keeps _ _ _ _ _)
  · exact .refl _

theorem Turn.repoint_keeps (t : Turn) (loc : Location) (target : Nat) : TurnKeeps t.s (t.repoint loc target).1.s := by
  unfold Turn.repoint
  cases loc with
  | nowhere => exact .refl _
  | way b w =>
    dsimp only
    split
    · exact Turn.wipe_keeps _ _
    · exact (Turn.putWay_keeps _ _ _ _).trans (Turn.countWay_keeps _)
    · exact Turn.putWay_keeps _ _ _ _
  | spill i => exact Turn.putSpill_keeps _ _ _

end Sys2Proof.Machine
end

