-- ==== Sys2Proof/Laws/Work.lean ====
section
/-! SUPPORT. What the work of each kind of turn keeps, and what a turn as a whole keeps. -/

namespace Sys2Proof.Machine

-- One theorem after the other: many at once would need more threads than the memory limit has room for.
set_option Elab.async false

/-! ## The record commands -/

theorem Turn.withClock_keeps (t : Turn) (code : Byte) (f : Nat → Turn) (hf : ∀ n, TurnKeeps t.s (f n).s) :
    TurnKeeps t.s (t.withClock code f).s := by
  unfold Turn.withClock
  split
  · exact Turn.refuse_keeps _ _ _
  · exact hf _

theorem Turn.undamaged_keeps (t : Turn) (code : Byte) (slot : Nat) (f : Lifecycle → Turn)
    (hf : ∀ lc, TurnKeeps t.s (f lc).s) : TurnKeeps t.s (t.undamaged code slot f).s := by
  unfold Turn.undamaged
  dsimp only
  split
  · exact Turn.refuse_keeps _ _ _
  · exact hf _

/-- The use of a slot by a command keeps what a turn keeps. -/
def UseKeeps (use : Turn → Nat → Record → Turn) : Prop := ∀ t slot r, TurnKeeps t.s (use t slot r).s

theorem Turn.useFound_keeps {use : Turn → Nat → Record → Turn} (hu : UseKeeps use) (t : Turn) (code : Byte)
    (slot : Nat) : TurnKeeps t.s (t.useFound code slot use).s := by
  unfold Turn.useFound
  split
  · exact Turn.refuse_keeps _ _ _
  · exact (Turn.readLive_keeps t slot true).trans (hu _ _ _)

theorem Turn.readFound_free {t : Turn} {slot : Nat} (h : (t.s.tag slot).lifecycle = .free) : t.readFound slot = t :=
  if_pos h

theorem Turn.readFound_live {t : Turn} {slot : Nat} (h : (t.s.tag slot).lifecycle ≠ .free) :
    t.readFound slot = (t.readLive slot true).1 := if_neg h

theorem Turn.readFound_keeps (t : Turn) (slot : Nat) : TurnKeeps t.s (t.readFound slot).s := by
  unfold Turn.readFound
  split
  · exact .refl _
  · exact Turn.readLive_keeps t slot true

theorem Turn.startCommandSearch_keeps (t : Turn) (kit : KitId) : TurnKeeps t.s (t.startCommandSearch kit).s :=
  .ofInner id

theorem Turn.withKit_keeps {use : Turn → Nat → Record → Turn} (hu : UseKeeps use) (t : Turn) (code : Byte)
    (kit : KitId) : TurnKeeps t.s (t.withKit code kit use).s := by
  unfold Turn.withKit
  have hl := Turn.lookup_keeps t kit
  generalize t.lookup kit = x at hl ⊢
  obtain ⟨t1, ways, l⟩ := x
  cases l with
  | absent => exact hl.trans (Turn.refuse_keeps _ _ _)
  | rebuilding => exact hl.trans (Turn.startCommandSearch_keeps _ _)
  | found slot => exact hl.trans (Turn.useFound_keeps hu _ _ _)

theorem putRecord_answer_keeps (t : Turn) (slot : Nat) (lc : Lifecycle) (r : Record) (code : Byte) (st : Status)
    (fields : List Byte) : TurnKeeps t.s ((t.putRecord slot lc r).answer code st fields).s :=
  (Turn.putRecord_keeps _ _ _ _).trans (Turn.answer_keeps _ _ _ _)

theorem Turn.answerCredit_keeps (t : Turn) (code : Byte) (slot : Nat) (c : TariffClass) (now : Nat)
    (res : Option CreditResult) : TurnKeeps t.s (t.answerCredit code slot c now res).s := by
  cases res with
  | none => exact Turn.refuse_keeps _ _ _
  | some res => exact putRecord_answer_keeps _ _ _ _ _ _ _

theorem useTopUp_keeps (amount : BitVec 24) : UseKeeps (useTopUp amount) := fun t slot r =>
  Turn.withClock_keeps _ _ _ fun now => Turn.undamaged_keeps _ _ _ _ fun lc => by
    dsimp only
    split
    · exact Turn.refuse_keeps _ _ _
    · split
      · exact Turn.refuse_keeps _ _ _
      · exact Turn.answerCredit_keeps _ _ _ _ _ _

theorem useAdjust_keeps (minutes : BitVec 24) : UseKeeps (useAdjust minutes) := fun t slot r =>
  Turn.withClock_keeps _ _ _ fun now => Turn.undamaged_keeps _ _ _ _ fun lc => by
    dsimp only
    split
    · exact Turn.refuse_keeps _ _ _
    · exact Turn.answerCredit_keeps _ _ _ _ _ _

theorem useSuspend_keeps : UseKeeps useSuspend := fun t slot r =>
  Turn.withClock_keeps _ _ _ fun now => Turn.undamaged_keeps _ _ _ _ fun lc => by
    dsimp only
    split
    · exact Turn.refuse_keeps _ _ _
    · exact putRecord_answer_keeps _ _ _ _ _ _ _

theorem useResume_keeps : UseKeeps useResume := fun t slot r =>
  Turn.withClock_keeps _ _ _ fun now => Turn.undamaged_keeps _ _ _ _ fun lc => by
    dsimp only
    split
    · exact Turn.refuse_keeps _ _ _
    · exact putRecord_answer_keeps _ _ _ _ _ _ _

theorem useChangeClass_keeps (cls : Byte) : UseKeeps (useChangeClass cls) := fun t slot r =>
  Turn.undamaged_keeps _ _ _ _ fun lc => by
    dsimp only
    split
    · exact Turn.refuse_keeps _ _ _
    · split
      · exact Turn.refuse_keeps _ _ _
      · exact putRecord_answer_keeps _ _ _ _ _ _ _

theorem retireAt_keeps (code : Byte) : UseKeeps (retireAt code) := fun t _ _ =>
  (Turn.removeEntry_keeps t _).trans ((Turn.freeSlot_keeps _ _).trans
    ((Turn.map_keeps (checkEvacuation_keeps _)).trans (Turn.answer_keeps _ _ _ _)))

theorem useReadRecord_keeps : UseKeeps useReadRecord := fun _ _ _ => Turn.answer_keeps _ _ _ _

theorem workRetireSlot_keeps (slot : Nat) (t : Turn) : TurnKeeps t.s (workRetireSlot slot t).s := by
  unfold workRetireSlot
  split
  · exact Turn.refuse_keeps _ _ _
  · split
    · exact Turn.refuse_keeps _ _ _
    · exact (Turn.readLive_keeps t slot true).trans (retireAt_keeps _ _ _ _)

theorem workReadSlot_keeps (slot : Nat) (t : Turn) : TurnKeeps t.s (workReadSlot slot t).s := by
  unfold workReadSlot
  split
  · exact Turn.refuse_keeps _ _ _
  · split
    · exact Turn.answer_keeps _ _ _ _
    · exact (Turn.readLive_keeps t slot true).trans (Turn.answer_keeps _ _ _ _)

theorem workFetchMarked_keeps (t : Turn) : TurnKeeps t.s (workFetchMarked t).s := by
  unfold workFetchMarked
  split
  · exact Turn.refuse_keeps _ _ _
  · next slot _ =>
    exact (Turn.readLive_keeps t slot true).trans ((Turn.putRecord_keeps _ _ _ _).trans
      ((Turn.map_keeps (fetchPast_keeps _ slot)).trans (Turn.answer_keeps _ _ _ _)))

theorem Turn.placeNew_keeps (t : Turn) (loc : Location) (slot : Nat) (lc : Lifecycle) (r : Record) :
    TurnKeeps t.s (t.placeNew loc slot lc r).s :=
  (Turn.putEntry_keeps t loc _ slot _).trans ((Turn.putBody_keeps _ slot r).trans
    ((Turn.putTag_keeps _ slot _).trans (pastSlot_keeps _ slot)))

theorem Turn.insert_keeps (t : Turn) (code : Byte) (kit : KitId) (ways : Four (Option Entry)) (l : Lookup)
    (place : Turn → Location → Nat → Turn) (hp : ∀ loc slot, TurnKeeps t.s (place t loc slot).s) :
    TurnKeeps t.s (t.insert code kit ways l place).s := by
  unfold Turn.insert
  dsimp only
  split
  · exact Turn.refuse_keeps _ _ _
  · split
    · exact Turn.refuse_keeps _ _ _
    · split
      · exact Turn.refuse_keeps _ _ _
      · exact hp _ _

theorem workEnrol_keeps (kit : KitId) (cls : Byte) (outstanding : BitVec 32) (t : Turn) :
    TurnKeeps t.s (workEnrol kit cls outstanding t).s := by
  refine Turn.withClock_keeps _ _ _ fun now => ?_
  split
  · exact Turn.refuse_keeps _ _ _
  · have hl := Turn.lookup_keeps t kit
    generalize t.lookup kit = x at hl ⊢
    obtain ⟨t1, ways, l⟩ := x
    cases l with
    | found slot => exact hl.trans ((Turn.readFound_keeps _ _).trans (Turn.refuse_keeps _ _ _))
    | absent => exact hl.trans (Turn.insert_keeps _ _ _ _ _ _ fun loc slot =>
        (Turn.placeNew_keeps _ _ _ _ _).trans (Turn.answer_keeps _ _ _ _))
    | rebuilding => exact hl.trans (Turn.insert_keeps _ _ _ _ _ _ fun loc slot =>
        (Turn.placeNew_keeps _ _ _ _ _).trans (Turn.answer_keeps _ _ _ _))

theorem Turn.restoreInPlace_keeps (t : Turn) (i : RecordImage) (c : TariffClass) (now slot : Nat) :
    TurnKeeps t.s (t.restoreInPlace i c now slot).s := by
  unfold Turn.restoreInPlace
  have hr := Turn.readLive_keeps t slot true
  generalize t.readLive slot true = x at hr ⊢
  obtain ⟨t1, old⟩ := x
  dsimp only at hr ⊢
  split
  · exact hr.trans (Turn.refuse_keeps _ _ _)
  · exact hr.trans ((Turn.putBody_keeps _ _ _).trans ((Turn.putTag_keeps _ _ _).trans (Turn.answer_keeps _ _ _ _)))

theorem restoreNew_keeps (i : RecordImage) (c : TariffClass) (now : Nat) (t : Turn) (loc : Location) (slot : Nat) :
    TurnKeeps t.s (if Config.maxReserve < (restoredRecord i c now 0).reserve then t.refuse 0x18 .creditFull
      else (t.placeNew loc slot (imageLifecycle i) (restoredRecord i c now 0)).answer 0x18 .ok
        (restoreBytes slot true (imageLifecycle i) (restoredRecord i c now 0) c now)).s := by
  split
  · exact Turn.refuse_keeps _ _ _
  · exact (Turn.placeNew_keeps _ _ _ _ _).trans (Turn.answer_keeps _ _ _ _)

theorem workRestore_keeps (i : RecordImage) (t : Turn) : TurnKeeps t.s (workRestore i t).s := by
  refine Turn.withClock_keeps _ _ _ fun now => ?_
  have hl := Turn.lookup_keeps t i.kit
  dsimp only
  generalize t.lookup i.kit = x at hl ⊢
  obtain ⟨t1, ways, l⟩ := x
  cases l with
  | found slot => exact hl.trans (Turn.restoreInPlace_keeps _ _ _ _ _)
  | absent => exact hl.trans (Turn.insert_keeps _ _ _ _ _ _ fun loc slot => restoreNew_keeps _ _ _ _ _ _)
  | rebuilding => exact hl.trans (Turn.insert_keeps _ _ _ _ _ _ fun loc slot => restoreNew_keeps _ _ _ _ _ _)

/-- The command turn of every record command. -/
theorem RecordCommand.work_keeps (c : RecordCommand) (t : Turn) : TurnKeeps t.s (c.work t).s := by
  cases c with
  | enrol kit cls outstanding => exact workEnrol_keeps _ _ _ _
  | topUp kit amount => exact Turn.withClock_keeps _ _ _ fun _ => Turn.withKit_keeps (useTopUp_keeps _) _ _ _
  | adjust kit minutes => exact Turn.withClock_keeps _ _ _ fun _ => Turn.withKit_keeps (useAdjust_keeps _) _ _ _
  | suspend kit => exact Turn.withClock_keeps _ _ _ fun _ => Turn.withKit_keeps useSuspend_keeps _ _ _
  | resume kit => exact Turn.withClock_keeps _ _ _ fun _ => Turn.withKit_keeps useResume_keeps _ _ _
  | changeClass kit cls => exact Turn.withKit_keeps (useChangeClass_keeps _) _ _ _
  | retire kit => exact Turn.withKit_keeps (retireAt_keeps _) _ _ _
  | retireSlot slot => exact workRetireSlot_keeps _ _
  | restore image => exact workRestore_keeps _ _
  | readRecord kit => exact Turn.withKit_keeps useReadRecord_keeps _ _ _
  | readSlot slot => exact workReadSlot_keeps _ _
  | fetchMarked => exact workFetchMarked_keeps _

/-- The use of a slot at a using turn, for every record command. -/
theorem RecordCommand.use_keeps (c : RecordCommand) : UseKeeps c.use := fun t slot r => by
  cases c with
  | topUp kit amount => exact useTopUp_keeps _ _ _ _
  | adjust kit minutes => exact useAdjust_keeps _ _ _ _
  | suspend kit => exact useSuspend_keeps _ _ _
  | resume kit => exact useResume_keeps _ _ _
  | changeClass kit cls => exact useChangeClass_keeps _ _ _ _
  | retire kit => exact retireAt_keeps _ _ _ _
  | readRecord kit => exact useReadRecord_keeps _ _ _
  | enrol _ _ _ => exact Turn.refuse_keeps _ _ _
  | retireSlot _ => exact Turn.refuse_keeps _ _ _
  | restore _ => exact Turn.refuse_keeps _ _ _
  | readSlot _ => exact Turn.refuse_keeps _ _ _
  | fetchMarked => exact Turn.refuse_keeps _ _ _

/-! ## Check-ins and searches -/

theorem Turn.serve_keeps (t : Turn) (slot : Nat) (r : Record) (a : Arrival) :
    TurnKeeps t.s (t.serve slot r a).s := by
  unfold Turn.serve
  split
  · exact (Turn.putRecord_keeps _ _ _ _).trans (handOver_keeps _ _ _)
  · exact handOver_keeps _ _ _

theorem workCheckIn_keeps (a : Arrival) (rest : List Arrival) (t : Turn)
    (h : t.s.link.queue = a :: rest ∨ t.s.link.queue = rest) :
    TurnKeeps t.s (workCheckIn a rest t).s := by
  refine (takeArrival_keeps t.s a rest h).trans ?_
  change TurnKeeps (t.map (·.takeArrival a rest)).s _
  unfold workCheckIn
  dsimp only
  generalize t.map (·.takeArrival a rest) = t1
  have hl := Turn.lookup_keeps t1 a.checkIn.kit
  generalize t1.lookup a.checkIn.kit = x at hl ⊢
  obtain ⟨t2, ways, l⟩ := x
  cases l with
  | absent => exact hl.trans (noticeUnknown_keeps _)
  | rebuilding => exact hl.trans (startCheckInSearch_keeps _ _)
  | found slot =>
    refine hl.trans ?_
    dsimp only
    split
    · exact noticeUnknown_keeps _
    · exact (Turn.readLive_keeps t2 slot true).trans (Turn.serve_keeps _ _ _ _)

theorem searchSlot_keeps (kit : KitId) (acc : Turn × Option Nat) (slot : Nat) :
    TurnKeeps acc.1.s (searchSlot kit acc slot).1.s := by
  unfold searchSlot
  split
  · exact .refl _
  · dsimp only
    split
    · exact .refl _
    · have hr := Turn.readLive_keeps acc.1 slot true
      split
      · exact hr
      · split <;> exact hr

theorem Turn.examine_keeps (t : Turn) (se : Search) : TurnKeeps t.s (t.examine se).1.s := by
  unfold Turn.examine
  generalize (List.range Config.searchSlots).map (se.next + ·) = l
  have : ∀ acc : Turn × Option Nat, TurnKeeps acc.1.s (l.foldl (searchSlot se.kit) acc).1.s := by
    induction l with
    | nil => exact fun acc => .refl _
    | cons x l ih => exact fun acc => (searchSlot_keeps _ _ _).trans (ih _)
  exact this (t, none)

theorem Turn.searchFails_keeps (t : Turn) (owner : Requester) : TurnKeeps t.s (t.searchFails owner).s := by
  unfold Turn.searchFails
  split
  · exact (putSearch_keeps _ _ _).trans (noticeUnknown_keeps _)
  · exact Turn.refuse_keeps _ _ _
  · exact .refl _

theorem workSearchStep_keeps (owner : Requester) (se : Search) (t : Turn) :
    TurnKeeps t.s (workSearchStep owner se t).s := by
  unfold workSearchStep
  have he := Turn.examine_keeps t se
  generalize t.examine se = x at he ⊢
  obtain ⟨t1, found⟩ := x
  cases found with
  | some slot => exact he.trans ((Turn.reinsert_keeps _ _ _ _).trans (putSearch_keeps _ _ _))
  | none =>
    dsimp only at he ⊢
    split
    · exact he.trans (putSearch_keeps _ _ _)
    · exact he.trans (Turn.searchFails_keeps _ _)

theorem Turn.useFor_keeps (t : Turn) (owner : Requester) (slot : Nat) (r : Record) :
    TurnKeeps t.s (t.useFor owner slot r).s := by
  cases owner with
  | checkIn =>
    refine (putSearch_keeps t.s .checkIn none).trans ?_
    change TurnKeeps (t.map (·.putSearch .checkIn none)).s _
    unfold Turn.useFor
    dsimp only
    split
    · exact .refl _
    · exact Turn.serve_keeps _ _ _ _
  | command =>
    unfold Turn.useFor
    dsimp only
    split
    · exact .refl _
    · exact RecordCommand.use_keeps _ _ _ _
  | evacuation => exact .refl _
  | sweep => exact .refl _

theorem workUsingTurn_keeps (owner : Requester) (kit : KitId) (slot : Nat) (t : Turn) :
    TurnKeeps t.s (workUsingTurn owner kit slot t).s := by
  unfold workUsingTurn
  split
  · exact Turn.searchFails_keeps _ _
  · have hr := Turn.readLive_keeps t slot true
    dsimp only
    split
    · exact hr.trans (Turn.useFor_keeps _ _ _ _)
    · exact hr.trans (Turn.searchFails_keeps _ _)

/-! ## Visits and moves -/

theorem Turn.scrub_keeps (t : Turn) (slot : Nat) : TurnKeeps t.s (t.scrub slot).s := by
  unfold Turn.scrub
  dsimp only
  split
  · exact .refl _
  · exact (Turn.countCorrected_keeps _ _).trans (Turn.putBody_keeps _ _ _)
  · exact (Turn.putBody_keeps _ _ _).trans (feedError_keeps _ _ _)

theorem Turn.evaluate_keeps (t : Turn) (slot : Nat) (r : Record) : TurnKeeps t.s (t.evaluate slot r).s := by
  unfold Turn.evaluate
  split
  · exact .refl _
  · dsimp only
    split
    · exact .refl _
    · exact Turn.putRecord_keeps _ _ _ _

theorem Turn.visit_keeps (t : Turn) (slot : Nat) : TurnKeeps t.s (t.visit slot).s := by
  unfold Turn.visit
  split
  · exact Turn.scrub_keeps _ _
  · unfold Turn.visitLive
    split
    · exact .refl _
    · have hr := Turn.readLive_keeps t slot true
      dsimp only
      split
      · exact hr
      · exact hr.trans ((Turn.evaluate_keeps _ _ _).trans (Turn.reinsert_keeps _ _ _ _))

theorem workSweepVisit_keeps (t : Turn) : TurnKeeps t.s (workSweepVisit t).s := by
  refine (passOver_keeps 4 t.s).trans ?_
  change TurnKeeps (t.map (State.passOver 4)).s _
  unfold workSweepVisit
  dsimp only
  split
  · exact (Turn.visit_keeps _ _).trans ((spendCredit_keeps _).trans (movePosition_keeps _))
  · exact .refl _

theorem Turn.moveEntry_keeps (t : Turn) (loc : Location) (target : Nat) (r : Record) :
    TurnKeeps t.s (t.moveEntry loc target r).s := by
  unfold Turn.moveEntry
  split
  · split
    · exact .refl _
    · exact Turn.reinsert_keeps _ _ _ _
  · exact (Turn.repoint_keeps t loc target).trans (Turn.setLocation_keeps _ _ _)

theorem Turn.moveRecord_keeps (t : Turn) (source target : Nat) (r : Record) :
    TurnKeeps t.s (t.moveRecord source target r).s :=
  (pastSlot_keeps t.s target).trans ((Turn.putBody_keeps (t.map (·.pastSlot target)) target r).trans
    ((Turn.putTag_keeps _ _ _).trans ((Turn.freeSlot_keeps _ _).trans ((Turn.moveEntry_keeps _ _ _ _).trans
      ((countMove_keeps _).trans (checkEvacuation_keeps _))))))

theorem workEvacuationMove_keeps (t : Turn) : TurnKeeps t.s (workEvacuationMove t).s := by
  unfold workEvacuationMove
  split
  · exact .refl _
  · split
    · next source target _ _ =>
      exact (Turn.readLive_keeps t source false).trans (Turn.moveRecord_keeps _ _ _ _)
    · exact .refl _

/-! ## The turn as a whole -/

/-- What a whole turn keeps: its surroundings, the canonical form of the stores, the order of the link, the ranges of
the sweep unit and of the arbiter's counts. -/
structure WholeTurnKeeps (s s' : State) : Prop where
  surroundings : KeepsSurroundings s s'
  wf : Memory.wf s → Memory.wf s'
  link : s.link.inOrder → s'.link.inOrder
  sweep : s.sweep.inRange → s'.sweep.inRange
  arbiter : s.engine.arbiterInRange → s'.engine.arbiterInRange

theorem countAfter_le (s : State) (g r : Requester) (h : s.engine.waits.get r ≤ Config.maxWait) :
    s.countAfter g r ≤ Config.maxWait := by
  unfold State.countAfter
  split
  · exact Nat.zero_le _
  · split
    · exact Nat.min_le_right _ _
    · exact h

theorem consecutiveAfter_le (s : State) (g : Requester) : s.consecutiveAfter g ≤ Config.checkInRun := by
  cases g
  · unfold State.consecutiveAfter
    dsimp only
    split
    · exact Nat.min_le_right _ _
    · exact Nat.zero_le _
  all_goals exact Nat.zero_le _

/-- A requester's count is kept while it waits (R77). -/
theorem WaitCounts.kept_get (w : WaitCounts) (waits : Requester → Bool) (r : Requester) :
    (w.kept waits).get r = if waits r then w.get r else 0 := by
  cases r <;> rfl

theorem WaitCounts.kept_inRange {w : WaitCounts} (h : w.inRange) (waits : Requester → Bool) :
    (w.kept waits).inRange := by
  have keep {n : Nat} (h : n ≤ Config.maxWait) (c : Bool) : (if c then n else 0) ≤ Config.maxWait := by
    split
    · exact h
    · exact Nat.zero_le _
  exact ⟨keep h.1 _, keep h.2.1 _, keep h.2.2.1 _, keep h.2.2.2 _⟩

theorem settle_arbiterInRange {s : State} (h : s.engine.arbiterInRange) : s.settle.engine.arbiterInRange := by
  refine ⟨WaitCounts.kept_inRange h.1 _, h.2.1, fun b hb => ?_⟩
  obtain ⟨b', hb', rfl⟩ := Option.map_eq_some_iff.mp hb
  exact ⟨WaitCounts.kept_inRange (h.2.2 b' hb').1 _, (h.2.2 b' hb').2⟩

theorem turn_keeps (s : State) (r : Requester) (work : Turn → Turn)
    (hw : TurnKeeps (s.grant r).dropBegun (work (Turn.start r (s.grant r).dropBegun)).s) :
    WholeTurnKeeps s (s.turn r work) := by
  have h := hw.trans (Turn.write_keeps _)
  obtain ⟨hs, hwaits, hcons, hbegun, hwf, hl, hsw⟩ := h
  refine ⟨hs, hwf, hl, hsw, fun ha => ?_⟩
  refine settle_arbiterInRange ?_
  rw [RecordEngine.arbiterInRange, hwaits, hcons, hbegun]
  exact ⟨⟨countAfter_le s r .checkIn ha.1.1, countAfter_le s r .command ha.1.2.1,
    countAfter_le s r .evacuation ha.1.2.2.1, countAfter_le s r .sweep ha.1.2.2.2⟩, consecutiveAfter_le s r, nofun⟩

/-- The completion of a check-in turn that was in progress as the link left ENABLED (R116). -/
theorem finishTurn_keeps (s : State) (b : BegunTurn) (hb : s.engine.begun = some b) :
    WholeTurnKeeps s (s.finishTurn b) := by
  have hw := workCheckIn_keeps b.arrival s.link.queue (Turn.start .checkIn (b.resume s)) (.inr rfl)
  obtain ⟨⟨_, hta, h1, h2, h3, h4, hr, hp, hh, hq⟩, hwaits, hcons, hbegun, hwf, hl, hsw⟩ :=
    hw.trans (Turn.write_keeps _)
  refine ⟨⟨rfl, hta, h1, h2, h3, h4, hr, hp, hh, hq⟩, hwf, hl, hsw, fun ha => ?_⟩
  have hrange := ha.2.2 b hb
  refine settle_arbiterInRange ?_
  rw [RecordEngine.arbiterInRange]
  dsimp only
  rw [hwaits, hcons, hbegun]
  exact ⟨hrange.1, hrange.2, nofun⟩

end Sys2Proof.Machine
end

