-- ==== Sys2Proof/WellFormed.lean ====
section
/-! DEFINITION. Which terms of Instr name something that can be put to the part at all. The checks the part
itself makes on a command's parameters are no part of this: a parameter out of range is a command that is
refused with BAD_VALUE (R81), not an ill-formed one. -/

namespace Sys2Proof

/-- A row whose operand names one of the four banks names an existing one (R9); a characters row brings at
least one character (R124); a read transaction reads at least the status byte (R167). -/
def Instr.wellFormed : Instr → Bool
  | .bankClearingComplete bank => bank < 4
  | .returnBankClearingComplete bank => bank < 4
  | .kitPacket chars => !chars.isEmpty
  | .statusRead _ count => 1 ≤ count
  | .powerOn _ | .resetPin _ | .directoryClearingComplete | .timeInputEdge | .rawMinuteTick | .inputLost => true
  | .frameEndStrobe | .stampOverdue | .earliestStart | .latestStartPassed | .transmitDoneStrobe => true
  | .transmitTimeout | .messageWrite _ _ | .collidingWrite _ _ => true
  | .enrol _ _ _ | .topUp _ _ | .adjust _ _ | .suspend _ | .resume _ | .changeClass _ _ | .retire _ => true
  | .retireSlot _ | .restore _ | .readRecord _ | .readSlot _ | .fetchMarked => true
  | .commandTurn | .searchStep | .usingTurn | .checkInTurn | .sweepVisit | .evacuationMove => true
  | .setTime _ | .advanceTime _ | .holdTime _ | .readTime | .setClass _ | .readClass _ => true
  | .setSweep _ | .readSweep | .setLink _ | .readLink | .linkEnable | .linkDisable | .readLinkCounters => true
  | .evacuateBank _ | .cancelEvacuation | .returnBank _ | .readErrorReport | .clearErrorReport => true
  | .injectRecord _ _ | .injectBucket _ _ | .identify | .readStatus | .setAttention _ | .clearCounters => true
  | .restart | .kitCharacterError => true

end Sys2Proof
end

