-- ==== Sys2Proof/Tests/Slice0.lean ====
section
/-! SUPPORT. Small tests: the check of ill-formed terms, figures worked in the manual, and for every statement with
hypotheses concrete states and operands that meet them, one for each clause. -/

set_option synthInstance.maxSize 4096
set_option synthInstance.maxHeartbeats 400000

namespace Sys2Proof.Tests

-- One theorem after the other: many at once would need more threads than the memory limit has room for.
set_option Elab.async false

open Sys2Proof Sys2Proof.Machine

/-! ## Small states -/

/-- A bank in service with `n` FREE slots. -/
def bankWith (n : Nat) : Bank := ⟨.inService, n, 0⟩

/-- The part after start-up initialisation. -/
def ready : State :=
  { State.reset with
    memory := ⟨⟨bankWith 1024, bankWith 1024, bankWith 1024, bankWith 1024⟩, [], [], false⟩
    dir := ⟨[], [], false⟩
    port := { State.reset.port with notReady := false } }

/-- The kit of the manual's example of chapter 6. -/
def kit : KitId := 2549760

/-- Its record before the first event. -/
def paid : Record :=
  { Record.cleared with
    kit := kit
    cls := 3
    expiry := 1030000
    outstanding := 20000
    issued := 40
    acknowledged := 40
    lastCheckIn := some 1019000 }

/-- A way that holds an entry with good check values. -/
def wayOf (e : Entry) : StoredWay := ⟨some e, some e, .good⟩

/-- A bucket with one entry in way 0. -/
def bucketOf (e : Entry) : Bucket := { Bucket.cleared with ways := { Bucket.cleared.ways with b0 := wayOf e } }

/-- A station at minute 1,020,000 with class 3 open and one record, in slot 10 and way 0 of bucket 1,245. -/
def station (lc : Lifecycle) (r : Record) : State :=
  { ready with
    time := ⟨0, .running, 1020000, 0, 0, false⟩
    tariff := [(3, ⟨450, 43200, 720, 0, 0⟩)]
    memory := ⟨⟨bankWith 1024, bankWith 1024, bankWith 1023, bankWith 1024⟩, [(10, ⟨r, r, []⟩)],
      [(10, ⟨lc, false, .way 1245 0, r.marks.any⟩)], false⟩
    dir := ⟨[(1245, bucketOf ⟨r.kit, 10⟩)], [], false⟩
    engine := { RecordEngine.reset with allocPtr := 11, running := 1, marked := oneIf r.marks.any } }

/-- COMMAND holds a record command. -/
def holding (c : RecordCommand) (s : State) : State := { s with engine := { s.engine with held := some c } }

/-- The clock is UNSET. -/
def unset (s : State) : State := { s with time := { s.time with clock := .unset, hold := 0 } }

/-- Slot 10 is DAMAGED. -/
def hurt (s : State) : State := s.putTag 10 { s.tag 10 with damaged := true }

/-- Bucket 1,245 is empty and REBUILDING. -/
def rebuilt (s : State) : State :=
  { s with dir := ⟨[(1245, { Bucket.cleared with state := .rebuilding 0 })], [], false⟩ }

/-- The link is ENABLED. -/
def enabled (s : State) : State := { s with link := { s.link with state := .enabled } }

/-- The transmitter sends channel 0 since a key-on time. -/
def sending (keyOn : Stamp) (s : State) : State :=
  { enabled s with link := { (enabled s).link with tx := .sending 0 keyOn } }

/-- A grant. -/
def someGrant : Grant := ⟨kit, 41, .credit, 24390, 720, 17⟩

/-- A channel in a phase, with its stamp and the reset configuration's window. -/
def channelAt (p : Phase) (stamp : Stamp) : Channel := ⟨p, someGrant, stamp, stamp + 3277, stamp + 6554⟩

/-- The check-in of the manual's example, with the stamp it took. -/
def arrival (stamp : Stamp) : Arrival := ⟨⟨kit, 17, 40, 9990, 0⟩, stamp, false⟩

/-- A check-in waits at an ENABLED link. -/
def waiting (s : State) : State := { enabled s with link := { (enabled s).link with queue := [arrival 0] } }

/-- The sweep holds one credit, at a position. -/
def sweeping (position : Nat) (s : State) : State := { s with sweep := ⟨8, 1, position, 0⟩ }

/-- A search of COMMAND for the kit. -/
def searching (next : Nat) (found : Option Nat) (s : State) : State :=
  { s with engine := { s.engine with commandSearch := some ⟨kit, 1245, next, found⟩ } }

/-- Bank 2 is EVACUATING. -/
def evacuating (s : State) : State := s.setBank 2 { s.bank 2 with state := .evacuating }

/-- A row answers a next state with a property. -/
def answers (i : Instr) (s : State) (p : State → Bool) : Bool :=
  match exec i s with
  | .next t => p t
  | _ => false

/-- The status a row leaves in the response buffer. -/
def statusAfter (i : Instr) (s : State) : Byte :=
  match exec i s with
  | .next t => t.port.resp.getD 2 0xFF
  | _ => 0xFF

/-! ## Ill-formed terms, and words -/

theorem test_wellFormed_refuses_bank : Instr.wellFormed (.bankClearingComplete 4) = false := by decide
theorem test_wellFormed_refuses_returned_bank : Instr.wellFormed (.returnBankClearingComplete 4) = false := by decide
theorem test_wellFormed_refuses_no_characters : Instr.wellFormed (.kitPacket []) = false := by decide
theorem test_wellFormed_refuses_empty_read : Instr.wellFormed (.statusRead 0x3A 0) = false := by decide
theorem test_wellFormed_accepts : Instr.wellFormed (.bankClearingComplete 3) = true
    ∧ Instr.wellFormed (.statusRead 0x3A 1) = true ∧ Instr.wellFormed .restart = true := by decide
theorem test_no_row_gives_bits : decodeTableWord 8 0x13 = none := by decide

/-! ## Figures the manual works -/

theorem test_homeBucket : homeBucket 1234567 = 1245 ∧ homeBucket 3000000000 = 1728 ∧ homeBucket kit = 1245 := by
  decide +kernel

/-- The messages the manual writes out (R163, R174). -/
theorem test_messages : HostCommand.restart.message = [0x02, 0x54, 0xAA]
    ∧ (HostCommand.record (.readRecord 1234567)).message = [0x06, 0x19, 0x00, 0x12, 0xD6, 0x87, 0x72] := by
  decide +kernel

/-- The check value of the CRC of R124 over the ASCII digits 1 to 9 is 29B1h. -/
theorem test_crc : crc [0x31, 0x32, 0x33, 0x34, 0x35, 0x36, 0x37, 0x38, 0x39] = 0x29B1#16 := by decide +kernel

/-- Worked case 1 of chapter 3. -/
theorem test_locked_kit_pays :
    let c : TariffClass := ⟨450, 43200, 720, 0, 0⟩
    let r := { paid with
      expiry := 1000000, residue := 100, paidTotal := 10000, issued := 211, acknowledged := 211, lapseNoted := true }
    let bought := { r with
      expiry := 1045200, reserve := 1600, outstanding := 6000, paidTotal := 24000, awaiting := some 212
      lapseNoted := false, marks := { Marks.none with changed := true } }
    let visited := { bought with expiry := 1046800, reserve := 0 }
    topUp ⟨.running, r⟩ c 14000 1002000 = some ⟨⟨.running, bought⟩, 43200, 1600, 0, 0⟩
      ∧ visitedRecord .running bought c 1003600 = visited
      ∧ topUp ⟨.running, visited⟩ c 6500 1010000 = some ⟨⟨.owned, { visited with
          outstanding := 0, paidTotal := 30000, residue := 0 }⟩, 0, 0, 0, 500⟩ := by decide +kernel

/-- Worked case 2 of chapter 3: the reserve bound and the residue. -/
theorem test_figures_at_the_limits :
    let low : TariffClass := ⟨1, 43200, 0, 0, 0⟩
    let r := { paid with expiry := 1020000, outstanding := 4294967295 }
    let high : TariffClass := ⟨65535, 43200, 0, 0, 0⟩
    (topUp ⟨.running, r⟩ low 16777215 1020000 = none) ∧ (topUp ⟨.running, r⟩ low 759 1020000 = none)
      ∧ (topUp ⟨.running, r⟩ low 758 1020000).map (·.account.r.reserve) = some 1048320
      ∧ (topUp ⟨.running, paid⟩ high 1 1020000).map (·.account.r.residue) = some 1440
      ∧ (topUp ⟨.running, { paid with residue := 1440 }⟩ high 45 1020000).map
          (fun x => (x.applied, x.account.r.residue)) = some (1, 705) := by decide +kernel

/-- The check-ins of chapter 6: an acknowledgement that delivers, and one that does not. -/
theorem test_check_in_records :
    let c : TariffClass := ⟨450, 43200, 720, 0, 0⟩
    let r := { paid with expiry := 1044400, awaiting := some 41, marks := { Marks.none with changed := true } }
    let a := checkedInRecord .running r ⟨kit, 17, 40, 9990, 0⟩ c 1020010
    let b := checkedInRecord .running { a with issued := 42 } ⟨kit, 19, 42, 24100, 0⟩ c 1020300
    a = { r with lastCheckIn := some 1020010, drift := -14400, issued := 41 }
      ∧ ordinaryGrant .running a ⟨kit, 17, 40, 9990, 0⟩ c 1020010 = someGrant
      ∧ b = { r with
          lastCheckIn := some 1020300, drift := 0, issued := 43, acknowledged := 42, awaiting := none
          marks := { Marks.none with changed := true, delivered := true } } := by decide +kernel

/-- The restore of chapter 5. -/
theorem test_restored_figures :
    let i : RecordImage := { recordImage 7 ⟨.running, false, .nowhere, false⟩ { paid with
      kit := 1234567, expiry := 1100000, reserve := 2000, residue := 100, outstanding := 6000, paidTotal := 24000
      issued := 65000, acknowledged := 64990, lastCheckIn := some 1040000
      marks := { Marks.none with delivered := true } } none with standing := 0 }
    let r := restoredRecord i ⟨450, 43200, 720, 0, 0⟩ 1050000 0
    badImage i = false ∧ r.expiry = 1093200 ∧ r.reserve = 8800 ∧ r.issued = 488 ∧ r.awaiting = some 489
      ∧ r.acknowledged = 64990 ∧ r.lastCheckIn = some 1040000
      ∧ r.marks = { Marks.none with delivered := true } := by decide +kernel

/-- The serial order (R100). -/
theorem test_newer : newer 1 65535 = true ∧ newer 32767 0 = true ∧ newer 32768 0 = false
    ∧ newer 0 32768 = false ∧ newer 489 65000 = true := by decide +kernel

/-! ## Resets and the time input -/

theorem test_clearing_completes :
    State.reset.port.notReady = true ∧ (State.reset.bank 0).state = .initialising
      ∧ (State.reset.bank 3).state = .initialising ∧ State.reset.dir.clearing = true
      ∧ answers (.bankClearingComplete 3) State.reset (fun t => decide (t.bank 3 = bankWith 1024 ∧ t.port.notReady))
      ∧ answers (.bankClearingComplete 4) State.reset (fun t => decide (t = State.reset)) := by decide +kernel

theorem test_returned_bank_clears :
    let s := ready.setBank 0 ⟨.initialising, 0, 7⟩
    s.port.notReady = false ∧ (s.bank 0).state = .initialising
      ∧ answers (.returnBankClearingComplete 0) s
        (fun t => decide (t.bank 0 = ⟨.inService, 1024, 7⟩ ∧ t.memory.bankFlag)) := by decide +kernel

/-- The divider one edge before its wrap. -/
def beforeTick (s : State) : State := { s with time := { s.time with divider := 1966079 } }

theorem test_edge_counts :
    ready.time.divider < 1966080 ∧ ready.time.divider + 1 < 1966080
      ∧ (beforeTick ready).time.divider < 1966080 ∧ (beforeTick ready).time.divider + 1 = 1966080
      ∧ answers .timeInputEdge (beforeTick (station .running paid))
        (fun t => decide (t.time.minute = 1020001 ∧ t.time.divider = 0 ∧ t.sweep.credits = 8)) := by decide +kernel

theorem test_raw_minute_tick :
    ready.time.divider < 1966080 ∧ ready.nextEventIs ready.edgesToTick 1966080
      ∧ (beforeTick ready).nextEventIs (beforeTick ready).edgesToTick 1
      ∧ answers .rawMinuteTick (station .running paid)
        (fun t => decide (t.time.minute = 1020001 ∧ t.time.timer = 0 ∧ t.time.divider = 0)) := by decide +kernel

theorem test_overdue_and_timeout :
    let q := waiting ready
    let k := sending 100 ready
    q.nextEventIs q.edgesToOverdue 32768 ∧ 32768 ∉ q.edgesToTimeout
      ∧ k.link.tx = .sending 0 100 ∧ k.nextEventIs k.edgesToTimeout 6654
      ∧ answers .transmitTimeout k (fun t => decide (t.link.state = .faulted ∧ t.link.counters.transmitTimeout = 1))
      ∧ answers .stampOverdue q (fun t => decide (t.link.queue.map (·.overdue) = [true])) := by decide +kernel

theorem test_reply_window :
    let s := (enabled ready).putChannel 0 (some (channelAt .scheduled 0))
    let r := (sending 0 ready).putChannel 7 (some (channelAt .ready 65000))
    Memory.wf s ∧ s.nextEventIs s.edgesToEarliest 3277 ∧ 3277 ∉ s.edgesToTimeout
      ∧ s.channel 0 = some (channelAt .scheduled 0) ∧ (channelAt .scheduled 0).phase = .scheduled
      ∧ (channelAt .scheduled 0).earliest = s.time.timer + BitVec.ofNat 16 3277
      ∧ Memory.wf r ∧ r.link.counters.collided ≤ 65535 ∧ r.nextEventIs r.edgesPastLatest 6019
      ∧ r.channel 7 = some (channelAt .ready 65000) ∧ (channelAt .ready 65000).phase = .ready
      ∧ (channelAt .ready 65000).latest + 1 = r.time.timer + BitVec.ofNat 16 6019
      ∧ answers .earliestStart s (fun t => decide (t.link.tx = .sending 0 3277))
      ∧ answers .latestStartPassed r (fun t => decide (t.channel 7 = none ∧ t.link.counters.collided = 1)) := by
  decide +kernel

/-- A transmit timeout and a latest start at one count, in either order (log 4). -/
theorem test_timeout_and_latest_start_together :
    let s := (sending 65001 ready).putChannel 7 (some (channelAt .ready 65000))
    s.nextEventIs s.edgesToTimeout 6019 ∧ s.nextEventIs s.edgesPastLatest 6019
      ∧ answers .latestStartPassed s (fun t => decide (t.link.counters.collided = 1 ∧ t.link.state = .faulted))
      ∧ answers .transmitTimeout s (fun t => decide (t.link.counters.collided = 0 ∧ t.link.state = .faulted)) := by
  decide +kernel

theorem test_timed_rows_are_edges :
    let q := waiting ready
    let s := (enabled ready).putChannel 0 (some (channelAt .scheduled 0))
    let r := (sending 0 ready).putChannel 7 (some (channelAt .ready 65000))
    ready.nothingToSend ∧ q.nothingToSend ∧ s.nothingToSend ∧ r.nothingToSend ∧ (sending 100 ready).nothingToSend
      ∧ q.time.divider < 1966080 := by decide +kernel

theorem test_input_lost :
    (enabled ready).link.state = .enabled ∧ ready.link.state ≠ .enabled
      ∧ answers .inputLost (enabled ready) (fun t => decide (t.link.state = .faulted ∧ t.time.inputLost)) := by
  decide +kernel

/-! ## Commands the port executes -/

theorem test_set_and_read_time :
    ready.busy = false ∧ statusAfter (.setTime 4000000000) ready = 0x00
      ∧ statusAfter (.setTime 4000000001) ready = 0x03
      ∧ statusAfter (.setTime 4000000000) (station .running paid) = 0x10
      ∧ answers .readTime (station .running paid) (fun t => decide (t.port.resp
          = responseBytes 0x23 .ok [0x01, 0x00, 0x0F, 0x90, 0x60, 0, 0, 0])) := by decide +kernel

/-- The example of chapter 2: hold 3, two of them spent, then advance 5. -/
theorem test_advance_and_hold_time :
    let s := station .running paid
    let h := { s with time := { s.time with hold := 1 } }
    h.busy = false ∧ statusAfter (.advanceTime 0) h = 0x03 ∧ statusAfter (.advanceTime 1441) h = 0x03
      ∧ statusAfter (.advanceTime 1) (unset h) = 0x05 ∧ statusAfter (.holdTime 1440) (unset h) = 0x05
      ∧ statusAfter (.advanceTime 1) { h with time := { h.time with minute := 4200000000, hold := 0 } } = 0x03
      ∧ answers (.advanceTime 1) h (fun t => decide (t.time.minute = 1020000 ∧ t.time.hold = 0))
      ∧ answers (.advanceTime 5) h (fun t => decide (t.time.minute = 1020004 ∧ t.time.hold = 0))
      ∧ answers (.holdTime 1440) h (fun t => decide (t.time.minute = 1020000 ∧ t.time.hold = 1440)) := by
  decide +kernel

theorem test_minute_never_decreases_is_met :
    let s := { station .running paid with pending := [.advanceTime 1] }
    s.time.inRange ∧ s.time.clock = .running
      ∧ (∃ t, step s = .next t) ∧ ∀ straps rest, s.pending ≠ .powerOn straps :: rest ∧ s.pending ≠ .resetPin straps :: rest :=
  ⟨by decide, rfl, ⟨_, rfl⟩, fun _ _ => ⟨by simp, by simp⟩⟩

theorem test_set_class :
    let good : ClassBlock := ⟨15, 450, 576000, 10080, 43200, 1440⟩
    ready.busy = false ∧ Memory.wf ready ∧ statusAfter (.setClass good) ready = 0x00
      ∧ statusAfter (.setClass { good with cls := 16 }) ready = 0x03
      ∧ statusAfter (.setClass { good with horizon := 576001 }) ready = 0x03
      ∧ statusAfter (.setClass { good with horizon := 1439 }) ready = 0x03
      ∧ statusAfter (.setClass { good with drift := 1441 }) ready = 0x03
      ∧ answers (.setClass good) ready (fun t => decide (t.tariffClass 15 = ⟨450, 576000, 10080, 43200, 1440⟩
          ∧ t.tariffClass 14 = TariffClass.reset)) := by decide +kernel

theorem test_read_class : statusAfter (.readClass 15) ready = 0x00 ∧ statusAfter (.readClass 16) ready = 0x03
    ∧ answers (.readClass 0) ready (fun t => decide (t.port.resp
        = responseBytes 0x29 .ok [0, 0, 0, 0x00, 0xA8, 0xC0, 0, 0, 0, 0, 0, 0])) := by decide +kernel

theorem test_sweep_commands : ready.busy = false ∧ statusAfter (.setSweep 64) ready = 0x00
    ∧ statusAfter (.setSweep 65) ready = 0x03
    ∧ answers .readSweep ready (fun t => decide (t.port.resp = responseBytes 0x2B .ok [8, 0, 0, 0, 0, 0])) := by
  decide +kernel

theorem test_link_configuration :
    let b : LinkBlock := ⟨3, 2, 2, 16000, 16000, 32000, 0⟩
    ready.busy = false ∧ ready.link.state = .disabled ∧ (enabled ready).link.state ≠ .disabled
      ∧ statusAfter (.setLink b) ready = 0x00 ∧ statusAfter (.setLink { b with window := 16001 }) ready = 0x03
      ∧ statusAfter (.setLink { b with stopBits := 0 }) ready = 0x03
      ∧ statusAfter (.setLink { b with timeout := 0 }) ready = 0x03
      ∧ statusAfter (.setLink b) (enabled ready) = 0x10
      ∧ answers (.setLink b) ready (fun t => t.keyLine)
      ∧ answers .readLink ready (fun t => decide (t.port.resp = responseBytes 0x31 .ok
          [1, 0, 1, 0x0C, 0xCD, 0x0C, 0xCD, 0x19, 0x9A, 1, 0, 0, 0, 0, 0])) := by decide +kernel

theorem test_link_enable_disable :
    ready.busy = false ∧ statusAfter .linkEnable ready = 0x00 ∧ statusAfter .linkEnable State.reset = 0x04
      ∧ statusAfter .linkEnable { ready with time := { ready.time with inputLost := true } } = 0x10
      ∧ (enabled ready).link.state = .enabled
      ∧ answers .linkDisable (waiting ready) (fun t => decide (t.link.atRest ∧ t.link.state = .disabled)) := by
  decide +kernel

theorem test_link_counters :
    let s := { ready with link := { ready.link with counters := { ready.link.counters with transmitTimeout := 258 } } }
    s.busy = false ∧ answers .readLinkCounters s (fun t => decide (t.port.resp
        = responseBytes 0x34 .ok (List.replicate 22 0 ++ [1, 2])))
      ∧ answers .clearCounters s (fun t => decide (t.link.counters = LinkCounters.zero)) := by decide +kernel

/-- Banks 0, 1 and 3 as the example of chapter 9 has them, with bank 2 EVACUATING. -/
theorem test_bank_commands :
    let s := station .running paid
    s.busy = false ∧ statusAfter (.evacuateBank 0) State.reset = 0x04 ∧ statusAfter (.evacuateBank 4) s = 0x03
      ∧ statusAfter (.evacuateBank 3) (evacuating s) = 0x10
      ∧ statusAfter (.evacuateBank 2) { s with memory := { s.memory with
          banks := ⟨bankWith 0, bankWith 0, bankWith 1023, bankWith 0⟩ } } = 0x0F
      ∧ answers (.evacuateBank 2) s (fun t => decide (t.evacuatingBank = some 2))
      ∧ answers (.evacuateBank 3) s (fun t => decide ((t.bank 3).state = .outOfService ∧ t.memory.bankFlag))
      ∧ statusAfter .cancelEvacuation State.reset = 0x04 ∧ statusAfter .cancelEvacuation s = 0x10
      ∧ (evacuating s).evacuatingBank = some 2
      ∧ answers .cancelEvacuation (evacuating s) (fun t => decide (t.evacuatingBank = none)) := by decide +kernel

theorem test_return_bank :
    let s := ready.setBank 3 ⟨.outOfService, 0, 0⟩
    s.busy = false ∧ statusAfter (.returnBank 3) s = 0x00 ∧ statusAfter (.returnBank 0) s = 0x10
      ∧ statusAfter (.returnBank 4) s = 0x03 ∧ statusAfter (.returnBank 3) State.reset = 0x04 := by decide +kernel

theorem test_error_report_commands :
    let s := station .running paid
    let e := { s with integrity := ⟨some ⟨.record 77, .sweep, some 2000400⟩, false, true, 0, none⟩ }
    e.busy = false ∧ answers .clearErrorReport e (fun t => decide (t.integrity = ⟨none, false, false, 0, none⟩))
      ∧ answers .readErrorReport e (fun t => decide (t.integrity = e.integrity ∧ t.port.resp.getD 2 9 = 0)) := by
  decide +kernel

theorem test_inject_commands :
    ready.busy = false ∧ statusAfter (.injectRecord 4095 1) ready = 0x00 ∧ statusAfter (.injectRecord 4096 1) ready = 0x03
      ∧ statusAfter (.injectRecord 0 3) ready = 0x03 ∧ statusAfter (.injectBucket 2047 2) ready = 0x00
      ∧ statusAfter (.injectBucket 2048 2) ready = 0x03 ∧ statusAfter (.injectBucket 0 0) ready = 0x03 := by
  decide +kernel

theorem test_port_reports :
    ready.busy = false ∧ statusAfter (.setAttention 63) ready = 0x00 ∧ statusAfter (.setAttention 64) ready = 0x03
      ∧ answers .identify ready (fun t => decide (t.port.resp
        = responseBytes 0x50 .ok [0x0A, 0x31, 0x41, 0x00, 0x01, 0x00, 0x10, 0x00]))
      ∧ answers .readStatus ready (fun t => decide (t.port.resp.length = 36 ∧ t.memory.bankFlag = false)) := by
  decide +kernel

theorem test_restart :
    answers .restart (holding .fetchMarked (evacuating (waiting (station .running paid)))) (fun t =>
      decide (t.busy = false ∧ t.link.state = .disabled ∧ t.evacuatingBank = none
        ∧ t.port.resp = responseBytes 0x54 .ok [])) := by decide +kernel

/-! ## The port's transactions -/

theorem test_record_commands_are_handed_over :
    ready.busy = false ∧ hostCommandOf (.suspend kit) = some (.record (.suspend kit))
      ∧ answers (.suspend kit) ready (fun t => decide (t.busy ∧ t.engine.held = some (.suspend kit)))
      ∧ statusAfter (.suspend 0) ready = 0x03 ∧ statusAfter (.suspend 0xFFFFFFFF) ready = 0x03
      ∧ statusAfter (.suspend kit) State.reset = 0x04 := by decide +kernel

theorem test_message_is_command :
    hostCommandOf .readTime = some .readTime ∧ ready.address = 0x3A ∧ HostCommand.readTime.message = [0x02, 0x23, 0xDB]
      ∧ answers (.messageWrite 0x3A [0x02, 0x23, 0xDB]) ready (fun t =>
        answers .readTime ready fun u => decide (t = u)) := by decide +kernel

theorem test_write_transactions :
    let bad : List Byte := [0x02, 0x54, 0xAB]
    ready.busy = false ∧ (0x3B#7 ≠ ready.address)
      ∧ 64 < (List.replicate 65 (0 : Byte)).length ∧ 1 ≤ bad.length ∧ bad.length ≤ 64
      ∧ ((bad.take 3).map BitVec.toNat).sum % 256 ≠ 0
      ∧ answers (.messageWrite 0x3A bad) ready (fun t => decide (t.port.resp = responseBytes 0x54 .badMessage []))
      ∧ answers (.messageWrite 0x3A [0x00]) ready (fun t => decide (t.port.resp = responseBytes 0x00 .badMessage []))
      ∧ answers (.messageWrite 0x3A (List.replicate 65 0)) ready (fun t => decide (t.port.overrun ∧ t.port.resp = [])) := by
  decide +kernel

theorem test_colliding_write :
    let s := holding .fetchMarked ready
    s.busy = true ∧ answers (.collidingWrite 0x3A [0x02, 0x23, 0xDB]) s (fun t => decide (t.port.collision ∧ t.busy))
      ∧ answers (.collidingWrite 0x3A [0x02, 0x54, 0xAA]) s (fun t => decide (t.busy = false)) := by decide +kernel

theorem test_status_read :
    let s := ready.respond 0x23 .notFound []
    answers (.statusRead 0x3A 6) s (fun t => decide (t.hostRead = [0x11, 0x03, 0x23, 0x06, 0xD4, 0x00]
        ∧ t.port.responseReady = false))
      ∧ answers (.statusRead 0x3A 4) s (fun t => decide (t.port.responseReady = true)) := by decide +kernel

/-! ## The kit link -/

theorem test_kit_packet :
    let s := { enabled ready with link := { (enabled ready).link with stamp := some 9 } }
    let payload := [0x01#8] ++ beBytes 4 kit.toNat ++ [0x11] ++ beBytes 2 40 ++ beBytes 3 9990 ++ [0x00]
    s.link.state = .enabled ∧ s.link.parser = .hunt ∧ s.link.stamp = some 9 ∧ kit ≠ 0 ∧ kit ≠ 0xFFFFFFFF#32
      ∧ answers (.kitPacket ((packet payload).map s.link.config.sendChar)) s (fun t =>
          decide (t.link.queue = [arrival 9] ∧ t.link.counters.accepted = 1)) := by decide +kernel

theorem test_bad_kit_packet :
    let s := { enabled ready with link := { (enabled ready).link with stamp := some 9 } }
    let body : List Byte := [0x01, 0x55]
    s.link.state = .enabled ∧ s.link.parser = .hunt ∧ 0#16 ≠ crc body ∧ (enabled ready).link.stamp = none
      ∧ answers (.kitPacket (([0xA7] ++ body ++ [0, 0]).map s.link.config.sendChar)) s (fun t =>
          decide (t.link.counters.bad = 1 ∧ t.link.stamp = none ∧ t.link.queue = [])) := by decide +kernel

theorem test_link_strobes :
    let s := (sending 0 ready).putChannel 0 (some (channelAt .sending 60000))
    let r := s.putChannel 7 (some (channelAt .ready 60000))
    (enabled ready).link.state = .enabled ∧ ready.link.state ≠ .enabled ∧ (enabled ready).link.tx = .idle
      ∧ Memory.wf s ∧ s.link.tx = .sending 0 0
      ∧ (∀ c, c < 8 → c ≠ 0 → ∀ ch, s.channel c = some ch → ch.phase ≠ .ready)
      ∧ r.channel 7 = some (channelAt .ready 60000)
      ∧ answers .transmitDoneStrobe s (fun t => decide (t.link.tx = .idle ∧ t.link.counters.sent = 1))
      ∧ answers .transmitDoneStrobe r (fun t => decide (t.link.tx = .sending 7 0 ∧ t.channel 0 = none))
      ∧ answers .frameEndStrobe (enabled ready) (fun t => decide (t.link.stamp = some 0))
      ∧ answers .kitCharacterError (enabled ready) (fun t => decide (t.link.counters.parity = 1)) := by
  refine ⟨by decide, by decide, by decide, by decide +kernel, by decide, ?_, by decide +kernel, by decide +kernel,
    by decide +kernel, by decide +kernel, by decide +kernel⟩
  intro c _ hc ch h
  have : ((sending 0 ready).putChannel 0 (some (channelAt .sending 60000))).channel c
      = if 0 = c then some (channelAt .sending 60000) else none := rfl
  rw [this, if_neg (Ne.symm hc)] at h
  cases h

/-! ## The arbiter -/

/-- Turns 16 and 17 of the example of chapter 5. -/
theorem test_arbiter :
    let s := sweeping 0 (holding .fetchMarked (waiting (station .running paid)))
    let at16 := { s with engine := { s.engine with waits := ⟨0, 0, 0, 15⟩ } }
    let at17 := { s with engine := { s.engine with waits := ⟨0, 1, 0, 16⟩, consecutive := 1 } }
    let run := { s with engine := { s.engine with waits := ⟨0, 4, 0, 4⟩, consecutive := 4 } }
    at16.arbiter = some .checkIn ∧ at17.arbiter = some .sweep ∧ run.arbiter = some .command
      ∧ (at17.grant .sweep).engine.waits = ⟨1, 2, 0, 0⟩ ∧ (at17.grant .sweep).engine.consecutive = 0
      ∧ ready.arbiter = none ∧ (∀ r, ready.waits r = false) := by
  refine ⟨by decide +kernel, by decide +kernel, by decide +kernel, by decide +kernel, by decide +kernel,
    by decide +kernel, ?_⟩
  intro r
  cases r <;> decide +kernel

/-! ## Command turns -/

theorem test_top_up_turn :
    let s := holding (.topUp kit 4500) (station .running paid)
    s.commandTurnFor (.topUp kit 4500) ∧ s.now = some 1020000 ∧ s.finds kit 10 paid
      ∧ answers .commandTurn s (fun t => decide ((t.body 10).stored.expiry = 1044400
          ∧ (t.body 10).stored.awaiting = some 41 ∧ t.engine.marked = 1 ∧ t.busy = false)) := by decide +kernel

theorem test_adjust_turn :
    let s := holding (.adjust kit 0xFFFFF6) (station .running paid)
    s.commandTurnFor (.adjust kit 0xFFFFF6) ∧ s.now = some 1020000 ∧ s.finds kit 10 paid
      ∧ answers .commandTurn s (fun t => decide ((t.body 10).stored.expiry = 1029990)) := by decide +kernel

/-- A suspended record. -/
def frozen : Record := { paid with frozen := some 10000, prior := some .running }

theorem test_suspend_resume_turns :
    let s := holding (.suspend kit) (station .running paid)
    let r := holding (.resume kit) (station .suspended frozen)
    s.now = some 1020000 ∧ s.finds kit 10 paid ∧ s.commandTurnFor (.suspend kit)
      ∧ r.now = some 1020000 ∧ r.finds kit 10 frozen ∧ r.commandTurnFor (.resume kit)
      ∧ answers .commandTurn s (fun t => decide ((t.body 10).stored.frozen = some 10000
          ∧ (t.tag 10).lifecycle = .suspended))
      ∧ answers .commandTurn r (fun t => decide ((t.body 10).stored.expiry = 1030000
          ∧ (t.tag 10).lifecycle = .running)) := by decide +kernel

theorem test_change_class_and_read_turns :
    let s := holding (.changeClass kit 3) (station .running paid)
    let r := holding (.readRecord kit) (station .running paid)
    s.finds kit 10 paid ∧ s.commandTurnFor (.changeClass kit 3) ∧ r.commandTurnFor (.readRecord kit)
      ∧ statusAfter .commandTurn s = 0x00 ∧ answers .commandTurn r (fun t => decide (t.port.resp.length = 51)) := by
  decide +kernel

theorem test_command_turn_refusals :
    let c := RecordCommand.topUp kit 1
    let d := holding c (hurt (station .running paid))
    let n := holding c ready
    let a := holding c { ready with time := { ready.time with clock := .running } }
    let b := holding c (rebuilt (station .running paid))
    d.now = some 1020000 ∧ d.commandTurnFor c ∧ (d.bucket (homeBucket kit)).broken = false
      ∧ d.lookupEnd (d.bucket (homeBucket kit)).values kit = .found 10 ∧ (d.tag 10).damaged = true
      ∧ a.now = some 0 ∧ a.commandTurnFor c ∧ a.lookupEnd (a.bucket (homeBucket kit)).values kit = .absent
      ∧ b.commandTurnFor c ∧ b.lookupEnd (b.bucket (homeBucket kit)).values kit = .rebuilding
      ∧ n.time.clock = .unset ∧ n.commandTurnFor c ∧ c.code = 0x11
      ∧ statusAfter .commandTurn d = 0x0E ∧ statusAfter .commandTurn a = 0x06 ∧ statusAfter .commandTurn n = 0x05
      ∧ answers .commandTurn b (fun t => t.busy && t.engine.commandSearch.isSome) := by decide +kernel

theorem test_retire_turns :
    let s := holding (.retire kit) (station .running paid)
    let r := holding (.retireSlot 10) (station .running paid)
    let f := holding (.retireSlot 4095) (station .running paid)
    let o := holding (.retireSlot 11) ((station .running paid).setBank 3 ⟨.outOfService, 0, 0⟩)
    s.evacuatingBank = none ∧ s.commandTurnFor (.retire kit) ∧ s.finds kit 10 paid
      ∧ r.commandTurnFor (.retireSlot 10) ∧ (r.bank (bankIndex 10)).inUse = true ∧ (r.tag 10).lifecycle ≠ .free
      ∧ (r.tag 10).damaged = false ∧ r.readsAs 10 paid
      ∧ f.commandTurnFor (.retireSlot 4095) ∧ (f.tag 4095).lifecycle = .free
      ∧ o.commandTurnFor (.retireSlot 11) ∧ (o.bank (bankIndex 11)).inUse = false
      ∧ statusAfter .commandTurn f = 0x06 ∧ statusAfter .commandTurn o = 0x10
      ∧ answers .commandTurn s (fun t => decide (t.memory.tags = [] ∧ t.dir.buckets = [] ∧ t.freeCount = 4096)) := by
  decide +kernel

theorem test_read_slot_turn :
    let s := holding (.readSlot 10) (station .running paid)
    let f := holding (.readSlot 4095) (station .running paid)
    let o := holding (.readSlot 11) ((station .running paid).setBank 3 ⟨.outOfService, 0, 0⟩)
    s.commandTurnFor (.readSlot 10) ∧ f.commandTurnFor (.readSlot 4095) ∧ o.commandTurnFor (.readSlot 11)
      ∧ s.readsAs 10 paid ∧ statusAfter .commandTurn o = 0x10
      ∧ answers .commandTurn f (fun t => decide (t.port.resp
          = responseBytes 0x1A .ok ([0x0F, 0xFF] ++ List.replicate 45 0)))
      ∧ answers .commandTurn (holding (.readSlot 10) (hurt (station .running paid)))
          (fun t => decide (t.port.resp.getD 5 0 = 0x02 ∧ t.port.resp.getD 6 0 = 0x81)) := by
  decide +kernel

/-- The first fetch of the example of chapter 1, and one that finds nothing. -/
theorem test_fetch_marked_turn :
    let r := { paid with marks := { Marks.none with changed := true } }
    let s := holding .fetchMarked (station .running r)
    let none' := holding .fetchMarked ready
    s.commandTurnFor .fetchMarked ∧ s.nextMarked = some 10 ∧ (s.tag 10).damaged = false ∧ s.readsAs 10 r
      ∧ answers .commandTurn s (fun t => decide (t.engine.fetchCursor = 11 ∧ t.engine.marked = 0
          ∧ (t.body 10).stored = paid))
      ∧ none'.commandTurnFor .fetchMarked ∧ none'.nextMarked = none
      ∧ statusAfter .commandTurn none' = 0x06 := by decide +kernel

theorem test_enrol_turn :
    let c := RecordCommand.enrol 1234567 3 20000
    let s := holding c (station .running paid)
    let full := { s with memory := { s.memory with banks := ⟨bankWith 0, bankWith 0, bankWith 0, bankWith 0⟩ } }
    let again := holding (.enrol kit 3 20000) (station .running paid)
    let closed := holding (.enrol 1234567 4 20000) (station .running paid)
    let search := holding c (rebuilt (station .running paid))
    s.commandTurnFor c ∧ s.now = some 1020000 ∧ (s.bucket (homeBucket 1234567)).broken = false
      ∧ s.placeFor 1245 (s.bucket 1245).values = .way 1245 1 ∧ s.allocate = some 11
      ∧ answers .commandTurn s (fun t => decide ((t.tag 11).location = .way 1245 1 ∧ t.engine.allocPtr = 12
          ∧ t.engine.enrolled = 1 ∧ t.port.resp = responseBytes 0x10 .ok [0x00, 0x0B]))
      ∧ statusAfter .commandTurn full = 0x08 ∧ statusAfter .commandTurn again = 0x07
      ∧ statusAfter .commandTurn closed = 0x0B ∧ statusAfter .commandTurn search = 0x0A := by decide +kernel

/-- The image of the record of slot 10. -/
def image : RecordImage := recordImage 10 ⟨.running, false, .nowhere, false⟩ paid none

theorem test_restore_turn :
    let s := holding (.restore image) (hurt (station .running paid))
    let n := holding (.restore image) { ready with time := ⟨0, .running, 1020000, 0, 0, false⟩ }
    let u := holding (.restore image) (station .running paid)
    u.commandTurnFor (.restore image) ∧ u.now = some 1020000 ∧ badImage image = false
      ∧ (u.bucket (homeBucket image.kit)).broken = false
      ∧ u.lookupEnd (u.bucket (homeBucket image.kit)).values image.kit = .found 10
      ∧ (u.tag 10).damaged = false ∧ (u.tag 10).lifecycle ≠ .free ∧ u.gives 10 paid ∧ s.gives 10 paid
      ∧ n.commandTurnFor (.restore image)
      ∧ n.lookupEnd (n.bucket (homeBucket image.kit)).values image.kit = .absent
      ∧ answers .commandTurn s (fun t => decide ((t.tag 10).damaged = false ∧ (t.body 10).stored.issued = 1064))
      ∧ answers .commandTurn n (fun t => decide ((t.body 0).stored.kit = kit ∧ (t.tag 0).location = .way 1245 0)) := by
  decide +kernel

/-! ## Searches -/

theorem test_search_step :
    let c := RecordCommand.readRecord kit
    let s := searching 0 none (holding c (rebuilt (station .running paid)))
    let l := searching 4032 none (holding c (rebuilt (station .running paid)))
    Memory.wf s ∧ s.engine.held = some c ∧ s.engine.commandSearch = some ⟨kit, 1245, 0, none⟩
      ∧ s.arbiter = some .command ∧ (∀ x, x < 64 → (s.body x).check = .good)
      ∧ answers .searchStep s (fun t => decide (t.engine.commandSearch = some ⟨kit, 1245, 0, some 10⟩))
      ∧ answers .searchStep l (fun t => decide (t.busy = false ∧ t.port.resp.getD 2 0 = 0x06)) := by decide +kernel

/-- Slot 10 without a location, in a bucket with an empty way, a full one, and a full one with a full spill list. -/
theorem test_reinsertion :
    let s := (rebuilt (station .running paid)).putTag 10 ⟨.running, false, .nowhere, false⟩
    let w := wayOf ⟨1, 1⟩
    let full := { s with dir := ⟨[(1245, ⟨⟨w, w, w, w⟩, .normal⟩)], [], false⟩ }
    Memory.wf s ∧ (s.tag 10).location = .nowhere ∧ (s.bucket (homeBucket kit)).broken = false
      ∧ (s.bucket 1245).values.lowest (·.isNone) = some 0 ∧ (full.bucket 1245).values.lowest (·.isNone) = none
      ∧ full.spillEntry 0 = none
      ∧ (((Turn.start .sweep s).reinsert 10 kit 1245).s.tag 10).location = .way 1245 0
      ∧ (((Turn.start .sweep full).reinsert 10 kit 1245).s.tag 10).location = .spill 0 := by decide +kernel

/-- A full spill list. -/
def spillFull : List (Nat × Option SpillEntry) := (List.range 32).map fun i => (i, some ⟨1, 1, 1⟩)

theorem test_reinsertion_without_room :
    let s := (station .running paid).putTag 10 ⟨.running, false, .nowhere, false⟩
    let w := wayOf ⟨1, 1⟩
    let full := { s with dir := ⟨[(1245, ⟨⟨w, w, w, w⟩, .normal⟩)], spillFull, false⟩ }
    Memory.wf full ∧ (∀ j, j < 32 → full.spillEntry j ≠ none)
      ∧ (((Turn.start .sweep full).reinsert 10 kit 1245).s.bucket 1245).state = .rebuilding 0 := by decide +kernel

theorem test_using_turn :
    let c := RecordCommand.readRecord kit
    let s := searching 0 (some 10) (holding c (rebuilt (station .running paid)))
    let f := searching 0 (some 11) (holding c (rebuilt (station .running paid)))
    let o := searching 0 (some 10) (holding c (rebuilt (station .running { paid with kit := 5 })))
    let p := searching 0 (some 10) (holding (.topUp kit 4500) (rebuilt (station .running paid)))
    Memory.wf s ∧ s.arbiter = some .command ∧ s.readsAs 10 paid ∧ (s.tag 10).lifecycle ≠ .free
      ∧ (f.tag 11).lifecycle = .free ∧ o.readsAs 10 { paid with kit := 5 }
      ∧ p.now = some 1020000 ∧ (p.tariffClass 3).price ≠ 0
      ∧ (topUp ⟨.running, paid⟩ (p.tariffClass 3) 4500 1020000).isSome
      ∧ statusAfter .usingTurn s = 0x00 ∧ statusAfter .usingTurn f = 0x06 ∧ statusAfter .usingTurn o = 0x06
      ∧ answers .usingTurn p (fun t => decide ((t.body 10).stored.expiry = 1044400)) := by decide +kernel

/-! ## Memory errors -/

/-- The body of slot 10 has a double error. -/
def spoiled (s : State) : State := s.spoilBody 10 .double

theorem test_double_errors :
    let c := RecordCommand.topUp kit 4500
    let s := holding c (spoiled (station .running paid))
    let r := holding (.readRecord kit) (spoiled (station .running paid))
    let a := waiting (spoiled (station .running paid))
    let d := waiting (hurt (station .running paid))
    let v := sweeping 10 (spoiled (station .running paid))
    s.now = some 1020000 ∧ s.commandTurnFor c ∧ s.locates kit 10 ∧ (s.tag 10).damaged = false
      ∧ (s.body 10).check = .double ∧ r.commandTurnFor (.readRecord kit)
      ∧ CheckInNext a (arrival 0) [] ∧ a.locates kit 10
      ∧ CheckInNext d (arrival 0) [] ∧ d.locates kit 10 ∧ (d.tag 10).damaged = true
      ∧ Memory.wf v ∧ v.arbiter = some .sweep
      ∧ answers .commandTurn s (fun t => decide (t.port.resp = responseBytes 0x11 .recordDamaged []
          ∧ (t.tag 10).damaged ∧ t.integrity.report = some ⟨.record 10, .command, some 1020000⟩))
      ∧ answers .checkInTurn a (fun t => decide ((t.channel 0).map (·.grant) = some ⟨kit, 40, .keep, 0, 0, 17⟩
          ∧ t.integrity.report = some ⟨.record 10, .checkIn, some 1020000⟩)) := by decide +kernel

theorem test_uncorrectable_bucket :
    let c := RecordCommand.readRecord kit
    let s := holding c ((station .running paid).spoilWay 1245 3 .double)
    s.now = some 1020000 ∧ s.commandTurnFor c ∧ (s.bucket (homeBucket kit)).broken = true
      ∧ s.spillHolding (homeBucket kit) kit = none
      ∧ answers .commandTurn s (fun t => decide ((t.bucket 1245).state = .rebuilding 0 ∧ (t.tag 10).location = .nowhere
          ∧ t.integrity.report = some ⟨.directory 1245, .command, some 1020000⟩ ∧ t.busy)) := by decide +kernel

/-- An injection armed for slot 10 is taken by the write of a TOP UP, and not by a turn that writes no body. -/
theorem test_injection_taken :
    let arm := fun (s : State) (target : InjectTarget) =>
      { s with integrity := { s.integrity with armed := some ⟨target, .double⟩ } }
    let s := arm (holding (.topUp kit 4500) (station .running paid)) (.record 10)
    let r := arm (holding (.readRecord kit) (station .running paid)) (.record 10)
    let t : Turn := ⟨arm (station .running paid) (.bucket 1245), .command, [], [(1245, 3), (1245, 0)]⟩
    Memory.wf s ∧ s.integrity.armed = some ⟨.record 10, .double⟩
      ∧ Memory.wf t.s ∧ t.s.integrity.armed = some ⟨.bucket 1245, .double⟩ ∧ (1245, 0) ∈ t.ways
      ∧ ((t.write.bucket 1245).ways.get 0).check = .double ∧ ((t.write.bucket 1245).ways.get 3).check = .good
      ∧ answers .commandTurn s (fun t => decide ((t.body 10).check = .double ∧ (t.body 10).stored.expiry = 1044400
          ∧ t.integrity.armed = none))
      ∧ answers .commandTurn r (fun t => decide (t.integrity.armed = s.integrity.armed)) := by decide +kernel

/-! ## Check-ins -/

theorem test_check_in_unknown :
    let a := waiting { ready with time := ⟨0, .running, 1020000, 0, 0, false⟩ }
    let b := waiting (rebuilt (station .running paid))
    CheckInNext a (arrival 0) [] ∧ (a.bucket (homeBucket kit)).broken = false
      ∧ a.lookupEnd (a.bucket (homeBucket kit)).values kit = .absent
      ∧ CheckInNext b (arrival 0) [] ∧ b.lookupEnd (b.bucket (homeBucket kit)).values kit = .rebuilding
      ∧ answers .checkInTurn a (fun t => decide (t.link.counters.unknown = 1))
      ∧ answers .checkInTurn b (fun t => t.engine.checkInSearch.isSome && t.link.inService.isSome) := by
  decide +kernel

theorem test_check_in_turn :
    let s := waiting (station .running paid)
    CheckInNext s (arrival 0) [] ∧ s.finds kit 10 paid
      ∧ answers .checkInTurn s (fun t => decide ((t.body 10).stored.issued = 41
          ∧ (t.channel 0).map (·.grant.minutes) = some 10000 ∧ t.link.queue = []))
      ∧ answers .checkInTurn (unset s) (fun t => decide ((t.channel 0).map (·.grant)
          = some ⟨kit, 40, .keep, 0, 0, 17⟩ ∧ t.memory.bodies = s.memory.bodies)) := by decide +kernel

/-- Hand-overs at an elapsed count of 3,276, 3,277, 6,554 and 6,555, and with no channel. -/
theorem test_grant_hand_over :
    let s := enabled (station .running paid)
    let full := { s with link := { s.link with
      channels := (List.range 8).map fun c => (c, some (channelAt .scheduled 60000)) } }
    let handed := fun (s : State) (timer stamp : Stamp) =>
      ({ s with time := { s.time with timer := timer } }).handOver someGrant (arrival stamp)
    Memory.wf s ∧ s.link.state = .enabled ∧ ready.link.state ≠ .enabled
      ∧ Memory.wf full ∧ (∀ c, c < 8 → full.channel c ≠ none) ∧ s.channel 0 = none
      ∧ ((handed s 1000 63260).channel 0).map (·.phase) = some .scheduled
      ∧ (handed s 1000 63259).link.tx = .sending 0 1000
      ∧ (handed s 1000 59982).link.tx = .sending 0 1000
      ∧ (handed s 1000 59981).link.counters.late = 1
      ∧ (handed full 1000 1000).link.counters.noChannel = 1
      ∧ (handed ready 1000 1000).link.counters.suppressed = 1 := by decide +kernel

/-- The serials of a check-in record at their boundary: 32,767 ahead, an acknowledgement at the awaiting serial, and one
newer than the issued serial. -/
theorem test_check_in_serials :
    let c : TariffClass := ⟨450, 43200, 720, 0, 0⟩
    let r := { paid with issued := 32767, acknowledged := 0, awaiting := some 32767 }
    let report := fun s : Serial => checkedInRecord .running r ⟨kit, 17, s, 0, 0⟩ c 1020000
    (r.issued - r.acknowledged).toNat ≤ 32767
      ∧ (report 0).acknowledged = 1 ∧ (report 0).awaiting = some 32767
      ∧ (report 32767).acknowledged = 32767 ∧ (report 32767).awaiting = none
      ∧ (report 32768).acknowledged = 1 ∧ (report 32768).awaiting = some 32767 := by decide +kernel

/-! ## Sweep and evacuation -/

/-- Slot 4,095 is FREE, with a good body, with a single error, and with a double error. -/
theorem test_sweep_visit_free :
    let s := sweeping 4095 (station .running paid)
    let bodyWith := fun c : Check => { s with memory := { s.memory with
      bodies := s.memory.bodies ++ [(4095, ⟨paid, paid, [(0, c)]⟩)] } }
    Memory.wf s ∧ s.arbiter = some .sweep ∧ (s.bank (bankIndex 4095)).inUse = true
      ∧ (s.tag 4095).lifecycle = .free ∧ (s.body 4095).check = .good
      ∧ Memory.wf (bodyWith .single) ∧ ((bodyWith .single).body 4095).check = .single
      ∧ Memory.wf (bodyWith .double) ∧ ((bodyWith .double).body 4095).check = .double
      ∧ answers .sweepVisit s (fun t => decide (t.sweep = ⟨8, 0, 0, 1⟩ ∧ t.memory = s.memory))
      ∧ answers .sweepVisit (bodyWith .double) (fun t => decide (t.integrity.report
          = some ⟨.record 4095, .sweep, some 1020000⟩ ∧ (t.body 4095) = StoredBody.cleared)) := by decide +kernel

/-- The first visit of the example of chapter 8, with the clock RUNNING and UNSET. -/
theorem test_sweep_visit_live :
    let r := { paid with expiry := 1060000, reserve := 5000 }
    let s := sweeping 10 (station .running r)
    let d := sweeping 10 (hurt (station .running r))
    Memory.wf s ∧ s.arbiter = some .sweep ∧ (s.bank (bankIndex 10)).inUse = true ∧ (s.tag 10).lifecycle ≠ .free
      ∧ (s.tag 10).damaged = false ∧ (s.tag 10).location ≠ .nowhere ∧ s.readsAs 10 r
      ∧ s.now = some 1020000 ∧ (unset s).now = none ∧ (d.tag 10).damaged = true
      ∧ answers .sweepVisit s (fun t => decide ((t.body 10).stored.expiry = 1063200
          ∧ (t.body 10).stored.reserve = 1800 ∧ (t.body 10).stored.awaiting = some 41 ∧ t.engine.marked = 1))
      ∧ answers .sweepVisit (unset s) (fun t => decide (t.memory = s.memory)) := by decide +kernel

/-- The end of pass 37 of the example of chapter 8. -/
theorem test_pass_end :
    let k := fun p : BitVec 16 => { Bucket.cleared with state := .rebuilding p }
    let s := { ready with dir := ⟨[(700, k 37), (1245, k 36)], [], false⟩, sweep := ⟨8, 1, 4095, 37⟩ }
    Memory.wf s ∧ (s.endPass.bucket 1245).state = .normal ∧ (s.endPass.bucket 700).state = .rebuilding 37
      ∧ s.endPass.sweep.pass = 38 := by decide +kernel

theorem test_evacuation_move :
    let s := evacuating (station .running paid)
    Memory.wf s ∧ s.arbiter = some .evacuation ∧ s.evacuatingBank = some 2 ∧ s.lowestLive 2 = some 10
      ∧ s.nextFree = some 11 ∧ (s.tag 10).damaged = false ∧ s.readsAs 10 paid
      ∧ (s.tag 10).location = .way 1245 0 ∧ ((s.bucket 1245).ways.get 0).check ≠ .double
      ∧ s.liveIn 2 = 1 ∧ s.gives 10 paid ∧ (hurt s).gives 10 paid ∧ (hurt s).lowestLive 2 = some 10
      ∧ answers .evacuationMove s (fun t => decide (t.tag 11 = s.tag 10 ∧ t.tag 10 = Tag.cleared
          ∧ (t.bank 2).state = .outOfService ∧ ((t.bucket 1245).ways.get 0).value = some ⟨kit, 11⟩)) := by
  decide +kernel

/-! ## Invariants, and the hypotheses of the credit statements -/

theorem test_credit_hypotheses :
    let c : TariffClass := ⟨450, 43200, 720, 0, 0⟩
    c.price ≠ 0 ∧ frozen.frozen ≠ none ∧ (Lifecycle.running ≠ .free)
      ∧ (topUp ⟨.running, paid⟩ c 4500 1020000).isSome = true
      ∧ (adjustDown ⟨.running, { paid with reserve := 5 }⟩ c 10010 1020000).unapplied = 5
      ∧ (adjustDown ⟨.suspended, frozen⟩ c 10001 1020000).unapplied = 1
      ∧ (resumeAccount (suspendAccount ⟨.running, paid⟩ c 1020000) c 1030000).r.expiry = 1040000 := by decide +kernel

theorem test_invariant_hypotheses :
    let s := { station .running paid with pending := [.readTime] }
    Memory.wf s ∧ s.time.inRange ∧ s.sweep.inRange ∧ s.engine.arbiterInRange ∧ s.link.inOrder
      ∧ (∃ t, step s = .next t) := ⟨by decide, by decide, by decide, by decide, by decide, _, rfl⟩

/-- A step takes the command in front, and idles on an empty queue. -/
theorem test_step :
    step { ready with pending := [.readTime, .restart] } = exec .readTime { ready with pending := [.restart] }
      ∧ step ready = .next ready := ⟨rfl, rfl⟩

/-! ## Slots in order, and further states -/

/-- A slot with a property is the first from itself. -/
theorem firstFrom_here (p : Nat → Prop) (x : Nat) (hx : x < 4096) (h : p x) : FirstFrom x p x :=
  ⟨hx, h, fun y _ _ => by omega⟩

/-- Where the slot of the start lacks the property and the next has it, the next is the first. -/
theorem firstFrom_next (p : Nat → Prop) (x : Nat) (hx : x < 4095) (h : ¬p x) (h' : p (x + 1)) :
    FirstFrom x p (x + 1) := by
  refine ⟨by omega, h', fun y hy hpy => ?_⟩
  have : y ≠ x := fun e => h (e ▸ hpy)
  omega

/-- A full search of the check-in in service. -/
def searchingCheckIn (next : Nat) (found : Option Nat) (s : State) : State :=
  { enabled s with
    link := { (enabled s).link with inService := some (arrival 0) }
    engine := { s.engine with checkInSearch := some ⟨kit, 1245, next, found⟩ } }

/-- Slot 10 has no location. -/
def unplaced (s : State) : State := s.putTag 10 { s.tag 10 with location := .nowhere }

/-! ## Boundary cases: timed rows, the kit link -/

/-- A timed row whose event does not come next. -/
theorem test_timed_row_without_its_event : (∀ n, ¬ready.nextEventIs ready.edgesToOverdue n)
    ∧ ready.time.divider < 1966080 ∧ ready.nothingToSend
    ∧ answers .stampOverdue ready (fun t => decide (t = ready)) :=
  ⟨fun n h => by
    have h0 : least ready.edgesToOverdue = none := by decide +kernel
    exact absurd (h0.symm.trans h.2.1) (by simp), by decide, by decide +kernel, by decide +kernel⟩

/-- Two READY channels with one latest start, and one with a later start: the lowest number of the first two. -/
def offered : State :=
  ((((sending 0 ready).putChannel 0 (some (channelAt .sending 60000))).putChannel 3
    (some (channelAt .ready 60000))).putChannel 5 (some (channelAt .ready 60000))).putChannel 1
    (some (channelAt .ready 60001))

theorem test_transmitter_chooses :
    Memory.wf offered ∧ offered.link.tx = .sending 0 0
      ∧ Chosen (fun c => if c = 0 then none else offered.channel c) offered.time.timer 3
      ∧ answers .transmitDoneStrobe offered (fun t => decide (t.link.tx = .sending 3 0
          ∧ [t.channel 0, t.channel 1, t.channel 3, t.channel 5].map (·.map (·.phase))
            = [none, some .ready, some .sending, some .ready])) := by
  refine ⟨by decide +kernel, by decide, ⟨by decide, channelAt .ready 60000, by decide +kernel, by decide, ?_⟩,
    by decide +kernel⟩
  intro m k hm hk hr
  have h : ∀ m, m < 8 → (if m = 0 then none else offered.channel m).all (fun k => decide (k.phase = .ready →
      ((channelAt .ready 60000).latest - offered.time.timer).toNat < (k.latest - offered.time.timer).toNat
        ∨ ((channelAt .ready 60000).latest - offered.time.timer).toNat = (k.latest - offered.time.timer).toNat
          ∧ 3 ≤ m)) = true := by decide +kernel
  have := h m hm
  dsimp only at hk
  rw [hk] at this
  exact (of_decide_eq_true this) hr

/-- Framing (R118, R123): 10 to 12 bits to a character, and 18 characters to a packet. -/
theorem test_framing :
    let c : LinkConfig := { LinkConfig.reset with parity := .odd, twoStopBits := true }
    c.bitsOf (c.sendChar 0xA7) = [false, true, true, true, false, false, true, false, true, false, true, true]
      ∧ LinkConfig.reset.bitsOf (LinkConfig.reset.sendChar 0x01)
        = [false, true, false, false, false, false, false, false, false, true]
      ∧ offered.packetOnLine.map (·.length) = some 180 ∧ ready.packetOnLine = none := by decide +kernel

/-- Characters with a wrong parity bit or stop bit, and bad packets. -/
theorem test_bad_characters_and_packets :
    let s := { enabled ready with link := { (enabled ready).link with
      stamp := some 9, config := { LinkConfig.reset with parity := .even } } }
    let chars := fun bytes : List Byte => bytes.map s.link.config.sendChar
    let packetOf := fun payload : List Byte => chars (packet payload)
    let bad := fun cs => answers (.kitPacket cs) s fun t =>
      decide (t.link.counters.bad = 1 ∧ t.link.stamp = none ∧ t.link.parser = .hunt ∧ t.link.queue = [])
    let tail := fun id : List Byte => id ++ [0x11] ++ beBytes 2 40 ++ beBytes 3 9990 ++ [0x00#8]
    s.link.state = .enabled ∧ s.link.parser = .hunt
      ∧ bad (chars [0xA7, 0]) ∧ bad (chars [0xA7, 33])
      ∧ bad (packetOf (0x02 :: tail (beBytes 4 kit.toNat))) ∧ bad (packetOf (0x01 :: tail (beBytes 4 kit.toNat) ++ [0]))
      ∧ bad (packetOf (0x01 :: tail [0, 0, 0, 0])) ∧ bad (packetOf (0x01 :: tail [0xFF, 0xFF, 0xFF, 0xFF]))
      ∧ answers (.kitPacket [{ s.link.config.sendChar 0xA7 with stopLevel := false }]) s
        (fun t => decide (t.link.counters.parity = 1 ∧ t.link.parser = .hunt ∧ t.link.stamp = some 9))
      ∧ answers (.kitPacket [{ s.link.config.sendChar 0xA7 with parityBit := false }]) s
        (fun t => decide (t.link.counters.parity = 1)) := by decide +kernel

/-! ## Boundary cases: write transactions -/

theorem test_messages_the_port_refuses_or_shortens :
    let more := HostCommand.readTime.message ++ [0xFF]
    hostCommandOf .readTime = some .readTime ∧ more.length ≤ 64 ∧ ready.busy = false
      ∧ answers (.messageWrite 0x3A more) ready (fun t => decide (t.port.overrun ∧ t.port.rx = [0x02, 0x23, 0xDB]
          ∧ t.port.resp.getD 1 0 = 0x23 ∧ t.port.resp.getD 2 9 = 0))
      ∧ commandLength 0x55 = none ∧ commandLength 0x23 = some 0 ∧ commandLength 0x18 = some 47
      ∧ statusAfter (.messageWrite 0x3A (frame [0x55])) ready = 0x02
      ∧ statusAfter (.messageWrite 0x3A (frame [0x23, 0])) ready = 0x01
      ∧ statusAfter (.messageWrite 0x3A (frame (0x18 :: List.replicate 46 0))) ready = 0x01 := by decide +kernel

/-! ## A check-in turn in progress as the link leaves ENABLED -/

/-- The link leaves ENABLED while the check-in turn runs: the record is written and the grant suppressed. -/
def begun (s : State) : State :=
  match exec .linkDisable (waiting s) with
  | .next t => t
  | _ => s

theorem test_begun_check_in_turn :
    let s := begun (station .running paid)
    let b : BegunTurn := ⟨{ arrival 0 with overdue := true }, some 1020000, ⟨0, 0, 0, 0⟩, 0⟩
    (waiting (station .running paid)).arbiter = some .checkIn
      ∧ Memory.wf s ∧ s.engine.checkInSearch = none ∧ s.link.queue = [] ∧ s.engine.begun = some b
      ∧ s.link.state ≠ .enabled ∧ s.locates b.arrival.checkIn.kit 10
      ∧ (s.port.resp.getD 2 9 = 0 ∧ s.engine.arbiterInRange)
      ∧ answers .checkInTurn s (fun t => decide ((t.body 10).stored.issued = 41
          ∧ (t.body 10).stored.lastCheckIn = some 1020000
          ∧ t.link.counters.suppressed = 1 ∧ t.link.channels = [] ∧ t.link.inService = none
          ∧ t.engine.begun = none)) := by decide +kernel

/-- The link leaves ENABLED before the turn starts: another turn or RESTART says so, and no record is written. -/
theorem test_check_in_turn_not_begun :
    let s := begun (station .running paid)
    answers .restart s (fun t => decide (t.engine.begun = none)
        && answers .checkInTurn t (fun u => decide (u.memory = s.memory)))
      ∧ answers .sweepVisit (sweeping 10 s) (fun t => decide (t.engine.begun = none))
      ∧ answers .linkDisable (enabled (station .running paid)) (fun t => decide (t.engine.begun = none))
      ∧ ready.engine.checkInSearch = none ∧ ready.link.queue = [] ∧ ready.engine.begun = none
      ∧ answers .checkInTurn ready (fun t => decide (t = ready)) := by decide +kernel

/-! ## Boundary cases: records -/

/-- The only live slot of the bank being evacuated is retired. -/
theorem test_retire_completes_evacuation :
    let s := holding (.retire kit) (evacuating (station .running paid))
    s.evacuatingBank = some 2 ∧ s.liveIn 2 = 1 ∧ (∀ b, s.evacuatingBank = some b → 0 < s.liveIn b)
      ∧ s.commandTurnFor (.retire kit) ∧ s.locates kit 10
      ∧ answers .commandTurn s (fun t => decide ((t.bank 2).state = .outOfService ∧ (t.bank 2).free = 0
          ∧ t.memory.bankFlag ∧ t.memory.tags = [] ∧ t.dir.buckets = [] ∧ t.engine.running = 0)) := by
  refine ⟨by decide +kernel, by decide +kernel, ?_, by decide +kernel, by decide +kernel, by decide +kernel⟩
  intro b h
  have h2 : (holding (.retire kit) (evacuating (station .running paid))).evacuatingBank = some 2 := by decide +kernel
  rw [h2] at h
  cases h
  decide +kernel

/-- Bucket 1,245 is full with other kits, and so is the spill list. -/
def directoryFull (s : State) : State :=
  let w := wayOf ⟨1, 1⟩
  { s with dir := ⟨[(1245, ⟨⟨w, w, w, w⟩, .normal⟩)], spillFull, false⟩ }

/-- Every slot is live, or in a bank out of service. -/
def tableFull (s : State) : State := { s with memory := { s.memory with
  banks := ⟨⟨.outOfService, 0, 0⟩, ⟨.outOfService, 0, 0⟩, ⟨.inService, 0, 0⟩, ⟨.outOfService, 0, 0⟩⟩ } }

/-- The image of a record whose minutes beyond the horizon do not fit the reserve. -/
def richImage : RecordImage := { image with expiry := 1063201, reserve := 1048575 }

/-- RESTORE's refusals, in place and for a new slot, at the boundary of the reserve (R93, R94). -/
theorem test_restore_refusals :
    let empty := { ready with time := ⟨0, .running, 1020000, 0, 0, false⟩, tariff := [(3, ⟨450, 43200, 720, 0, 0⟩)] }
    let rebuilding := holding (.restore image) (rebuilt (station .running paid))
    let full := holding (.restore image) (directoryFull empty)
    let noSlot := holding (.restore image) (tableFull empty)
    let rich := holding (.restore richImage) empty
    let inPlace := holding (.restore richImage) (station .running paid)
    let fits := holding (.restore { richImage with expiry := 1063200 }) empty
    badImage image = false ∧ badImage richImage = false
      ∧ rebuilding.commandTurnFor (.restore image)
      ∧ rebuilding.lookupEnd (rebuilding.bucket (homeBucket image.kit)).values image.kit = .rebuilding
      ∧ full.commandTurnFor (.restore image) ∧ full.placeFor 1245 (full.bucket 1245).values = .nowhere
      ∧ noSlot.commandTurnFor (.restore image) ∧ noSlot.allocate = none
      ∧ noSlot.placeFor 1245 (noSlot.bucket 1245).values = .way 1245 0
      ∧ rich.commandTurnFor (.restore richImage) ∧ inPlace.commandTurnFor (.restore richImage)
      ∧ 1048575 < (restoredRecord richImage ⟨450, 43200, 720, 0, 0⟩ 1020000 0).reserve
      ∧ [rebuilding, full, noSlot, rich, inPlace, fits].map (statusAfter .commandTurn)
        = [0x0A, 0x09, 0x08, 0x0D, 0x0D, 0x00] := by decide +kernel

/-- ENROL in a full directory, and the two scans of ENROL. -/
theorem test_enrol_scans :
    let s := holding (.enrol 1234567 3 1) (directoryFull (station .running paid))
    let t := station .running paid
    s.commandTurnFor (.enrol 1234567 3 1) ∧ s.placeFor 1245 (s.bucket 1245).values = .nowhere
      ∧ statusAfter .commandTurn s = 0x09
      ∧ t.engine.allocPtr < 4096 ∧ t.allocatable ≠ 0 ∧ t.evacuatingBank = none ∧ t.isOpen 11
      ∧ t.allocate = some 11 ∧ (tableFull t).allocatable = 0 ∧ (tableFull t).allocate = none
      ∧ (evacuating { t with memory := { t.memory with
          banks := ⟨bankWith 0, bankWith 1, bankWith 1023, bankWith 0⟩ } }).allocate = none
      ∧ t.engine.fetchCursor < 4096 := by decide +kernel

/-- A status block, and the report blocks. -/
theorem test_report_bytes :
    let e := { (station .running paid) with integrity := ⟨some ⟨.directory 700, .checkIn, none⟩, true, true, 0,
      some ⟨.bucket 2047, .double⟩⟩ }
    Memory.wf e ∧ (∀ b, b ∈ [0, 2048, 4096] → (e.bucket b).state = .normal)
      ∧ e.integrity.reportBlock = [1, 1, 0x02, 0xBC, 0xFF, 0, 0, 0, 0, 0, 0, 3]
      ∧ e.integrity.injectionBlock = [1, 1, 0x07, 0xFF, 2]
      ∧ e.statusBlock = [0, 0, 0, 1, 0, 0, 0, 0, 0x0F, 0xFF, 0, 0, 0, 0, 1, 1, 1, 1, 0xFF, 0, 0, 0, 0, 0xFF, 0xFF,
          1, 0, 0, 0, 0, 1, 0x04] := by decide +kernel

/-! ## Boundary cases: searches -/

/-- Search steps of a check-in and of a command: a hit, one without a location, the end of the search. -/
theorem test_search_step_of_a_check_in :
    let s := searchingCheckIn 0 none (rebuilt (station .running paid))
    let l := searchingCheckIn 4032 none (rebuilt (station .running paid))
    let u := searching 0 none (holding (.readRecord kit) (unplaced (rebuilt (station .running paid))))
    let d := searching 0 none (holding (.readRecord kit) (rebuilt ((station .running paid).spoilBody 10 .double)))
    let g := searching 0 none (holding (.readRecord kit) (rebuilt ((station .running paid).spoilBody 10 .single)))
    Memory.wf s ∧ s.arbiter = some .checkIn ∧ s.engine.checkInSearch = some ⟨kit, 1245, 0, none⟩
      ∧ Memory.wf u ∧ u.arbiter = some .command ∧ (u.tag 10).location = .nowhere
      ∧ d.newlyDamaged 10 ∧ (g.body 10).check = .single
      ∧ answers .searchStep s (fun t => decide (t.engine.checkInSearch = some ⟨kit, 1245, 0, some 10⟩))
      ∧ answers .searchStep l (fun t => decide (t.engine.checkInSearch = none ∧ t.link.inService = none
          ∧ t.link.counters.unknown = 1))
      ∧ answers .searchStep u (fun t => decide ((t.tag 10).location = .way 1245 0
          ∧ ((t.bucket 1245).ways.get 0).value = some ⟨kit, 10⟩))
      ∧ answers .searchStep d (fun t => decide ((t.tag 10).damaged ∧ t.engine.damaged = 1
          ∧ t.engine.commandSearch = some ⟨kit, 1245, 64, none⟩
          ∧ t.integrity.report = some ⟨.record 10, .command, some 1020000⟩))
      ∧ answers .searchStep g (fun t => decide ((t.body 10).check = .good ∧ (t.bank 2).corrected = 1)) := by
  decide +kernel

/-- Using turns of a check-in, and of commands on a DAMAGED slot. -/
theorem test_using_turn_of_a_check_in :
    let s := searchingCheckIn 0 (some 10) (rebuilt (station .running paid))
    let f := searchingCheckIn 0 (some 11) (rebuilt (station .running paid))
    let o := searchingCheckIn 0 (some 10) (rebuilt (station .running { paid with kit := 5 }))
    let d := searching 0 (some 10) (holding (.topUp kit 4500) (hurt (rebuilt (station .running paid))))
    let r := searching 0 (some 10) (holding (.retire kit) (rebuilt (station .running paid)))
    Memory.wf s ∧ s.engine.checkInSearch = some ⟨kit, 1245, 0, some 10⟩ ∧ s.arbiter = some .checkIn
      ∧ s.link.inService = some (arrival 0) ∧ (s.tag 10).lifecycle ≠ .free ∧ (s.reading 10).kit = kit
      ∧ (f.tag 11).lifecycle = .free ∧ (o.reading 10).kit ≠ kit
      ∧ Memory.wf d ∧ d.arbiter = some .command ∧ (d.tagRead 10).damaged ∧ (d.reading 10).kit = kit
      ∧ answers .usingTurn s (fun t => decide ((t.body 10).stored.issued = 41
          ∧ (t.channel 0).map (·.grant.minutes) = some 10000 ∧ t.engine.checkInSearch = none))
      ∧ answers .usingTurn f (fun t => decide (t.link.counters.unknown = 1 ∧ t.engine.checkInSearch = none))
      ∧ answers .usingTurn o (fun t => decide (t.link.counters.unknown = 1 ∧ t.memory = o.memory))
      ∧ statusAfter .usingTurn d = 0x0E ∧ statusAfter .usingTurn r = 0x00 := by decide +kernel

/-! ## Boundary cases: sweep and evacuation -/

/-- A visit passes over a bank out of use, and the visit of slot 4,095 ends the pass. -/
theorem test_sweep_passes_over_banks :
    let s := sweeping 4094 ((station .running paid).setBank 2 ⟨.outOfService, 0, 0⟩)
    let inUse := fun x => (s.bank (bankIndex x)).inUse = true
    let back := { s with dir := ⟨[(700, { Bucket.cleared with state := .rebuilding 9 })], [], false⟩ }
    Memory.wf s ∧ s.arbiter = some .sweep ∧ s.sweep.position < 4096 ∧ FirstFrom s.sweep.position inUse 4095
      ∧ answers .sweepVisit back (fun t => decide (t.sweep = ⟨8, 0, 0, 1⟩ ∧ (t.bucket 700).state = .normal)) :=
  ⟨by decide +kernel, by decide +kernel, by decide,
    firstFrom_next _ 4094 (by decide) (by decide +kernel) (by decide +kernel), by decide +kernel⟩

/-- A visit re-inserts a slot without a location. -/
theorem test_sweep_reinserts :
    let s := sweeping 10 (unplaced (rebuilt (station .running paid)))
    FirstFrom s.sweep.position (fun x => (s.bank (bankIndex x)).inUse = true) 10 ∧ (s.tag 10).location = .nowhere
      ∧ (s.tag 10).damaged = false ∧ s.readsAs 10 paid
      ∧ answers .sweepVisit s (fun t => decide ((t.tag 10).location = .way 1245 0)) :=
  ⟨firstFrom_here _ 10 (by decide) (by decide +kernel), by decide +kernel, by decide +kernel, by decide +kernel,
    by decide +kernel⟩

/-- Moves of a slot with a way, with a spill entry, without a location, and with an uncorrectable way. -/
theorem test_evacuation_locations :
    let s := evacuating (station .running paid)
    let n := unplaced (evacuating (rebuilt (station .running paid)))
    let w := s.spoilWay 1245 0 .double
    let p := (evacuating (station .running paid)).putTag 10 ⟨.running, false, .spill 31, false⟩
    let p := { p with dir := ⟨[], [(31, some ⟨kit, 10, 1245⟩)], false⟩ }
    s.engine.allocPtr < 4096 ∧ FirstFrom s.engine.allocPtr s.isOpen 11
      ∧ (∀ x, x < 10 → bankIndex x = 2 → (s.tag x).lifecycle = .free)
      ∧ (n.tag 10).location = .nowhere ∧ ((w.bucket 1245).ways.get 0).check = .double ∧ Memory.wf p
      ∧ answers .evacuationMove n (fun t => decide ((t.tag 11).location = .way 1245 0))
      ∧ answers .evacuationMove w (fun t => decide ((t.tag 11).location = .nowhere
          ∧ (t.bucket 1245).state = .rebuilding 0))
      ∧ answers .evacuationMove p (fun t => decide (t.spillEntry 31 = some ⟨kit, 11, 1245⟩)) :=
  ⟨by decide, firstFrom_here _ 11 (by decide) (by decide +kernel), by decide +kernel, by decide +kernel,
    by decide +kernel, by decide +kernel, by decide +kernel, by decide +kernel, by decide +kernel⟩

/-! ## Boundary cases: credit -/

/-- Purchases and positive adjusts of SUSPENDED and ENROLLED records, and at the bound of the reserve. -/
theorem test_minutes_placed :
    let c : TariffClass := ⟨450, 43200, 720, 0, 0⟩
    let early := { frozen with prior := some .enrolled }
    (topUp ⟨.suspended, early⟩ c 4500 1020000).map (fun x => (x.applied, x.account.r.frozen, x.account.r.prior))
        = some (14400, some 24400, some .running)
      ∧ (topUp ⟨.enrolled, paid⟩ { c with price := 65535 } 1 1020000).map (fun x => (x.applied, x.account.r.expiry))
        = some (0, 1030000)
      ∧ (adjustUp ⟨.enrolled, paid⟩ c 33201 1020000).map (fun x => (x.applied, x.toReserve, x.account.r.expiry,
          x.account.lc)) = some (33200, 1, 1063200, .running)
      ∧ adjustUp ⟨.running, { paid with reserve := 1048575, expiry := 1063200 }⟩ c 1 1020000 = none := by
  decide +kernel

/-- LAPSED at the check-in of a RUNNING record whose grace has passed, and not at one noted. -/
theorem test_check_in_notes_lapse :
    let c : TariffClass := ⟨450, 43200, 720, 0, 0⟩
    let r := { paid with expiry := 1019280 }
    (checkedInRecord .running r ⟨kit, 17, 40, 0, 0⟩ c 1020000).marks.lapsed = true
      ∧ (checkedInRecord .running r ⟨kit, 17, 40, 0, 0⟩ c 1019999).lapseNoted = false
      ∧ (checkedInRecord .running { r with lapseNoted := true } ⟨kit, 17, 40, 0, 0⟩ c 1020000).marks.lapsed = false := by
  decide +kernel

/-- Waiting counts after a turn: CHECK-IN stops waiting and COMMAND waits on. -/
theorem test_counts_after_a_turn :
    let s := holding .fetchMarked (waiting (station .running paid))
    let s := { s with engine := { s.engine with waits := ⟨3, 7, 0, 0⟩ } }
    IsTurnOf s .checkInTurn .checkIn
      ∧ answers .checkInTurn s (fun t => decide (t.engine.waits = ⟨0, 8, 0, 0⟩ ∧ t.engine.consecutive = 1)) :=
  ⟨⟨by decide +kernel, Or.inr (Or.inl ⟨rfl, rfl, by decide, rfl⟩)⟩, by decide +kernel⟩

theorem test_evacuation_and_pointers_hold :
    let s := { evacuating (station .running paid) with pending := [.evacuationMove] }
    s.evacuationHolds ∧ s.engine.pointersInRange ∧ (∃ t, step s = .next t) :=
  ⟨by
    intro b hb
    have h : ∀ b : Fin 4, (({ evacuating (station .running paid) with pending := [.evacuationMove] } : State).bank b).state
        = .evacuating → b = 2 := by decide +kernel
    cases h b hb
    exact ⟨by decide +kernel, by decide +kernel, by decide +kernel⟩, by decide, _, rfl⟩

/-! ## Boundary cases: acknowledgements, and links that are not ENABLED -/

/-- The port acknowledges its own address and each byte, those it discards too, and no other address (R162). -/
theorem test_acknowledges :
    let busy := holding .fetchMarked ready
    let acks := fun (i : Instr) (s : State) => match exec i s with
      | .next t => t.port.acks
      | _ => [false]
    ready.address = 0x3A ∧ acks (.messageWrite 0x3A [0x02, 0x23, 0xDB]) ready = [true, true, true, true]
      ∧ acks (.messageWrite 0x3B [0x02, 0x23, 0xDB]) ready = [] ∧ acks (.messageWrite 0 []) ready = []
      ∧ acks (.messageWrite 0x3A []) ready = [true]
      ∧ (acks (.messageWrite 0x3A (List.replicate 65 0)) ready).length = 66
      ∧ acks (.collidingWrite 0x3A [0xFF]) busy = [true, true] ∧ acks .restart busy = [true, true, true, true]
      ∧ acks (.statusRead 0x3A 5) ready = [true] ∧ acks (.statusRead 0x3D 5) ready = []
      ∧ acks (.statusRead 0x3A 0) ready = [true]
      ∧ answers (.statusRead 0x3A 0) ready (fun t => decide (t = ready.drives [true])) := by decide +kernel

/-- The links of the states that meet the statements about the time input are in order. -/
theorem test_links_in_order :
    ready.link.inOrder ∧ (beforeTick (station .running paid)).link.inOrder ∧ (sending 100 ready).link.inOrder
      ∧ ((sending 0 ready).putChannel 7 (some (channelAt .ready 65000))).link.inOrder
      ∧ ((sending 65001 ready).putChannel 7 (some (channelAt .ready 65000))).link.inOrder := by decide +kernel

/-- A tick and a transmit timeout at one edge: the check-in turn in progress has read the minute after the tick, and
has the count of a grant over the sweep that the tick let wait (log 4). -/
theorem test_tick_before_timeout :
    let s := { sending 58983 (beforeTick (waiting (station .running paid))) with
      link := { (sending 58983 ready).link with queue := [arrival 0] } }
    answers .timeInputEdge s (fun t => decide (t.link.state = .faulted ∧ t.time.minute = 1020001
      ∧ t.engine.begun.map (·.now) = some (some 1020001)
      ∧ t.engine.begun.map (·.waits) = some ⟨0, 0, 0, 1⟩)) := by decide +kernel

/-- EVACUATION stops waiting and waits again before a check-in turn in progress completes: its count is 0 (R77). -/
theorem test_count_of_a_requester_that_stopped :
    let s := evacuating (waiting (station .running paid))
    let s := { s with engine := { s.engine with waits := ⟨0, 0, 7, 0⟩ } }
    answers .linkDisable s (fun t => decide (t.engine.begun.map (·.waits.evacuation) = some 8)
      && answers .cancelEvacuation t (fun u => decide (u.engine.begun.map (·.waits.evacuation) = some 0)
        && answers (.evacuateBank 2) u (fun v => answers .checkInTurn v (fun w =>
          decide (w.engine.waits.evacuation = 0 ∧ w.link.counters.suppressed = 1))))) := by decide +kernel

/-! ## Boundary cases: commands with the clock UNSET, and uncorrectable words -/

/-- CHANGE CLASS, RETIRE and READ RECORD need no minute: not found, the full search, and RECORD_DAMAGED. -/
theorem test_commands_without_the_clock :
    let c := RecordCommand.changeClass kit 3
    let a := holding c ready
    let b := holding c (unset (rebuilt (station .running paid)))
    let d := holding c (unset (hurt (station .running paid)))
    c.needsMinute = false ∧ (RecordCommand.topUp kit 1).needsMinute = true ∧ c.seeks = some kit ∧ a.now = none
      ∧ a.commandTurnFor c ∧ (a.bucket (homeBucket kit)).broken = false
      ∧ a.lookupEnd (a.bucket (homeBucket kit)).values kit = .absent
      ∧ b.now = none ∧ b.commandTurnFor c ∧ b.lookupEnd (b.bucket (homeBucket kit)).values kit = .rebuilding
      ∧ d.now = none ∧ d.commandTurnFor c ∧ (d.tag 10).damaged = true
      ∧ statusAfter .commandTurn a = 0x06 ∧ statusAfter .commandTurn d = 0x0E
      ∧ answers .commandTurn b (fun t => t.busy && t.engine.commandSearch.isSome) := by decide +kernel

/-- READ SLOT and FETCH MARKED meet an uncorrectable body. -/
theorem test_reads_of_an_uncorrectable_body :
    let r := { paid with marks := { Marks.none with changed := true } }
    let s := holding (.readSlot 10) (spoiled (station .running r))
    let f := holding .fetchMarked (spoiled (station .running r))
    s.commandTurnFor (.readSlot 10) ∧ (s.bank (bankIndex 10)).inUse = true ∧ (s.tag 10).lifecycle ≠ .free
      ∧ (s.tag 10).damaged = false ∧ (s.body 10).check = .double
      ∧ f.commandTurnFor .fetchMarked ∧ f.nextMarked = some 10
      ∧ answers .commandTurn s (fun t => decide ((t.tag 10).damaged ∧ (t.tag 10).marked ∧ t.engine.damaged = 1))
      ∧ answers .commandTurn f (fun t => decide ((t.tag 10).damaged ∧ ¬(t.tag 10).marked ∧ t.engine.marked = 0
          ∧ (t.body 10).stored = paid ∧ t.integrity.report = some ⟨.record 10, .command, some 1020000⟩)) := by
  decide +kernel

/-- A way of bucket 1,245 is uncorrectable. -/
def brokenBucket (s : State) : State := s.spoilWay 1245 3 .double

/-- Lookups of ENROL, RESTORE, check-in turns and a READ RECORD with the clock UNSET in an uncorrectable bucket. -/
theorem test_uncorrectable_bucket_of_any_turn :
    let c := RecordCommand.enrol kit 3 1
    let e := holding c (brokenBucket (station .running paid))
    let r := holding (.restore image) (brokenBucket (station .running paid))
    let u := holding (.readRecord kit) (unset (brokenBucket (station .running paid)))
    let a := waiting (brokenBucket (station .running paid))
    let b := begun (brokenBucket (station .running paid))
    let wiped := fun t : State => decide ((t.bucket 1245).state = .rebuilding 0 ∧ (t.tag 10).location = .nowhere)
    c.looksUp = some kit ∧ e.commandTurnFor c ∧ e.now ≠ none ∧ (e.tariffClass 3).price ≠ 0
      ∧ (e.bucket (homeBucket kit)).broken = true ∧ r.commandTurnFor (.restore image)
      ∧ (RecordCommand.restore image).looksUp = some kit
      ∧ u.commandTurnFor (.readRecord kit) ∧ u.spillHolding (homeBucket kit) kit = none
      ∧ CheckInNext a (arrival 0) [] ∧ (a.bucket (homeBucket kit)).broken = true
      ∧ Memory.wf b ∧ b.engine.checkInSearch = none ∧ b.link.queue = [] ∧ b.engine.begun.isSome
      ∧ (b.bucket (homeBucket kit)).broken = true
      ∧ statusAfter .commandTurn e = 0x0A ∧ statusAfter .commandTurn r = 0x0A
      ∧ answers .commandTurn e wiped ∧ answers .commandTurn u (fun t => wiped t && t.busy)
      ∧ answers .checkInTurn a (fun t => wiped t && t.engine.checkInSearch.isSome)
      ∧ answers .checkInTurn b (fun t => wiped t && t.engine.checkInSearch.isSome) := by decide +kernel

/-- The write of the empty ways takes an injection armed for the bucket, in way 0. -/
theorem test_wipe_takes_an_injection :
    let s := holding (.readRecord kit) (brokenBucket (station .running paid))
    let s := { s with integrity := { s.integrity with armed := some ⟨.bucket 1245, .single⟩ } }
    s.integrity.armed = some ⟨.bucket (homeBucket kit), .single⟩
      ∧ answers .commandTurn s (fun t => decide (((t.bucket 1245).ways.get 0).check = .single
          ∧ ((t.bucket 1245).ways.get 3).check = .good ∧ t.integrity.armed = none)) := by decide +kernel

theorem test_held_and_priors_hold :
    let s := { evacuating (station .running paid) with pending := [.evacuationMove] }
    Memory.wf s ∧ s.heldInRange ∧ s.nothingToSend ∧ s.priorsHold := by
  refine ⟨by decide +kernel, nofun, by decide +kernel, fun slot => ?_⟩
  have h : ({ evacuating (station .running paid) with pending := [.evacuationMove] } : State).body slot
      = if 10 = slot then ⟨paid, paid, []⟩ else StoredBody.cleared := rfl
  rw [h]
  split <;> exact ⟨.inl rfl, .inl rfl⟩

/-! ## Boundary cases: the words of a body, and corrected ways -/

/-- A body whose word that holds the kit id is corrected and whose next word is uncorrectable: the kit id is returned as
it was written, and a field of another word as it lies stored. -/
theorem test_words_of_a_body :
    let w := Config.fieldWord .kit
    let b : StoredBody := ⟨paid, { paid with kit := 5, reserve := 9 }, [(w, .single), (w + 1, .double)]⟩
    cellsWf Check.good b.words ∧ b.check = .double ∧ b.read.kit = kit ∧ b.stored.kit = 5
      ∧ (Config.fieldWord .reserve ≠ w → b.read.reserve = 9) := by
  refine ⟨⟨by simp, by simp⟩, rfl, ?_, rfl, fun h => ?_⟩
  · rw [StoredBody.read_eq]
    exact StoredBody.field_single _ _ _ (by simp [StoredBody.word, cellRead])
  · rw [StoredBody.read_eq]
    refine StoredBody.field_stored _ _ _ ?_
    by_cases h' : Config.fieldWord .kit + 1 = Config.fieldWord .reserve <;>
      simp [StoredBody.word, cellRead, Ne.symm h, h']

/-- Way 0 of bucket 1,245, that of slot 10, has a single error. -/
def strained (s : State) : State := s.spoilWay 1245 0 .single

/-- Lookups that find a kit, that find none and that insert, with a corrected way: it is written back and counted. -/
theorem test_corrected_ways :
    let good := fun (n : Nat) (t : State) => decide (((t.bucket 1245).ways.get 0) = wayOf ⟨kit, 10⟩
      ∧ t.integrity.dirCorrected = n)
    let s := strained (station .running paid)
    let f := holding (.readRecord kit) s
    let a := holding (.readRecord 1234567) s
    let c := RecordCommand.enrol 1234567 3 20000
    let most := { s with integrity := { s.integrity with dirCorrected := 65535 } }
    let u := { waiting s with link := { (waiting s).link with queue := [⟨⟨1234567, 1, 0, 0, 0⟩, 0, false⟩] } }
    (s.bucket 1245).broken = false ∧ (s.bucket 1245).corrections = 1 ∧ homeBucket 1234567 = 1245
      ∧ f.commandTurnFor (.readRecord kit) ∧ f.locates kit 10 ∧ f.gives 10 paid
      ∧ a.commandTurnFor (.readRecord 1234567) ∧ a.lookupEnd (a.bucket 1245).values 1234567 = .absent
      ∧ s.integrity.armed = none
      ∧ answers .commandTurn f (good 1) ∧ answers .commandTurn a (good 1)
      ∧ answers .commandTurn (holding (.readRecord kit) most) (good 65535)
      ∧ answers .commandTurn (holding c s) (fun t => good 1 t && decide ((t.bucket 1245).ways.get 1 = wayOf ⟨1234567, 11⟩))
      ∧ answers .checkInTurn u (fun t => good 1 t && decide (t.link.counters.unknown = 1))
      ∧ answers .evacuationMove (evacuating s) (fun t => decide ((t.bucket 1245).ways.get 0 = wayOf ⟨kit, 11⟩
          ∧ t.integrity.dirCorrected = 1)) := by decide +kernel

/-- A refused command's corrected write-back: the body is good again and its bank's count risen; an injection armed for
the slot is taken by it. -/
theorem test_corrected_body_of_a_refused_command :
    let s := holding (.resume kit) ((station .running paid).spoilBody 10 .single)
    let i := { s with integrity := { s.integrity with armed := some ⟨.record 10, .double⟩ } }
    s.commandTurnFor (.resume kit) ∧ s.finds kit 10 paid ∧ s.corrects 10 ∧ s.writesBody 10 .read
      ∧ s.bodyWritten 10 paid = ⟨paid, paid, []⟩ ∧ i.bodyWritten 10 paid = ⟨paid, paid, [(0, .double)]⟩
      ∧ statusAfter .commandTurn s = 0x0C
      ∧ answers .commandTurn s (fun t => decide (t.body 10 = ⟨paid, paid, []⟩ ∧ (t.bank 2).corrected = 1))
      ∧ answers .commandTurn i (fun t => decide (t.body 10 = ⟨paid, paid, [(0, .double)]⟩
          ∧ t.integrity.armed = none)) := by decide +kernel

/-- ENROL answered EXISTS has read the body of the slot found: a corrected one is written back and counted, an
uncorrectable one makes the slot DAMAGED and is reported; a good one, a DAMAGED one and a FREE slot's stay. -/
theorem test_exists_reads_the_body :
    let c := RecordCommand.enrol kit 3 20000
    let g := holding c (station .running paid)
    let s := holding c ((station .running paid).spoilBody 10 .single)
    let d := holding c (spoiled (station .running paid))
    let h := holding c (hurt (spoiled (station .running paid)))
    let f := holding c ((station .running paid).putTag 10 Tag.cleared)
    let found := fun x : State => decide (x.commandTurnFor c ∧ x.now = some 1020000
      ∧ (x.tariffClass 3).price ≠ 0 ∧ (x.bucket (homeBucket kit)).broken = false
      ∧ x.lookupEnd (x.bucket (homeBucket kit)).values kit = .found 10)
    let exists' := fun x : State => statusAfter .commandTurn x = 0x07
    found g ∧ found s ∧ found d ∧ found h ∧ found f ∧ exists' g ∧ exists' s ∧ exists' d ∧ exists' h ∧ exists' f
      ∧ (f.tag 10).lifecycle = .free ∧ (s.tag 10).lifecycle ≠ .free
      ∧ answers .commandTurn g (fun t => decide (t.memory = g.memory))
      ∧ answers .commandTurn s (fun t => decide (t.body 10 = ⟨paid, paid, []⟩ ∧ (t.bank 2).corrected = 1
          ∧ t.integrity.report = none))
      ∧ answers .commandTurn d (fun t => decide (t.body 10 = d.body 10 ∧ (t.tag 10).damaged ∧ t.engine.damaged = 1
          ∧ (t.bank 2).corrected = 0 ∧ t.integrity.report = some ⟨.record 10, .command, some 1020000⟩))
      ∧ answers .commandTurn h (fun t => decide (t.memory = h.memory ∧ t.integrity = h.integrity))
      ∧ answers .commandTurn f (fun t => decide (t.memory = f.memory)) := by decide +kernel

/-- What a lookup finds: a way (a corrected one as written), the last spill entry, nothing in a NORMAL and in a
REBUILDING bucket; and no entry of another kit or of another home bucket. -/
theorem test_lookup_ends :
    let s := station .running paid
    let w := s.spoilWay 1245 0 .single
    let p := fun (home : Nat) => { s with dir := ⟨[], [(31, some ⟨kit, 10, home⟩)], false⟩ }
    let ends := fun x : State => x.lookupEnd (x.bucket (homeBucket kit)).values kit
    (s.bucket 1245).values.get 0 = some ⟨kit, 10⟩ ∧ ends s = .found 10
      ∧ ((w.bucket 1245).ways.get 0).check = .single ∧ ((w.bucket 1245).ways.get 0).written = some ⟨kit, 10⟩
      ∧ ends w = .found 10 ∧ (s.bucket 1245).broken = false ∧ (s.spoilWay 1245 3 .double |>.bucket 1245).broken = true
      ∧ (p 1245).spillEntry 31 = some ⟨kit, 10, homeBucket kit⟩ ∧ ends (p 1245) = .found 10 ∧ ends (p 1244) = .absent
      ∧ ends ready = .absent ∧ ends (rebuilt s) = .rebuilding
      ∧ s.lookupEnd (s.bucket 1245).values 1234567 = .absent := by decide +kernel

/-- One edge at the timer's new value: a check-in 32,768 counts old becomes overdue, in the queue and in service; a
SCHEDULED channel opens and is sent; a READY one past its latest start is given up; a send times out. -/
theorem test_edge_effects :
    let at' := fun (timer : Stamp) (s : State) => { s with time := { s.time with timer := timer } }
    let q := at' 32767 { enabled ready with link := { (enabled ready).link with
      queue := [arrival 0, arrival 1], inService := some (arrival 0) } }
    let o := at' 3276 ((enabled ready).putChannel 0 (some (channelAt .scheduled 0)))
    let l := at' 6554 ((sending 6000 ready).putChannel 7 (some (channelAt .ready 0)))
    let k := at' 6653 ((sending 100 (waiting ready)).putChannel 7 (some (channelAt .ready 100)))
    let held := fun s : State => decide (Memory.wf s ∧ s.link.inOrder ∧ s.time.divider < 1966080)
    held q ∧ held o ∧ held l ∧ held k ∧ k.link.tx = .sending 0 100
      ∧ k.time.timer + 1 = 100 + BitVec.ofNat 16 k.link.config.timeout
      ∧ answers .timeInputEdge q (fun t => decide (t.link.queue.map (·.overdue) = [true, false]
          ∧ t.link.inService.map (·.overdue) = some true))
      ∧ answers .timeInputEdge o (fun t => decide (t.link.tx = .sending 0 3277
          ∧ t.channel 0 = some (channelAt .sending 0)))
      ∧ answers .timeInputEdge l (fun t => decide (t.channel 7 = none ∧ t.link.counters.collided = 1
          ∧ t.link.tx = .sending 0 6000))
      ∧ answers .timeInputEdge k (fun t => decide (t.link.state = .faulted ∧ t.link.atRest
          ∧ t.link.counters.transmitTimeout = 1 ∧ t.link.counters.collided = 0)) := by decide +kernel

/-- Adjusts, a suspension and a resumption at their boundaries: the reserve first, then the credit, then unapplied; the
release of the resuming minute; lapse noted cleared at CREDIT; and a pay-off's frame. -/
theorem test_credit_at_the_boundaries :
    let c : TariffClass := ⟨450, 43200, 720, 0, 0⟩
    let r := { paid with expiry := 1063200, reserve := 5, lapseNoted := true, drift := -3, silenceNoted := true
                         marks := { Marks.none with tamper := true } }
    let changed := { Marks.none with tamper := true, changed := true }
    let down := fun m => adjustDown ⟨.running, r⟩ c m 1020000
    let s := suspendAccount ⟨.running, r⟩ c 1020000
    let b := resumeAccount s { c with horizon := 43203 } 1030000
    (down 5).applied = 0 ∧ (down 5).account.r.reserve = 0 ∧ (down 6).applied = 1 ∧ (down 6).account.r.reserve = 0
      ∧ (down 4).account.r.reserve = 1 ∧ (down 43205).unapplied = 0 ∧ (down 43206).unapplied = 1
      ∧ (down 43206).account.r.expiry = 1020000 ∧ (down 43206).account.r.lapseNoted = true
      ∧ (down 5).account.r = { r with reserve := 0, lapseNoted := false, awaiting := some 41, marks := changed }
      ∧ s = ⟨.suspended, { r with frozen := some 43200, prior := some .running, awaiting := some 41, marks := changed }⟩
      ∧ b = ⟨.running, { r with
          expiry := 1073203, reserve := 2, lapseNoted := false, awaiting := some 41, marks := changed }⟩
      ∧ (adjustDown ⟨.suspended, frozen⟩ c 10001 1020000).account.r.frozen = some 0
      ∧ (topUp ⟨.running, r⟩ c 20000 1020000).map (·.account.r) = some { r with
          outstanding := 0, paidTotal := 20000, reserve := 0, lapseNoted := false, awaiting := some 41
          marks := changed } := by decide +kernel

end Sys2Proof.Tests
end

section
/-! PROOFS. The time commands (R23 to R26): the rules by which a port that is not BUSY answers a host command, and
the commands' refusals and effects from them. -/

namespace Sys2Proof.Machine

/-! ## A command taken by a port that is not BUSY (R164, R165) -/

/-- The row of a host command, at a port that is not BUSY, opens the buffers on its message and takes the command. -/
theorem exec_hostCommand_of_free {i : Instr} {c : HostCommand} (row : hostCommandOf i = some c) {s : State}
    (free : s.busy = false) : exec i s = .next (takeCommand c (s.openWrite c.message)) := by
  rw [exec_hostCommand row, send_of_free free]

namespace State

variable (s : State) (c : HostCommand)

theorem openWrite_respond (st : Status) (fields : List Byte) :
    (s.openWrite c.message).respond c.code st fields = s.answered c st fields := rfl

theorem openWrite_refuse (st : Status) : (s.openWrite c.message).refuse c.code st = s.answered c st [] := rfl

theorem openWrite_answerTime (t : TimeUnit) :
    (s.openWrite c.message).answerTime c.code t = { s.answered c .ok t.report with time := t } := rfl

end State

/-! ## The four commands -/

theorem badMinutes_iff (n : Nat) : badMinutes n = true ↔ n < 1 ∨ 1440 < n := by simp [badMinutes]

/-- The time unit after an accepted SET TIME (R23). -/
def TimeUnit.setTo (t : TimeUnit) (minute : Nat) : TimeUnit :=
  { t with clock := .running, minute := minute, divider := 0, hold := 0 }

/-- The report of R26 after an accepted SET TIME: RUNNING, the minute given, and two zero bytes of hold count. -/
theorem TimeUnit.report_setTo (t : TimeUnit) (minute : Nat) :
    (t.setTo minute).report = [0x01#8] ++ beBytes 4 minute ++ [0, 0, flagByte t.inputLost] := by
  have noHold : beBytes 2 0 = [0, 0] := rfl
  simp [TimeUnit.report, TimeUnit.setTo, ClockState.code, noHold]

/-- SET TIME (R23): the range first, then the clock state, then the setting. -/
theorem exec_setTime {s : State} (free : s.busy = false) (minute : BitVec 32) :
    exec (.setTime minute) s = .next (
      if 4000000000 < minute.toNat then s.answered (.setTime minute) .badValue []
      else if s.time.clock = .running then s.answered (.setTime minute) .wrongState []
      else { s.answered (.setTime minute) .ok
          ([0x01#8] ++ beBytes 4 minute.toNat ++ [0, 0, flagByte s.time.inputLost]) with
        time := s.time.setTo minute.toNat }) := by
  rw [exec_hostCommand_of_free rfl free]
  refine congrArg Host.Outcome.next ?_
  simp only [takeCommand, portSetTime, State.openWrite_keeps]
  by_cases high : 4000000000 < minute.toNat
  · simp only [if_pos high]
    exact s.openWrite_refuse (.setTime minute) .badValue
  simp only [if_neg high]
  by_cases runs : s.time.clock = .running
  · simp only [if_pos runs]
    exact s.openWrite_refuse (.setTime minute) .wrongState
  · simp only [if_neg runs]
    rw [← TimeUnit.report_setTo]
    exact s.openWrite_answerTime (.setTime minute) (s.time.setTo minute.toNat)

/-- ADVANCE TIME (R24): the three checks in their order, then the advance. -/
theorem exec_advanceTime {s : State} (free : s.busy = false) (minutes : BitVec 16) :
    exec (.advanceTime minutes) s = .next (
      if minutes.toNat < 1 ∨ 1440 < minutes.toNat then s.answered (.advanceTime minutes) .badValue []
      else if s.time.clock = .unset then s.answered (.advanceTime minutes) .clockUnset []
      else if s.time.hold < minutes.toNat ∧ 4200000000 < s.time.minute + (minutes.toNat - s.time.hold) then
        s.answered (.advanceTime minutes) .badValue []
      else { s.answered (.advanceTime minutes) .ok (s.time.advance minutes.toNat).report with
        time := s.time.advance minutes.toNat }) := by
  rw [exec_hostCommand_of_free rfl free]
  refine congrArg Host.Outcome.next ?_
  simp only [takeCommand, portAdvanceTime, State.openWrite_keeps, badMinutes_iff]
  by_cases outside : minutes.toNat < 1 ∨ 1440 < minutes.toNat
  · simp only [if_pos outside]
    exact s.openWrite_refuse (.advanceTime minutes) .badValue
  simp only [if_neg outside]
  by_cases unset : s.time.clock = .unset
  · simp only [if_pos unset]
    exact s.openWrite_refuse (.advanceTime minutes) .clockUnset
  simp only [if_neg unset]
  by_cases beyond : s.time.hold < minutes.toNat ∧ 4200000000 < s.time.minute + (minutes.toNat - s.time.hold)
  · simp only [if_pos beyond]
    exact s.openWrite_refuse (.advanceTime minutes) .badValue
  · simp only [if_neg beyond]
    exact s.openWrite_answerTime (.advanceTime minutes) (s.time.advance minutes.toNat)

/-- HOLD TIME (R25): the range first, then the clock state, then the hold. -/
theorem exec_holdTime {s : State} (free : s.busy = false) (minutes : BitVec 16) :
    let t' : TimeUnit := { s.time with hold := min (s.time.hold + minutes.toNat) 1440 }
    exec (.holdTime minutes) s = .next (
      if minutes.toNat < 1 ∨ 1440 < minutes.toNat then s.answered (.holdTime minutes) .badValue []
      else if s.time.clock = .unset then s.answered (.holdTime minutes) .clockUnset []
      else { s.answered (.holdTime minutes) .ok t'.report with time := t' }) := by
  intro t'
  rw [exec_hostCommand_of_free rfl free]
  refine congrArg Host.Outcome.next ?_
  simp only [takeCommand, portHoldTime, State.openWrite_keeps, badMinutes_iff]
  by_cases outside : minutes.toNat < 1 ∨ 1440 < minutes.toNat
  · simp only [if_pos outside]
    exact s.openWrite_refuse (.holdTime minutes) .badValue
  simp only [if_neg outside]
  by_cases unset : s.time.clock = .unset
  · simp only [if_pos unset]
    exact s.openWrite_refuse (.holdTime minutes) .clockUnset
  · simp only [if_neg unset]
    exact s.openWrite_answerTime (.holdTime minutes) t'

/-- READ TIME (R26) has no refusal and leaves the time unit as it stands. -/
theorem exec_readTime {s : State} (free : s.busy = false) :
    exec .readTime s = .next (s.answered .readTime .ok s.time.report) := by
  rw [exec_hostCommand_of_free rfl free]
  exact congrArg Host.Outcome.next (s.openWrite_respond .readTime .ok s.time.report)

/-- Settles O11: each row by its own theorem; the bytes of the time report are the definition of `TimeUnit.report`,
and the cases of an accepted advance that of `TimeUnit.advance`. -/
theorem timeCommands : Obligations.TimeCommands :=
  ⟨fun _ minute free => exec_setTime free minute, fun _ minutes free => exec_advanceTime free minutes,
    fun _ minutes free => exec_holdTime free minutes, fun _ free => exec_readTime free, fun _ => rfl⟩

end Sys2Proof.Machine
end

section
/-! PROOFS. The commands of the tariff table and the sweep unit (R34, R35, R145): what each answers a port that is not
BUSY, and what a written class leaves of the table. -/

namespace Sys2Proof.Machine

/-! ## The tariff table after a write -/

/-- In a well-formed table a written class reads as written, and every other class as before (R34). -/
theorem State.tariffClass_putClass {s : State} (wf : cellsWf TariffClass.reset s.tariff) (k : Nat) (v : TariffClass)
    (c : Nat) : (s.putClass k v).tariffClass c = if c = k then v else s.tariffClass c := by
  by_cases same : c = k
  · rw [if_pos same, same]
    exact cellRead_write_same wf k v
  · rw [if_neg same]
    exact cellRead_write_other wf v same

/-- The fields of a class block are judged as R33 ranges them; the price fits its 16 bits. -/
theorem classOfBlock_outOfRange_iff (b : ClassBlock) : (classOfBlock b).outOfRange = true ↔
    b.horizon.toNat < 1440 ∨ 576000 < b.horizon.toNat ∨ 10080 < b.grace.toNat ∨ 43200 < b.silence.toNat
      ∨ 1440 < b.drift.toNat := by
  have price : ¬65535 < b.price.toNat := Nat.not_lt.mpr (Nat.le_of_lt_succ b.price.isLt)
  simp only [TariffClass.outOfRange, Bool.or_eq_true, decide_eq_true_eq, or_assoc]
  simp only [classOfBlock, Config.maxHorizon, price, false_or]

/-! ## The commands of the tariff table -/

theorem State.openWrite_putClass_respond (s : State) (c : HostCommand) (k : Nat) (v : TariffClass) (st : Status)
    (fields : List Byte) : ((s.openWrite c.message).putClass k v).respond c.code st fields
      = { s.answered c st fields with tariff := (s.putClass k v).tariff } := rfl

/-- SET CLASS (R34): the class number first, then the ranges of the fields, then the write of the whole class. -/
theorem exec_setClass {s : State} (free : s.busy = false) (b : ClassBlock) :
    exec (.setClass b) s = .next (
      if 15 < b.cls.toNat then s.answered (.setClass b) .badValue []
      else if (classOfBlock b).outOfRange then s.answered (.setClass b) .badValue []
      else { s.answered (.setClass b) .ok (classBytes b.cls (classOfBlock b)) with
        tariff := (s.putClass b.cls.toNat (classOfBlock b)).tariff }) := by
  rw [exec_hostCommand_of_free rfl free]
  refine congrArg Host.Outcome.next ?_
  simp only [takeCommand, portSetClass]
  by_cases noClass : 15 < b.cls.toNat
  · simp only [if_pos noClass]
    exact s.openWrite_refuse (.setClass b) .badValue
  simp only [if_neg noClass]
  by_cases outside : (classOfBlock b).outOfRange
  · simp only [if_pos outside]
    exact s.openWrite_refuse (.setClass b) .badValue
  · simp only [if_neg outside]
    exact s.openWrite_putClass_respond (.setClass b) b.cls.toNat (classOfBlock b) .ok _

/-- SET CLASS is refused with BAD_VALUE when either of its two checks fails. -/
theorem exec_setClass_refused {s : State} (free : s.busy = false) {b : ClassBlock}
    (bad : 15 < b.cls.toNat ∨ (classOfBlock b).outOfRange = true) :
    exec (.setClass b) s = .next (s.answered (.setClass b) .badValue []) := by
  rw [exec_setClass free]
  rcases bad with noClass | outside
  · rw [if_pos noClass]
  · rw [if_pos outside, ite_self]

theorem exec_setClass_accepted {s : State} (free : s.busy = false) {b : ClassBlock}
    (good : ¬(15 < b.cls.toNat ∨ (classOfBlock b).outOfRange = true)) :
    exec (.setClass b) s = .next { s.answered (.setClass b) .ok (classBytes b.cls (classOfBlock b)) with
      tariff := (s.putClass b.cls.toNat (classOfBlock b)).tariff } := by
  obtain ⟨isClass, inside⟩ := not_or.mp good
  rw [exec_setClass free, if_neg isClass, if_neg inside]

/-- READ CLASS (R35): the class number is its one check, and it writes nothing. -/
theorem exec_readClass {s : State} (free : s.busy = false) (cls : Byte) :
    exec (.readClass cls) s = .next (
      if 15 < cls.toNat then s.answered (.readClass cls) .badValue []
      else s.answered (.readClass cls) .ok (classBytes cls (s.tariffClass cls.toNat))) := by
  rw [exec_hostCommand_of_free rfl free]
  refine congrArg Host.Outcome.next ?_
  simp only [takeCommand, portReadClass]
  by_cases noClass : 15 < cls.toNat
  · simp only [if_pos noClass]
    exact s.openWrite_refuse (.readClass cls) .badValue
  · simp only [if_neg noClass]
    exact s.openWrite_respond (.readClass cls) .ok _

/-! ## The commands of the sweep unit -/

theorem State.openWrite_sweep_respond (s : State) (c : HostCommand) (u : SweepUnit) (st : Status)
    (fields : List Byte) : ({ s.openWrite c.message with sweep := u } : State).respond c.code st fields
      = { s.answered c st fields with sweep := u } := rfl

/-- SET SWEEP (R145): the bound on the rate, then the write of the rate; the report shows the new rate. -/
theorem exec_setSweep {s : State} (free : s.busy = false) (rate : Byte) :
    let u : SweepUnit := { s.sweep with rate := rate.toNat }
    exec (.setSweep rate) s = .next (
      if 64 < rate.toNat then s.answered (.setSweep rate) .badValue []
      else { s.answered (.setSweep rate) .ok u.report with sweep := u }) := by
  intro u
  rw [exec_hostCommand_of_free rfl free]
  refine congrArg Host.Outcome.next ?_
  simp only [takeCommand, portSetSweep, State.openWrite_keeps]
  by_cases high : 64 < rate.toNat
  · simp only [if_pos high]
    exact s.openWrite_refuse (.setSweep rate) .badValue
  · simp only [if_neg high]
    exact s.openWrite_sweep_respond (.setSweep rate) u .ok u.report

/-- READ SWEEP (R145) has no refusal and leaves the sweep unit as it stands. -/
theorem exec_readSweep {s : State} (free : s.busy = false) :
    exec .readSweep s = .next (s.answered .readSweep .ok s.sweep.report) := by
  rw [exec_hostCommand_of_free rfl free]
  exact congrArg Host.Outcome.next (s.openWrite_respond .readSweep .ok s.sweep.report)

/-- Settles O13: each row by its own theorem; an accepted SET CLASS leaves the table of `State.putClass`, and the
bytes of the class block and the sweep report are the definitions of `classBytes` and `SweepUnit.report`. -/
theorem tariffAndSweepCommands : Obligations.TariffAndSweepCommands := by
  refine ⟨fun s b free wf => ?_, fun _ cls free => exec_readClass free cls,
    fun _ rate free => ⟨exec_setSweep free rate, exec_readSweep free⟩⟩
  obtain ⟨_, _, _, _, tariffWf, _⟩ := wf
  rw [← classOfBlock_outOfRange_iff b]
  exact ⟨exec_setClass_refused free,
    fun good => ⟨_, exec_setClass_accepted free good, State.tariffClass_putClass tariffWf _ _⟩⟩

end Sys2Proof.Machine
end

section
/-! PROOFS. The arbiter's choice (R78): the fold over the aged requesters is the library's `List.argmax`, and the
steps after it are a search of the waiting requesters in a fixed order. -/

namespace Sys2Proof.Machine

/-! ## Searches of a list -/

/-- The element `List.argmax` takes is the first one that no element of the list exceeds. -/
theorem find?_of_mem_argmax {α : Type} [DecidableEq α] {f : α → Nat} {l : List α} {m : α} (chosen : m ∈ l.argmax f) :
    l.find? (fun x => l.all fun y => decide (f y ≤ f x)) = some m := by
  obtain ⟨mem, highest, first⟩ := List.mem_argmax_iff.mp chosen
  obtain ⟨before, after, parts, notBefore⟩ := List.eq_append_cons_of_mem mem
  refine List.find?_eq_some_iff_append.mpr ⟨by simpa using highest, before, after, parts, fun a earlier => ?_⟩
  have lower : f a < f m := by
    by_contra notLower
    have index := first a (parts ▸ List.mem_append_left _ earlier) (Nat.le_of_not_lt notLower)
    rw [parts, List.idxOf_append_of_notMem notBefore, List.idxOf_append_of_mem earlier] at index
    have := List.idxOf_lt_length_of_mem earlier
    omega
  simpa using ⟨m, mem, lower⟩

theorem find?_cons_ite {α : Type} (p : α → Bool) (a : α) (l : List α) :
    (a :: l).find? p = if p a = true then some a else l.find? p := by
  cases h : p a <;> simp [h]

namespace State

variable {s : State} {r : Requester}

/-! ## Step 1: the aged requesters -/

/-- The waiting requesters whose count has reached 16, in the order of R78. -/
def agedRequesters (s : State) : List Requester :=
  [Requester.checkIn, .command, .evacuation, .sweep].filter fun r =>
    s.waits r && decide (Config.agedCount ≤ s.engine.waits.get r)

theorem waits_of_mem_agedRequesters (h : r ∈ s.agedRequesters) : s.waits r = true :=
  (Bool.and_eq_true_iff.mp (List.mem_filter.mp h).2).1

/-- The arbiter's fold passes over the requesters that have not aged, and keeps the first highest of the others. -/
theorem foldl_aged (s : State) :
    [Requester.checkIn, .command, .evacuation, .sweep].foldl s.aged none
      = s.agedRequesters.argmax s.engine.waits.get := by
  have step : s.aged = fun best r => if s.waits r && decide (Config.agedCount ≤ s.engine.waits.get r) then
      List.argAux (fun b c => s.engine.waits.get c < s.engine.waits.get b) best r else best := by
    funext best r
    cases best <;> rfl
  rw [step]
  exact List.foldl_filter.symm

theorem arbiter_of_mem_argmax (h : r ∈ s.agedRequesters.argmax s.engine.waits.get) : s.arbiter = some r := by
  rw [arbiter, foldl_aged, Option.mem_def.mp h]

/-- With an aged requester the turn goes to one of them, the first of the highest count. -/
theorem arbiter_of_aged (someAged : s.agedRequesters ≠ []) : ∃ r, s.arbiter = some r ∧ r ∈ s.agedRequesters
    ∧ s.agedRequesters.find? (fun x => s.agedRequesters.all fun y =>
        decide (s.engine.waits.get y ≤ s.engine.waits.get x)) = some r := by
  obtain ⟨r, chosen⟩ := Option.ne_none_iff_exists'.mp (mt (List.argmax_eq_none (f := s.engine.waits.get)).mp someAged)
  exact ⟨r, arbiter_of_mem_argmax chosen, List.argmax_mem chosen, find?_of_mem_argmax chosen⟩

/-! ## Steps 2 to 4: no requester has aged -/

/-- Without an aged requester, CHECK-IN comes first while its run lasts, and last after it. -/
theorem arbiter_of_none_aged (noneAged : s.agedRequesters = []) :
    s.arbiter = if s.waits .checkIn = true ∧ s.engine.consecutive < Config.checkInRun then some .checkIn
      else [Requester.command, .evacuation, .sweep, .checkIn].find? s.waits := by
  rw [arbiter, foldl_aged, noneAged, List.argmax_nil]
  simp only [Bool.and_eq_true, decide_eq_true_eq, find?_cons_ite, List.find?_nil]

/-! ## What every choice keeps -/

/-- A requester the turn goes to waits for it. -/
theorem waits_of_arbiter (h : s.arbiter = some r) : s.waits r = true := by
  by_cases aged : s.agedRequesters = []
  · rw [arbiter_of_none_aged aged] at h
    split at h
    case isTrue run => exact Option.some.inj h ▸ run.1
    case isFalse => exact List.find?_some h
  · obtain ⟨r', granted, mem, _⟩ := arbiter_of_aged aged
    obtain rfl : r' = r := Option.some.inj (granted.symm.trans h)
    exact waits_of_mem_agedRequesters mem

/-- The turn goes to no one exactly when no requester waits: the search of the last step covers all four. -/
theorem arbiter_eq_none_iff (s : State) : s.arbiter = none ↔ ∀ r, s.waits r = false := by
  constructor
  · intro h r
    have aged : s.agedRequesters = [] := by
      by_contra someAged
      obtain ⟨_, granted, _⟩ := arbiter_of_aged someAged
      exact absurd (granted.symm.trans h) nofun
    rw [arbiter_of_none_aged aged] at h
    split at h
    case isTrue => exact absurd h nofun
    case isFalse =>
      exact Bool.eq_false_iff.mpr (List.find?_eq_none.mp h r (by cases r <;> decide))
  · intro idle
    refine Option.eq_none_iff_forall_ne_some.mpr fun r granted => ?_
    exact absurd (waits_of_arbiter granted) (Bool.eq_false_iff.mp (idle r))

end State

/-- Settles O27: the aged requesters of the statement are `State.agedRequesters`, and each clause is the rule of its
step of R78. -/
theorem arbiterChoice : Obligations.ArbiterChoice := by
  intro s
  refine ⟨fun r => State.waits_of_arbiter, s.arbiter_eq_none_iff, fun someAged => ?_,
    fun noneAged waiting run => ?_, fun noneAged noRun => ?_⟩
  · obtain ⟨r, granted, _, highest⟩ := State.arbiter_of_aged someAged
    exact ⟨r, granted, highest⟩
  · exact (State.arbiter_of_none_aged noneAged).trans (if_pos ⟨waiting, run⟩)
  · exact (State.arbiter_of_none_aged noneAged).trans (if_neg noRun)

end Sys2Proof.Machine
end

section
/-! PROOFS. The home bucket of a kit id (R58): the exclusive-or has 11 digits, so the reduction at its end keeps
it. The order of serials (R100): two serials have two distances, one from each side, which add up to 65,536 (or are both
0), and `newer` judges one of them. -/

namespace Sys2Proof.Machine

/-! ## Home buckets -/

/-- The high field of a kit id lies in 0..1,023. -/
theorem highField_lt (kit : KitId) : kit.toNat / 4194304 < 1024 := by
  have := kit.isLt
  omega

/-- The exclusive-or of the three fields is a number of 11 binary digits. -/
theorem xor_fields_lt (kit : KitId) :
    (kit.toNat % 2048) ^^^ (kit.toNat / 2048 % 2048) ^^^ (kit.toNat / 4194304) < 2048 := by
  have low : kit.toNat % 2048 < 2 ^ 11 := Nat.mod_lt _ (by decide)
  have middle : kit.toNat / 2048 % 2048 < 2 ^ 11 := Nat.mod_lt _ (by decide)
  have high : kit.toNat / 4194304 < 2 ^ 11 := (highField_lt kit).trans (by decide)
  exact Nat.xor_lt_two_pow (Nat.xor_lt_two_pow low middle) high

/-- The final reduction mod 2,048 never changes the exclusive-or. -/
theorem homeBucket_eq_xor_fields (kit : KitId) :
    homeBucket kit = (kit.toNat % 2048) ^^^ (kit.toNat / 2048 % 2048) ^^^ (kit.toNat / 4194304) :=
  Nat.mod_eq_of_lt (xor_fields_lt kit)

theorem homeBucket_lt (kit : KitId) : homeBucket kit < 2048 := Nat.mod_lt _ (by decide)

/-! ## The order of serials -/

theorem newer_iff {a b : Serial} : newer a b = true ↔ 1 ≤ (a - b).toNat ∧ (a - b).toNat ≤ 32767 := by
  simp only [newer, Bool.and_eq_true, decide_eq_true_eq]

theorem newer_eq_false_iff {a b : Serial} :
    newer a b = false ↔ (a - b).toNat = 0 ∨ 32768 ≤ (a - b).toNat := by
  rw [← Bool.not_eq_true, newer_iff]
  omega

/-- The distance (a - b) mod 65,536, in plain numbers. -/
theorem serial_distance (a b : Serial) : (a - b).toNat = (a.toNat + 65536 - b.toNat) % 65536 := by
  rw [BitVec.toNat_sub]
  have := b.isLt
  congr 1
  omega

/-- Of two different serials, the two distances together go once round the 65,536 values. -/
theorem serial_distance_add_swap {a b : Serial} (different : a ≠ b) : (a - b).toNat + (b - a).toNat = 65536 := by
  have := BitVec.toNat_ne.mp different
  have := a.isLt
  have := b.isLt
  rw [serial_distance, serial_distance]
  omega

/-- A serial is never newer than itself. -/
theorem newer_self (a : Serial) : newer a a = false :=
  newer_eq_false_iff.mpr (.inl (by rw [BitVec.sub_self]; rfl))

/-- Of two different serials that do not lie 32,768 apart, exactly one is newer: one distance lies below 32,768 and the
other above. -/
theorem newer_eq_not_swap {a b : Serial} (different : a ≠ b) (notHalf : a - b ≠ 32768#16) :
    newer a b = !newer b a := by
  have round := serial_distance_add_swap different
  have notHalf : (a - b).toNat ≠ 32768 := BitVec.toNat_ne.mp notHalf
  have := (a - b).isLt
  have := (b - a).isLt
  cases h : newer b a with
  | true =>
    have near := newer_iff.mp h
    exact newer_eq_false_iff.mpr (by omega)
  | false =>
    have far := newer_eq_false_iff.mp h
    exact newer_iff.mpr (by omega)

/-- A serial is not newer than one that lies 32,768 away. -/
theorem newer_eq_false_of_half {a b : Serial} (half : a - b = 32768#16) : newer a b = false :=
  newer_eq_false_iff.mpr (.inr (by rw [half]; decide))

/-- Lying 32,768 apart is mutual: that distance is its own negative. -/
theorem serial_half_swap {a b : Serial} (half : a - b = 32768#16) : b - a = 32768#16 :=
  calc b - a = -(a - b) := (neg_sub a b).symm
    _ = -32768#16 := congrArg _ half
    _ = 32768#16 := rfl

/-- Settles O57: the bucket by the width of its three fields, the order by the two distances of a pair of serials. -/
theorem homeBucketAndSerialOrder : Obligations.HomeBucketAndSerialOrder := by
  refine ⟨fun kit => ⟨homeBucket_eq_xor_fields kit, homeBucket_lt kit⟩, fun a b => ⟨?_, newer_self a, ?_, ?_⟩⟩
  · rw [← serial_distance]
    exact newer_iff
  · exact newer_eq_not_swap
  · exact fun half => ⟨newer_eq_false_of_half half, newer_eq_false_of_half (serial_half_swap half)⟩

end Sys2Proof.Machine
end

section
/-! PROOFS. The commands of the counters (R135, R173): what READ LINK COUNTERS answers, and all that CLEAR COUNTERS
changes. -/

namespace Sys2Proof.Machine

/-- The counter block, two bytes for each of the twelve counters in the order of R135. -/
theorem LinkCounters.bytes_eq_flatten (n : LinkCounters) :
    n.bytes = ([n.accepted, n.bad, n.parity, n.queueFull, n.unknown, n.late, n.collided, n.noChannel, n.suppressed,
      n.sent, n.disorder, n.transmitTimeout].map (beBytes 2)).flatten := by
  simp only [LinkCounters.bytes, List.map_cons, List.map_nil, List.flatten_cons, List.flatten_nil, List.append_nil,
    List.append_assoc]

/-- The four banks with their corrected counts at 0 (R173). -/
def Four.uncounted (b : Four Bank) : Four Bank := ⟨b.b0.uncounted, b.b1.uncounted, b.b2.uncounted, b.b3.uncounted⟩

/-- The counters at 0: those of the link, of the four banks and of the directory (R173). -/
def State.uncounted (s : State) : State :=
  { s with
    link := { s.link with counters := LinkCounters.zero }
    integrity := { s.integrity with dirCorrected := 0 }
    memory := { s.memory with banks := s.memory.banks.uncounted } }

theorem portClearCounters_eq (s : State) : portClearCounters s = s.uncounted.respond 0x53 .ok [] := rfl

/-- The buffers a command passes through and the items CLEAR COUNTERS sets to 0 lie apart. -/
theorem State.openWrite_uncounted_respond (s : State) (c : HostCommand) (st : Status) (fields : List Byte) :
    (s.openWrite c.message).uncounted.respond c.code st fields = (s.answered c st fields).uncounted := rfl

/-- READ LINK COUNTERS (R135) has no refusal and leaves the counters as they stand. -/
theorem exec_readLinkCounters {s : State} (free : s.busy = false) :
    exec .readLinkCounters s = .next (s.answered .readLinkCounters .ok s.link.counters.bytes) := by
  rw [exec_hostCommand_of_free rfl free]
  exact congrArg Host.Outcome.next (s.openWrite_respond .readLinkCounters .ok s.link.counters.bytes)

/-- CLEAR COUNTERS (R173) is accepted in every state. -/
theorem exec_clearCounters {s : State} (free : s.busy = false) :
    exec .clearCounters s = .next (s.answered .clearCounters .ok []).uncounted := by
  rw [exec_hostCommand_of_free rfl free]
  refine congrArg Host.Outcome.next ?_
  rw [takeCommand, portClearCounters_eq]
  exact s.openWrite_uncounted_respond .clearCounters .ok []

/-- Settles O16: each row by its own theorem; the items listed as set to 0 are the definition of
`State.uncounted`. -/
theorem linkCounterCommands : Obligations.LinkCounterCommands := by
  refine ⟨fun s free => ?_, fun s free => exec_clearCounters free⟩
  intro n
  rw [← n.bytes_eq_flatten]
  exact exec_readLinkCounters free

end Sys2Proof.Machine
end


section
/-! PROOFS. What every piece of a record engine turn keeps beside its frame (`TurnKeeps`): the pointers of the record
engine, the held command, the prior lifecycles of the record bodies, the bank being evacuated, and the transmitter. -/

namespace Sys2Proof.Machine

/-! ## The bank being evacuated -/

theorem Four.lowest_eq_some {α : Type} {f : Four α} {p : α → Bool} {i : Fin 4} (h : f.lowest p = some i) :
    p (f.get i) = true := by
  unfold Four.lowest at h
  split at h
  · next h0 => cases h; exact h0
  split at h
  · next h1 => cases h; exact h1
  split at h
  · next h2 => cases h; exact h2
  split at h
  · next h3 => cases h; exact h3
  · cases h

/-- What holds of each of four parts. -/
theorem Four.forall_get {α : Type} {f : Four α} (q : α → Prop) :
    (∀ i, q (f.get i)) ↔ q f.b0 ∧ q f.b1 ∧ q f.b2 ∧ q f.b3 := by
  constructor
  · exact fun h => ⟨h 0, h 1, h 2, h 3⟩
  · rintro ⟨h0, h1, h2, h3⟩ i
    fin_cases i
    exacts [h0, h1, h2, h3]

theorem Four.lowest_eq_none {α : Type} {f : Four α} {p : α → Bool} :
    f.lowest p = none ↔ ∀ i, p (f.get i) = false := by
  rw [Four.forall_get (fun x => p x = false)]
  unfold Four.lowest
  cases p f.b0 <;> cases p f.b1 <;> cases p f.b2 <;> cases p f.b3 <;> simp

/-- A search for the lowest of four parts asks nothing but the property sought. -/
theorem Four.lowest_congr {α β : Type} {f : Four α} {g : Four β} {p : α → Bool} {q : β → Bool}
    (h : ∀ i, p (f.get i) = q (g.get i)) : f.lowest p = g.lowest q := by
  have h0 : p f.b0 = q g.b0 := h 0
  have h1 : p f.b1 = q g.b1 := h 1
  have h2 : p f.b2 = q g.b2 := h 2
  have h3 : p f.b3 = q g.b3 := h 3
  simp only [Four.lowest, h0, h1, h2, h3]

theorem State.state_of_evacuatingBank {s : State} {b : Fin 4} (h : s.evacuatingBank = some b) :
    (s.bank b).state = .evacuating := by simpa [State.bank] using Four.lowest_eq_some h

theorem State.evacuatingBank_eq_none_iff {s : State} :
    s.evacuatingBank = none ↔ ∀ b, (s.bank b).state ≠ .evacuating := by
  simp [State.evacuatingBank, Four.lowest_eq_none, State.bank]

/-- The bank being evacuated is read off the states of the banks. -/
theorem State.evacuatingBank_congr {s s' : State} (h : ∀ b, (s'.bank b).state = (s.bank b).state) :
    s'.evacuatingBank = s.evacuatingBank :=
  Four.lowest_congr fun b => by rw [show s'.memory.banks.get b = s'.bank b from rfl, h b]; rfl

/-- At most one bank is EVACUATING (R155). While a turn frees a slot, that bank may hold no live slot. -/
def State.oneEvacuates (s : State) : Prop :=
  ∀ b, (s.bank b).state = .evacuating → s.evacuatingBank = some b ∧ ∀ x, x ≠ b → (s.bank x).state ≠ .evacuating

theorem State.evacuationHolds_iff {s : State} :
    s.evacuationHolds ↔ s.oneEvacuates ∧ ∀ b, (s.bank b).state = .evacuating → 0 < s.liveIn b := by
  constructor
  · intro h
    exact ⟨fun b hb => ⟨(h b hb).1, (h b hb).2.2⟩, fun b hb => (h b hb).2.1⟩
  · rintro ⟨one, live⟩ b hb
    exact ⟨(one b hb).1, live b hb, (one b hb).2⟩

/-- With no bank EVACUATING there is nothing to hold. -/
theorem State.evacuationHolds_of_none {s : State} (h : ∀ b, (s.bank b).state ≠ .evacuating) : s.evacuationHolds :=
  fun b hb => absurd hb (h b)

theorem State.oneEvacuates_of_states {s s' : State} (states : ∀ b, (s'.bank b).state = (s.bank b).state)
    (h : s.oneEvacuates) : s'.oneEvacuates := by
  intro b hb
  rw [states] at hb
  rw [State.evacuatingBank_congr states]
  exact ⟨(h b hb).1, fun x hx => by rw [states]; exact (h b hb).2 x hx⟩

/-- Where no bank changes its state or loses a live slot, the evacuation holds on. -/
theorem State.evacuationHolds_of_live {s s' : State} (states : ∀ b, (s'.bank b).state = (s.bank b).state)
    (live : ∀ b, s.liveIn b ≤ s'.liveIn b) (h : s.evacuationHolds) : s'.evacuationHolds := by
  rw [State.evacuationHolds_iff] at h ⊢
  obtain ⟨one, some⟩ := h
  exact ⟨State.oneEvacuates_of_states states one, fun b hb => Nat.lt_of_lt_of_le (some b (states b ▸ hb)) (live b)⟩

theorem State.bank_setBank (s : State) (b x : Fin 4) (v : Bank) :
    (s.setBank b v).bank x = if x = b then v else s.bank x := by
  unfold State.bank State.setBank
  dsimp only
  split
  · next h => rw [h, Four.get_set_same]
  · next h => rw [Four.get_set_other _ _ h]

theorem State.bank_completeEvacuation (s : State) (b x : Fin 4) :
    (s.completeEvacuation b).bank x =
      if x = b then { s.bank b with state := .outOfService, free := 0 } else s.bank x :=
  s.bank_setBank b x _

/-- An evacuation checked for its end holds (R158). -/
theorem State.checkEvacuation_holds {s : State} (h : s.oneEvacuates) : s.checkEvacuation.evacuationHolds := by
  unfold State.checkEvacuation
  split
  · next none => exact State.evacuationHolds_of_none (State.evacuatingBank_eq_none_iff.1 none)
  · next b some =>
    have hb := h b (State.state_of_evacuatingBank some)
    split
    · refine State.evacuationHolds_of_none fun x => ?_
      rw [State.bank_completeEvacuation]
      split
      · simp
      · next hx => exact hb.2 x hx
    · next live =>
      refine State.evacuationHolds_iff.2 ⟨h, fun x hx => ?_⟩
      rw [Option.some.inj (some.symm.trans (h x hx).1)] at live
      exact Nat.pos_of_ne_zero live

/-! ## The banks as a tag is written -/

theorem State.bank_putTag (s : State) (slot : Nat) (t : Tag) (x : Fin 4) :
    (s.putTag slot t).bank x = if x = bankIndex slot then
      { s.bank x with
        free := (s.bank x).free + oneIf (decide (t.lifecycle = .free)) - oneIf (decide ((s.tag slot).lifecycle = .free)) }
      else s.bank x := by
  unfold State.bank State.putTag
  dsimp only
  split
  · next h => rw [h, Four.get_set_same]; rfl
  · next h => rw [Four.get_set_other _ _ h]

theorem State.bank_state_putTag (s : State) (slot : Nat) (t : Tag) (x : Fin 4) :
    ((s.putTag slot t).bank x).state = (s.bank x).state := by
  rw [State.bank_putTag]
  split <;> rfl

/-- Only the freeing of a slot lowers the live slots of a bank. -/
theorem State.liveIn_putTag {s : State} {slot : Nat} {t : Tag}
    (h : t.lifecycle = .free → (s.tag slot).lifecycle = .free) (x : Fin 4) :
    s.liveIn x ≤ (s.putTag slot t).liveIn x := by
  unfold State.liveIn
  rw [State.bank_putTag]
  split
  · dsimp only
    by_cases free : t.lifecycle = .free
    · simp [free, h free, oneIf]
    · simp only [free, decide_false, oneIf]
      simp
      omega
  · exact Nat.le_refl _

/-! ## The prior lifecycles -/

/-- The prior lifecycle of every listed body is absent, ENROLLED or RUNNING (R1). -/
def State.listedPriors (s : State) : Prop :=
  ∀ e ∈ s.memory.bodies, e.2.stored.priorHolds ∧ e.2.written.priorHolds

theorem cellRead_of_mem {α : Type} {d : α} {m : List (Nat × α)} (h : m.Pairwise fun e f => e.1 < f.1) {e : Nat × α}
    (he : e ∈ m) : cellRead d m e.1 = e.2 := by
  induction m with
  | nil => cases he
  | cons x m ih =>
    rw [List.pairwise_cons] at h
    rcases List.mem_cons.1 he with rfl | he
    · simp [cellRead]
    · rw [cellRead, if_neg (Nat.ne_of_lt (h.1 e he))]
      exact ih h.2 he

theorem State.listedPriors_iff {s : State} (wf : bodiesWf s.memory.bodies) : s.listedPriors ↔ s.priorsHold := by
  constructor
  · intro h slot
    rcases mem_of_cellRead (d := StoredBody.cleared) (m := s.memory.bodies) (a := slot) with cleared | ⟨e, he, same⟩
    · exact ⟨.inl (by rw [State.body, cleared]; rfl), .inl (by rw [State.body, cleared]; rfl)⟩
    · unfold State.body
      exact same ▸ h e he
  · intro h e he
    have same : s.body e.1 = e.2 := cellRead_of_mem wf.1.1 he
    exact same ▸ h e.1

theorem State.listedPriors_body {s : State} (h : s.listedPriors) (slot : Nat) :
    (s.body slot).stored.priorHolds ∧ (s.body slot).written.priorHolds := by
  rcases mem_of_cellRead (d := StoredBody.cleared) (m := s.memory.bodies) (a := slot) with cleared | ⟨e, he, same⟩
  · exact ⟨.inl (by rw [State.body, cleared]; rfl), .inl (by rw [State.body, cleared]; rfl)⟩
  · unfold State.body
    exact same ▸ h e he

/-- The prior lifecycle of a body as a read returns it. -/
theorem State.reading_priorHolds {s : State} (h : s.listedPriors) (slot : Nat) : (s.reading slot).priorHolds := by
  obtain ⟨stored, written⟩ := State.listedPriors_body h slot
  unfold State.reading
  split
  · exact stored
  · rw [StoredBody.read_eq]
    exact StoredBody.field_of _ .prior (·.prior)
      (fun p => p = none ∨ p = some .enrolled ∨ p = some .running) written stored

theorem listedPriors_write {m : List (Nat × StoredBody)}
    (h : ∀ e ∈ m, e.2.stored.priorHolds ∧ e.2.written.priorHolds) (slot : Nat) {b : StoredBody}
    (hb : b.stored.priorHolds ∧ b.written.priorHolds) :
    ∀ e ∈ cellWrite StoredBody.cleared m slot b, e.2.stored.priorHolds ∧ e.2.written.priorHolds := by
  intro e he
  rcases mem_cellWrite he with rfl | he
  · exact hb
  · exact h e he

/-! ## What the pieces keep -/

/-- What a piece of a turn keeps, the freeing of a slot among them: the pointers in their ranges, the held command or
none, the prior lifecycles, one bank EVACUATING at most, and nothing to send at an IDLE transmitter. What it keeps of
the records may rest on a condition `P`: that the parameters of the held command lie in their ranges. -/
structure PieceHolds (P : Prop) (s s' : State) : Prop where
  pointers : s.engine.pointersInRange → s'.engine.pointersInRange
  held : s'.engine.held = s.engine.held ∨ s'.engine.held = none
  priors : P → s.listedPriors → s'.listedPriors
  one : s.oneEvacuates → s'.oneEvacuates
  send : s.nothingToSend → s'.nothingToSend

/-- The same of the work of a turn, after which the bank being evacuated still holds a live slot. (A RESUME would free
the slot of a record whose prior lifecycle were FREE.) -/
structure TurnHolds (P : Prop) (s s' : State) : Prop extends PieceHolds P s s' where
  evacuation : P → s.listedPriors → s.evacuationHolds → s'.evacuationHolds

section

variable {P : Prop}

theorem PieceHolds.trans {a b c : State} (h : PieceHolds P a b) (k : PieceHolds P b c) : PieceHolds P a c where
  pointers := k.pointers ∘ h.pointers
  held := k.held.elim (fun same => h.held.imp same.trans same.trans) .inr
  priors := fun p => k.priors p ∘ h.priors p
  one := k.one ∘ h.one
  send := k.send ∘ h.send

theorem TurnHolds.trans {a b c : State} (h : TurnHolds P a b) (k : TurnHolds P b c) : TurnHolds P a c :=
  ⟨h.toPieceHolds.trans k.toPieceHolds, fun p hp => k.evacuation p (h.priors p hp) ∘ h.evacuation p hp⟩

theorem TurnHolds.refl (s : State) : TurnHolds P s s := ⟨⟨id, .inl rfl, fun _ => id, id, id⟩, fun _ _ => id⟩

/-- An operation that leaves pointers, held command, bodies, banks, link and link timer as they stand. -/
theorem TurnHolds.ofFrame {s s' : State}
    (h : s'.engine.allocPtr = s.engine.allocPtr ∧ s'.engine.fetchCursor = s.engine.fetchCursor
      ∧ s'.engine.held = s.engine.held ∧ s'.memory.bodies = s.memory.bodies ∧ s'.memory.banks = s.memory.banks
      ∧ s'.link = s.link ∧ s'.time.timer = s.time.timer := by exact ⟨rfl, rfl, rfl, rfl, rfl, rfl, rfl⟩) :
    TurnHolds P s s' := by
  obtain ⟨alloc, fetch, held, bodies, banks, link, timer⟩ := h
  have bank : ∀ b, s'.bank b = s.bank b := fun b => by rw [State.bank, banks]; rfl
  refine ⟨⟨fun h => ⟨alloc ▸ h.1, fetch ▸ h.2⟩, .inl held, fun _ h => ?_,
    State.oneEvacuates_of_states fun b => by rw [bank], fun h => ?_⟩,
    fun _ _ => State.evacuationHolds_of_live (fun b => by rw [bank]) fun b => by rw [State.liveIn, State.liveIn, bank]⟩
  · unfold State.listedPriors
    rw [bodies]
    exact h
  · have better : s'.betterReady = s.betterReady := by
      funext best c
      simp only [State.betterReady, State.channel, link, timer]
    rw [State.nothingToSend, State.chosenChannel, better, link]
    exact h

/-- An operation that changes the free counts of banks, and no other of what a piece keeps. -/
theorem PieceHolds.ofBanks {s s' : State} (states : ∀ b, (s'.bank b).state = (s.bank b).state)
    (h : s'.engine.allocPtr = s.engine.allocPtr ∧ s'.engine.fetchCursor = s.engine.fetchCursor
      ∧ s'.engine.held = s.engine.held ∧ s'.memory.bodies = s.memory.bodies
      ∧ s'.link = s.link ∧ s'.time.timer = s.time.timer := by exact ⟨rfl, rfl, rfl, rfl, rfl, rfl⟩) :
    PieceHolds P s s' := by
  obtain ⟨alloc, fetch, held, bodies, link, timer⟩ := h
  have frame : TurnHolds P { s with memory := { s.memory with banks := s'.memory.banks } } s' :=
    .ofFrame ⟨alloc, fetch, held, bodies, rfl, link, timer⟩
  exact ⟨frame.pointers, frame.held, frame.priors, State.oneEvacuates_of_states states, frame.send⟩

/-- A slot has been freed, and the evacuation is checked for its end (R158). -/
theorem PieceHolds.checkEvacuation {s s' : State} (h : PieceHolds P s s') : TurnHolds P s s'.checkEvacuation := by
  have same : s'.checkEvacuation.engine = s'.engine ∧ s'.checkEvacuation.link = s'.link
      ∧ s'.checkEvacuation.time = s'.time ∧ (s'.listedPriors → s'.checkEvacuation.listedPriors) := by
    unfold State.checkEvacuation
    split
    · exact ⟨rfl, rfl, rfl, id⟩
    · split
      · exact ⟨rfl, rfl, rfl, fun h e he => h e (List.mem_filter.1 he).1⟩
      · exact ⟨rfl, rfl, rfl, id⟩
  obtain ⟨engine, link, time, priors⟩ := same
  have holds : s.oneEvacuates → s'.checkEvacuation.evacuationHolds := fun one =>
    State.checkEvacuation_holds (h.one one)
  have frame : TurnHolds P s'
      { s' with
        engine := s'.checkEvacuation.engine
        link := s'.checkEvacuation.link
        time := s'.checkEvacuation.time } :=
    .ofFrame ⟨by rw [engine], by rw [engine], by rw [engine], rfl, rfl, link, by rw [time]⟩
  refine ⟨⟨fun hp => ?_, ?_, fun p => priors ∘ h.priors p, fun one => (State.evacuationHolds_iff.1 (holds one)).1,
    fun hs => frame.send (h.send hs)⟩, fun _ _ hv => holds (State.evacuationHolds_iff.1 hv).1⟩
  · exact engine ▸ h.pointers hp
  · exact engine ▸ h.held

/-! ## Operations over states -/

theorem putTag_pieceHolds (s : State) (slot : Nat) (t : Tag) : PieceHolds P s (s.putTag slot t) :=
  .ofBanks (s.bank_state_putTag slot t)

/-- A tag is written that does not free its slot. -/
theorem putTag_holds {s : State} {slot : Nat} {t : Tag}
    (h : P → s.listedPriors → t.lifecycle = .free → (s.tag slot).lifecycle = .free) : TurnHolds P s (s.putTag slot t) :=
  ⟨putTag_pieceHolds s slot t, fun p hp =>
    State.evacuationHolds_of_live (s.bank_state_putTag slot t) (State.liveIn_putTag (h p hp))⟩

theorem feedError_memory (s : State) (p : ErrorPlace) (r : Requester) : (s.feedError p r).memory = s.memory := by
  unfold State.feedError
  split
  · rfl
  · split <;> rfl

theorem feedError_holds (s : State) (p : ErrorPlace) (r : Requester) : TurnHolds P s (s.feedError p r) := by
  unfold State.feedError
  split
  · exact .ofFrame
  · split <;> exact .ofFrame

theorem forgetBucket_holds (s : State) (b : Nat) : TurnHolds P s (s.forgetBucket b) := .ofFrame

/-- A bank's corrected count changes (R148). -/
theorem setCorrected_holds (s : State) (b : Fin 4) (n : Nat) :
    TurnHolds P s (s.setBank b { s.bank b with corrected := n }) := by
  have same : ∀ x, ((s.setBank b { s.bank b with corrected := n }).bank x).state = (s.bank x).state
      ∧ ((s.setBank b { s.bank b with corrected := n }).bank x).free = (s.bank x).free := by
    intro x
    rw [State.bank_setBank]
    split
    · next h => rw [h]; exact ⟨rfl, rfl⟩
    · exact ⟨rfl, rfl⟩
  refine ⟨.ofBanks fun x => (same x).1, fun _ _ => State.evacuationHolds_of_live (fun x => (same x).1) fun x => ?_⟩
  rw [State.liveIn, State.liveIn, (same x).2]

/-- The bodies change, and nothing else of what a turn holds. -/
theorem TurnHolds.ofBodies {s s' : State} (priors : P → s.listedPriors → s'.listedPriors)
    (h : s'.engine = s.engine ∧ s'.memory.banks = s.memory.banks ∧ s'.link = s.link ∧ s'.time = s.time := by
      exact ⟨rfl, rfl, rfl, rfl⟩) : TurnHolds P s s' := by
  obtain ⟨engine, banks, link, time⟩ := h
  have frame : TurnHolds P { s with memory := { s.memory with bodies := s'.memory.bodies } } s' :=
    .ofFrame ⟨by rw [engine], by rw [engine], by rw [engine], rfl, banks, link, by rw [time]⟩
  have bank : ∀ b, s'.bank b = s.bank b := fun b => by rw [State.bank, banks]; rfl
  exact ⟨⟨frame.pointers, frame.held, priors, frame.one, frame.send⟩, fun _ _ =>
    State.evacuationHolds_of_live (fun b => by rw [bank]) fun b => by rw [State.liveIn, State.liveIn, bank]⟩

theorem spoilBody_holds (s : State) (slot : Nat) (m : InjectMode) : TurnHolds P s (s.spoilBody slot m) :=
  .ofBodies fun _ h => listedPriors_write h slot (State.listedPriors_body h slot)

theorem spoilWay_holds (s : State) (b : Nat) (w : Fin 4) (m : InjectMode) : TurnHolds P s (s.spoilWay b w m) := .ofFrame

theorem pastSlot_holds (s : State) (slot : Nat) : TurnHolds P s (s.pastSlot slot) :=
  ⟨⟨fun h => ⟨Nat.mod_lt _ (by decide), h.2⟩, .inl rfl, fun _ => id, id, id⟩, fun _ _ => id⟩

theorem fetchPast_holds (s : State) (slot : Nat) : TurnHolds P s (s.fetchPast slot) :=
  ⟨⟨fun h => ⟨h.1, Nat.mod_lt _ (by decide)⟩, .inl rfl, fun _ => id, id, id⟩, fun _ _ => id⟩

theorem countMove_holds (s : State) : TurnHolds P s s.countMove := .ofFrame

theorem release_holds (s : State) : TurnHolds P s s.release := ⟨⟨id, .inr rfl, fun _ => id, id, id⟩, fun _ _ => id⟩

theorem respond_holds (s : State) (code : Byte) (st : Status) (fields : List Byte) :
    TurnHolds P s (s.respond code st fields) := .ofFrame

theorem putSearch_holds (s : State) (owner : Requester) (se : Option Search) : TurnHolds P s (s.putSearch owner se) := by
  cases owner <;> exact .ofFrame

end

end Sys2Proof.Machine
end


section
/-! PROOFS. What the work of each kind of turn keeps beside its frame: the pointers, the held command, the prior
lifecycles, the bank being evacuated, and the transmitter. -/

namespace Sys2Proof.Machine

section

variable {P : Prop}

/-! ## The link's part of a turn -/

/-- An operation on the link alone that leaves nothing to send. -/
theorem TurnHolds.ofLink {s s' : State} (send : s.nothingToSend → s'.nothingToSend)
    (h : s' = { s with link := s'.link } := by rfl) : TurnHolds P s s' := by
  have inner : TurnHolds P s { s' with link := s.link } := by
    rw [h]
    exact .refl s
  exact ⟨⟨inner.pointers, inner.held, inner.priors, inner.one, send⟩, inner.evacuation⟩

/-- The choice of R131 reads the channels and the link timer. -/
theorem State.chosenChannel_congr {s s' : State} (channels : s'.link.channels = s.link.channels)
    (timer : s'.time.timer = s.time.timer) : s'.chosenChannel = s.chosenChannel := by
  have better : s'.betterReady = s.betterReady := by
    funext best c
    simp only [State.betterReady, State.channel, channels, timer]
  rw [State.chosenChannel, State.chosenChannel, better]

/-- Nothing has to be started where channels and transmitter stand as they stood. -/
theorem State.nothingToSend_congr {s s' : State} (channels : s'.link.channels = s.link.channels)
    (tx : s'.link.tx = s.link.tx) (timer : s'.time.timer = s.time.timer) (h : s.nothingToSend) : s'.nothingToSend := by
  rw [State.nothingToSend, State.chosenChannel_congr channels timer, tx]
  exact h

/-- The transmitter has been offered the channels (R131): it sends, or there is nothing to send. -/
theorem State.offer_nothingToSend (s : State) : s.offer.nothingToSend := by
  unfold State.offer
  split
  · next busy => exact fun idle => absurd (busy.symm.trans idle) (by simp)
  · split
    · next none => exact fun _ => none
    · exact fun idle => absurd idle (by simp [State.startSend])

theorem State.offer_eq (s : State) : s.offer = { s with link := s.offer.link } := by
  unfold State.offer
  split
  · rfl
  · split <;> rfl

theorem count_holds (s : State) (f : LinkCounters → LinkCounters) : TurnHolds P s (s.count f) := .ofLink id

theorem giveUp_holds (s : State) : TurnHolds P s s.giveUp := .ofLink id

theorem noticeUnknown_holds (s : State) : TurnHolds P s s.noticeUnknown := (count_holds _ _).trans (giveUp_holds _)

theorem takeArrival_holds (s : State) (a : Arrival) (rest : List Arrival) : TurnHolds P s (s.takeArrival a rest) :=
  .ofLink id

/-- A channel is written and the channels are offered to the transmitter. -/
theorem putChannel_offer_holds (s : State) (c : Nat) (v : Option Channel) : TurnHolds P s (s.putChannel c v).offer :=
  .ofLink (fun _ => State.offer_nothingToSend _) (s.putChannel c v).offer_eq

theorem scheduleGrant_holds (s : State) (g : Grant) (a : Arrival) : TurnHolds P s (s.scheduleGrant g a) := by
  unfold State.scheduleGrant
  split
  · exact count_holds _ _
  · split
    · exact count_holds _ _
    · exact putChannel_offer_holds _ _ _

theorem handOver_holds (s : State) (g : Grant) (a : Arrival) : TurnHolds P s (s.handOver g a) := by
  unfold State.handOver
  split
  · exact (scheduleGrant_holds _ _ _).trans (giveUp_holds _)
  · exact (count_holds _ _).trans (giveUp_holds _)

/-! ## The sweep's part of a turn -/

theorem movePosition_holds (s : State) : TurnHolds P s s.movePosition := by
  unfold State.movePosition
  dsimp only
  split <;> exact .ofFrame

theorem passOver_holds (n : Nat) (s : State) : TurnHolds P s (s.passOver n) := by
  induction n generalizing s with
  | zero => exact .refl s
  | succ n ih =>
    rw [State.passOver]
    split
    · exact .refl s
    · exact (movePosition_holds s).trans (ih _)

theorem spendCredit_holds (s : State) : TurnHolds P s s.spendCredit := .ofFrame

/-! ## Operations over turns -/

theorem Turn.putBody_holds {t : Turn} {r : Record} (hr : P → t.s.listedPriors → r.priorHolds) (slot : Nat) :
    TurnHolds P t.s (t.putBody slot r).s :=
  .ofBodies fun p h => listedPriors_write h slot ⟨hr p h, hr p h⟩

theorem Turn.putTag_holds {t : Turn} {slot : Nat} {tag : Tag}
    (h : P → t.s.listedPriors → tag.lifecycle = .free → (t.s.tag slot).lifecycle = .free) :
    TurnHolds P t.s (t.putTag slot tag).s :=
  Machine.putTag_holds h

theorem Turn.map_holds {t : Turn} {f : State → State} (h : TurnHolds P t.s (f t.s)) : TurnHolds P t.s (t.map f).s := h

theorem Turn.putTag_pieceHolds (t : Turn) (slot : Nat) (tag : Tag) : PieceHolds P t.s (t.putTag slot tag).s :=
  Machine.putTag_pieceHolds t.s slot tag

theorem Turn.map_checkEvacuation_holds {s : State} {t : Turn} (h : PieceHolds P s t.s) :
    TurnHolds P s (t.map State.checkEvacuation).s := h.checkEvacuation

theorem Turn.putBucket_holds (t : Turn) (b : Nat) (v : Bucket) (ws : List (Fin 4)) :
    TurnHolds P t.s (t.putBucket b v ws).s := .ofFrame

theorem Turn.putWay_holds (t : Turn) (b : Nat) (w : Fin 4) (e : Option Entry) : TurnHolds P t.s (t.putWay b w e).s :=
  .ofFrame

theorem Turn.putSpill_holds (t : Turn) (i : Nat) (e : Option SpillEntry) : TurnHolds P t.s (t.putSpill i e).s := .ofFrame

/-- A record is written whose lifecycle is not FREE, or stays. -/
theorem Turn.putRecord_holds {t : Turn} {slot : Nat} {lc : Lifecycle} {r : Record}
    (hr : P → t.s.listedPriors → r.priorHolds) (hlc : P → t.s.listedPriors → lc = .free → (t.s.tag slot).lifecycle = .free) :
    TurnHolds P t.s (t.putRecord slot lc r).s := by
  have body := Turn.putBody_holds hr slot
  refine ⟨body.toPieceHolds.trans (putTag_pieceHolds _ _ _), fun p hp hv => ?_⟩
  exact (Turn.putTag_holds (t := t.putBody slot r) fun p _ => hlc p hp).evacuation p (body.priors p hp)
    (body.evacuation p hp hv)

theorem Turn.countCorrected_holds (t : Turn) (b : Fin 4) : TurnHolds P t.s (t.countCorrected b).s :=
  setCorrected_holds _ _ _

theorem Turn.damage_holds (t : Turn) (slot : Nat) : TurnHolds P t.s (t.damage slot).s :=
  (Turn.putTag_holds (t := t) (slot := slot) (tag := { t.s.tag slot with damaged := true }) fun _ _ => id).trans
    (feedError_holds _ _ _)

theorem Turn.readLive_holds (t : Turn) (slot : Nat) (wb : Bool) : TurnHolds P t.s (t.readLive slot wb).1.s := by
  rw [Turn.readLive_turn]
  split
  · split
    · exact (Turn.countCorrected_holds t (bankIndex slot)).trans (Turn.putBody_holds (t := t.countCorrected _)
        (fun _ h => State.reading_priorHolds (s := t.s) h slot) slot)
    · exact Turn.countCorrected_holds t _
  · split
    · exact Turn.damage_holds t slot
    · exact .refl _

theorem mem_cellWrite_self {α : Type} [DecidableEq α] {d v : α} (hv : v ≠ d) (m : List (Nat × α)) (a : Nat) :
    (a, v) ∈ cellWrite d m a v := by
  induction m with
  | nil => simp [cellWrite, hv]
  | cons x m ih =>
    obtain ⟨k, w⟩ := x
    rw [cellWrite]
    split
    · exact List.mem_cons_self
    · split
      · exact List.mem_cons_self
      · exact List.mem_cons_of_mem _ ih

/-- The record that a read gave, where every body then listed has its prior lifecycle in order. -/
theorem Turn.readLive_priorHolds {t : Turn} {slot : Nat} {wb : Bool}
    (h : (t.readLive slot wb).1.s.listedPriors) : (t.readLive slot wb).2.priorHolds := by
  rw [Turn.readLive_record]
  rw [Turn.readLive_turn] at h
  split at h
  · split at h
    · by_cases same : (⟨t.s.reading slot, t.s.reading slot, []⟩ : StoredBody) = StoredBody.cleared
      · exact .inl (congrArg (fun b : StoredBody => b.stored.prior) same)
      · exact (h _ (mem_cellWrite_self same _ _)).1
    · exact State.reading_priorHolds (s := t.s) h slot
  · have same : t.s.listedPriors := by
      split at h
      · unfold State.listedPriors at h
        have bodies : (t.damage slot).s.memory.bodies = t.s.memory.bodies := by
          unfold Turn.damage Turn.map
          rw [feedError_memory]
          rfl
        rwa [bodies] at h
      · exact h
    exact State.reading_priorHolds same slot

theorem Turn.write_holds (t : Turn) : TurnHolds P t.s t.write := by
  unfold Turn.write
  split
  · exact .refl _
  · split
    · exact spoilBody_holds _ _ _
    · exact .refl _
  · split
    · exact .refl _
    · exact spoilWay_holds _ _ _ _

theorem Turn.answer_holds (t : Turn) (code : Byte) (st : Status) (fields : List Byte) :
    TurnHolds P t.s (t.answer code st fields).s :=
  (release_holds _).trans (respond_holds _ _ _ _)

theorem Turn.refuse_holds (t : Turn) (code : Byte) (st : Status) : TurnHolds P t.s (t.refuse code st).s :=
  Turn.answer_holds _ _ _ _

/-! ## The directory's part of a turn -/

theorem Turn.correctWay_holds (b : Nat) (t : Turn) (w : Fin 4) : TurnHolds P t.s (Turn.correctWay b t w).s := by
  unfold Turn.correctWay
  dsimp only
  split
  · exact .ofFrame
  · exact .refl _

theorem Turn.wipe_holds (t : Turn) (b : Nat) : TurnHolds P t.s (t.wipe b).s := by
  unfold Turn.wipe
  exact (Turn.putBucket_holds t b _ _).trans ((forgetBucket_holds _ b).trans (feedError_holds _ _ _))

theorem foldl_holds {β : Type} (f : Turn → β → Turn) (hf : ∀ t x, TurnHolds P t.s (f t x).s) (l : List β) (t : Turn) :
    TurnHolds P t.s (l.foldl f t).s := by
  induction l generalizing t with
  | nil => exact .refl _
  | cons x l ih => exact (hf t x).trans (ih _)

theorem Turn.readBucket_holds (t : Turn) (b : Nat) : TurnHolds P t.s (t.readBucket b).1.s := by
  unfold Turn.readBucket
  dsimp only
  split
  · exact Turn.wipe_holds _ _
  · exact foldl_holds _ (Turn.correctWay_holds b) _ _

theorem Turn.lookup_holds (t : Turn) (kit : KitId) : TurnHolds P t.s (t.lookup kit).1.s := Turn.readBucket_holds _ _

theorem Turn.putEntry_holds (t : Turn) (loc : Location) (kit : KitId) (slot home : Nat) :
    TurnHolds P t.s (t.putEntry loc kit slot home).s := by
  cases loc
  · exact .refl _
  · exact Turn.putWay_holds _ _ _ _
  · exact Turn.putSpill_holds _ _ _

theorem Turn.removeEntry_holds (t : Turn) (loc : Location) : TurnHolds P t.s (t.removeEntry loc).s := by
  cases loc
  · exact .refl _
  · exact Turn.putWay_holds _ _ _ _
  · exact Turn.putSpill_holds _ _ _

theorem Turn.setLocation_holds (t : Turn) (slot : Nat) (loc : Location) : TurnHolds P t.s (t.setLocation slot loc).s :=
  Turn.putTag_holds fun _ _ => id

theorem Turn.enterAt_holds (t : Turn) (loc : Location) (slot : Nat) (kit : KitId) (home : Nat) :
    TurnHolds P t.s (t.enterAt loc slot kit home).s := by
  unfold Turn.enterAt
  split
  · exact Turn.putBucket_holds _ _ _ _
  · exact (Turn.putEntry_holds _ _ _ _ _).trans (Turn.setLocation_holds _ _ _)

theorem Turn.reinsert_holds (t : Turn) (slot : Nat) (kit : KitId) (home : Nat) :
    TurnHolds P t.s (t.reinsert slot kit home).s := by
  unfold Turn.reinsert
  split
  · exact (Turn.readBucket_holds _ _).trans (Turn.enterAt_holds _ _ _ _ _)
  · exact .refl _

theorem Turn.repoint_holds (t : Turn) (loc : Location) (target : Nat) : TurnHolds P t.s (t.repoint loc target).1.s := by
  unfold Turn.repoint
  cases loc with
  | nowhere => exact .refl _
  | way b w =>
    dsimp only
    split
    · exact Turn.wipe_holds _ _
    · exact .ofFrame
    · exact .ofFrame
  | spill i => exact Turn.putSpill_holds _ _ _

/-! ## The record commands -/

theorem Turn.withClock_holds {t : Turn} {code : Byte} {f : Nat → Turn} (hf : ∀ n, TurnHolds P t.s (f n).s) :
    TurnHolds P t.s (t.withClock code f).s := by
  unfold Turn.withClock
  split
  · exact Turn.refuse_holds _ _ _
  · exact hf _

theorem Turn.undamaged_holds {t : Turn} {code : Byte} {slot : Nat} {f : Lifecycle → Turn}
    (hf : TurnHolds P t.s (f (t.s.tag slot).lifecycle).s) : TurnHolds P t.s (t.undamaged code slot f).s := by
  unfold Turn.undamaged
  dsimp only
  split
  · exact Turn.refuse_holds _ _ _
  · exact hf

/-- The use of a slot by a command, on the record that a read of it gave. -/
def UseHolds (P : Prop) (use : Turn → Nat → Record → Turn) : Prop :=
  ∀ t slot r, (P → t.s.listedPriors → r.priorHolds) → TurnHolds P t.s (use t slot r).s

/-- A slot is read, and the record read is used. -/
theorem UseHolds.read {use : Turn → Nat → Record → Turn} (hu : UseHolds P use) (t : Turn) (slot : Nat) (wb : Bool) :
    TurnHolds P t.s (use (t.readLive slot wb).1 slot (t.readLive slot wb).2).s :=
  (Turn.readLive_holds t slot wb).trans (hu _ _ _ fun _ => Turn.readLive_priorHolds)

theorem Turn.useFound_holds {use : Turn → Nat → Record → Turn} (hu : UseHolds P use) (t : Turn) (code : Byte)
    (slot : Nat) : TurnHolds P t.s (t.useFound code slot use).s := by
  unfold Turn.useFound
  split
  · exact Turn.refuse_holds _ _ _
  · exact hu.read t slot true

theorem Turn.readFound_holds (t : Turn) (slot : Nat) : TurnHolds P t.s (t.readFound slot).s := by
  unfold Turn.readFound
  split
  · exact .refl _
  · exact Turn.readLive_holds t slot true

theorem Turn.startCommandSearch_holds (t : Turn) (kit : KitId) : TurnHolds P t.s (t.startCommandSearch kit).s := .ofFrame

theorem Turn.withKit_holds {use : Turn → Nat → Record → Turn} (hu : UseHolds P use) (t : Turn) (code : Byte)
    (kit : KitId) : TurnHolds P t.s (t.withKit code kit use).s := by
  unfold Turn.withKit
  have hl := Turn.lookup_holds (P := P) t kit
  generalize t.lookup kit = x at hl ⊢
  obtain ⟨t1, ways, l⟩ := x
  cases l with
  | absent => exact hl.trans (Turn.refuse_holds _ _ _)
  | rebuilding => exact hl.trans (Turn.startCommandSearch_holds _ _)
  | found slot => exact hl.trans (Turn.useFound_holds hu _ _ _)

theorem putRecord_answer_holds {t : Turn} {slot : Nat} {lc : Lifecycle} {r : Record}
    (hr : P → t.s.listedPriors → r.priorHolds) (hlc : P → t.s.listedPriors → lc = .free → (t.s.tag slot).lifecycle = .free)
    (code : Byte) (st : Status) (fields : List Byte) : TurnHolds P t.s ((t.putRecord slot lc r).answer code st fields).s :=
  (Turn.putRecord_holds hr hlc).trans (Turn.answer_holds _ _ _ _)

/-! ### The prior lifecycle that a computation leaves -/

theorem releaseRecord_prior (lc : Lifecycle) (r : Record) (now horizon : Nat) :
    (releaseRecord lc r now horizon).prior = r.prior := by
  unfold releaseRecord
  dsimp only
  split <;> rfl

theorem Account.creditChange_lc (a : Account) (grace now : Nat) : (a.creditChange grace now).lc = a.lc := rfl

theorem Account.creditChange_prior (a : Account) (grace now : Nat) : (a.creditChange grace now).r.prior = a.r.prior := by
  unfold Account.creditChange
  dsimp only
  split <;> rfl

theorem placeMinutes_priorHolds {a : Account} (h : a.r.priorHolds) (applied now : Nat) :
    (placeMinutes a applied now).priorHolds := by
  unfold placeMinutes
  split
  · unfold Record.priorHolds priorAfter
    dsimp only
    split
    · exact .inr (.inr rfl)
    · exact h
  · exact h

theorem startRunning_eq_free {lc : Lifecycle} (h : startRunning lc = .free) : lc = .free := by
  unfold startRunning at h
  split at h
  · cases h
  · exact h

/-- What a credit computation gives can be written: a prior lifecycle in order, and no freed slot. -/
def CreditResult.Sound (a : Account) (res : CreditResult) : Prop :=
  (a.r.priorHolds → res.account.r.priorHolds) ∧ (res.account.lc = .free → a.lc = .free)

theorem topUp_sound {a : Account} {c : TariffClass} {amount now : Nat} {res : CreditResult}
    (h : topUp a c amount now = some res) : res.Sound a := by
  unfold topUp at h
  dsimp only at h
  split at h
  · cases h
    exact ⟨fun _ => .inl rfl, nofun⟩
  · unfold buyMinutes at h
    dsimp only at h
    split at h
    · cases h
    · cases h
      refine ⟨fun hr => ?_, startRunning_eq_free⟩
      unfold Record.priorHolds
      rw [Account.creditChange_prior]
      have released : (releaseRecord a.lc a.r now c.horizon).priorHolds := by
        rw [Record.priorHolds, releaseRecord_prior]
        exact hr
      unfold placeBought
      split
      · exact released
      · exact placeMinutes_priorHolds (a := ⟨a.lc, _⟩) released _ _

theorem adjustUp_sound {a : Account} {c : TariffClass} {m now : Nat} {res : CreditResult}
    (h : adjustUp a c m now = some res) : res.Sound a := by
  unfold adjustUp at h
  dsimp only at h
  split at h
  · cases h
  · cases h
    refine ⟨fun hr => ?_, startRunning_eq_free⟩
    unfold Record.priorHolds
    rw [Account.creditChange_prior]
    refine placeMinutes_priorHolds (a := ⟨a.lc, _⟩) ?_ _ _
    rw [Record.priorHolds, releaseRecord_prior]
    exact hr

theorem adjustDown_sound (a : Account) (c : TariffClass) (m now : Nat) : (adjustDown a c m now).Sound a := by
  refine ⟨fun hr => ?_, id⟩
  unfold Record.priorHolds adjustDown
  dsimp only
  rw [Account.creditChange_prior]
  have released : (releaseRecord a.lc a.r now c.horizon).priorHolds := by
    rw [Record.priorHolds, releaseRecord_prior]
    exact hr
  unfold takeMinutes
  split <;> exact released

theorem Turn.answerCredit_holds {t : Turn} {slot : Nat} {r : Record} (hr : P → t.s.listedPriors → r.priorHolds)
    {res : Option CreditResult} (sound : ∀ x, res = some x → x.Sound ⟨(t.s.tag slot).lifecycle, r⟩) (code : Byte)
    (c : TariffClass) (now : Nat) : TurnHolds P t.s (t.answerCredit code slot c now res).s := by
  cases res with
  | none => exact Turn.refuse_holds _ _ _
  | some res =>
    obtain ⟨prior, free⟩ := sound res rfl
    exact putRecord_answer_holds (fun p h => prior (hr p h)) (fun _ _ => free) _ _ _

/-! ### The uses of a slot -/

theorem useTopUp_holds (amount : BitVec 24) : UseHolds P (useTopUp amount) := fun t slot r hr =>
  Turn.withClock_holds fun now => Turn.undamaged_holds (by
    dsimp only
    split
    · exact Turn.refuse_holds _ _ _
    · split
      · exact Turn.refuse_holds _ _ _
      · exact Turn.answerCredit_holds hr (fun x => topUp_sound) _ _ _)

theorem useAdjust_holds (minutes : BitVec 24) : UseHolds P (useAdjust minutes) := fun t slot r hr =>
  Turn.withClock_holds fun now => Turn.undamaged_holds (by
    dsimp only
    split
    · exact Turn.refuse_holds _ _ _
    · refine Turn.answerCredit_holds hr (fun x hx => ?_) _ _ _
      split at hx
      · exact adjustUp_sound hx
      · cases hx
        exact adjustDown_sound _ _ _ _)

theorem useSuspend_holds : UseHolds P useSuspend := fun t slot r hr =>
  Turn.withClock_holds fun now => Turn.undamaged_holds (by
    dsimp only
    split
    · exact Turn.refuse_holds _ _ _
    · next live =>
      refine putRecord_answer_holds (fun _ _ => ?_) (fun _ _ freed => absurd freed (by decide : Lifecycle.suspended ≠ .free)) _ _ _
      have : (t.s.tag slot).lifecycle = .enrolled ∨ (t.s.tag slot).lifecycle = .running := by
        by_contra none
        exact live (not_or.1 none)
      exact .inr (this.imp (congrArg some) (congrArg some)))

theorem resumeAccount_lc_ne_free {a : Account} (h : a.r.priorHolds) (c : TariffClass) (now : Nat) :
    (resumeAccount a c now).lc ≠ .free := by
  change a.r.prior.getD .running ≠ .free
  rcases h with h | h | h <;> rw [h] <;> decide

theorem resumeAccount_prior (a : Account) (c : TariffClass) (now : Nat) : (resumeAccount a c now).r.prior = none := by
  unfold resumeAccount
  dsimp only
  rw [Account.creditChange_prior, releaseRecord_prior]

theorem useResume_holds : UseHolds P useResume := fun t slot r hr =>
  Turn.withClock_holds fun now => Turn.undamaged_holds (by
    dsimp only
    split
    · exact Turn.refuse_holds _ _ _
    · exact putRecord_answer_holds (fun _ _ => .inl (resumeAccount_prior _ _ _))
        (fun p hp freed => absurd freed (resumeAccount_lc_ne_free (a := ⟨_, r⟩) (hr p hp) _ _)) _ _ _)

theorem useChangeClass_holds (cls : Byte) : UseHolds P (useChangeClass cls) := fun t slot r hr =>
  Turn.undamaged_holds (by
    dsimp only
    split
    · exact Turn.refuse_holds _ _ _
    · split
      · exact Turn.refuse_holds _ _ _
      · exact putRecord_answer_holds (r := r.toClass cls.toNat) hr (fun _ _ => id) _ _ _)

/-- The freeing of a retired slot ends with the check of the evacuation (R90, R158). -/
theorem retireAt_holds (code : Byte) : UseHolds P (retireAt code) := fun t slot _ _ =>
  (Turn.map_checkEvacuation_holds ((Turn.removeEntry_holds t _).toPieceHolds.trans
    (Turn.putTag_pieceHolds _ slot Tag.cleared))).trans (Turn.answer_holds _ _ _ _)

theorem useReadRecord_holds : UseHolds P useReadRecord := fun _ _ _ _ => Turn.answer_holds _ _ _ _

/-- The use of a slot at a using turn, for every record command. -/
theorem RecordCommand.use_holds (c : RecordCommand) : UseHolds P c.use := fun t slot r hr => by
  cases c with
  | topUp kit amount => exact useTopUp_holds _ _ _ _ hr
  | adjust kit minutes => exact useAdjust_holds _ _ _ _ hr
  | suspend kit => exact useSuspend_holds _ _ _ hr
  | resume kit => exact useResume_holds _ _ _ hr
  | changeClass kit cls => exact useChangeClass_holds _ _ _ _ hr
  | retire kit => exact retireAt_holds _ _ _ _ hr
  | readRecord kit => exact useReadRecord_holds _ _ _ hr
  | enrol _ _ _ => exact Turn.refuse_holds _ _ _
  | retireSlot _ => exact Turn.refuse_holds _ _ _
  | restore _ => exact Turn.refuse_holds _ _ _
  | readSlot _ => exact Turn.refuse_holds _ _ _
  | fetchMarked => exact Turn.refuse_holds _ _ _

/-! ### The commands without a use -/

theorem workRetireSlot_holds (slot : Nat) (t : Turn) : TurnHolds P t.s (workRetireSlot slot t).s := by
  unfold workRetireSlot
  split
  · exact Turn.refuse_holds _ _ _
  · split
    · exact Turn.refuse_holds _ _ _
    · exact (retireAt_holds 0x17).read t slot true

theorem workReadSlot_holds (slot : Nat) (t : Turn) : TurnHolds P t.s (workReadSlot slot t).s := by
  unfold workReadSlot
  split
  · exact Turn.refuse_holds _ _ _
  · split
    · exact Turn.answer_holds _ _ _ _
    · exact (Turn.readLive_holds t slot true).trans (Turn.answer_holds _ _ _ _)

theorem workFetchMarked_holds (t : Turn) : TurnHolds P t.s (workFetchMarked t).s := by
  unfold workFetchMarked
  split
  · exact Turn.refuse_holds _ _ _
  · next slot _ =>
    have written := Turn.putRecord_holds (P := P) (t := (t.readLive slot true).1) (slot := slot)
      (lc := ((t.readLive slot true).1.s.tag slot).lifecycle)
      (r := { (t.readLive slot true).2 with marks := Marks.none }) (fun _ => Turn.readLive_priorHolds) fun _ _ => id
    exact (Turn.readLive_holds t slot true).trans (written.trans
      ((Turn.map_holds (fetchPast_holds _ slot)).trans (Turn.answer_holds _ _ _ _)))

theorem Turn.placeNew_holds {t : Turn} {lc : Lifecycle} {r : Record} (hr : P → r.priorHolds) (hlc : P → lc ≠ .free)
    (loc : Location) (slot : Nat) : TurnHolds P t.s (t.placeNew loc slot lc r).s :=
  (Turn.putEntry_holds t loc _ slot _).trans ((Turn.putBody_holds (fun p _ => hr p) slot).trans
    ((Turn.putTag_holds fun p _ freed => absurd freed (hlc p)).trans (pastSlot_holds _ slot)))

theorem Turn.insert_holds {t : Turn} {place : Turn → Location → Nat → Turn}
    (hp : ∀ loc slot, TurnHolds P t.s (place t loc slot).s) (code : Byte) (kit : KitId)
    (ways : Four (Option Entry)) (l : Lookup) : TurnHolds P t.s (t.insert code kit ways l place).s := by
  unfold Turn.insert
  dsimp only
  split
  · exact Turn.refuse_holds _ _ _
  · split
    · exact Turn.refuse_holds _ _ _
    · split
      · exact Turn.refuse_holds _ _ _
      · exact hp _ _

theorem workEnrol_holds (kit : KitId) (cls : Byte) (outstanding : BitVec 32) (t : Turn) :
    TurnHolds P t.s (workEnrol kit cls outstanding t).s := by
  refine Turn.withClock_holds fun now => ?_
  have placed : ∀ (t : Turn) loc slot, TurnHolds P t.s ((t.placeNew loc slot .enrolled
      (enrolledRecord kit cls.toNat outstanding.toNat now)).answer 0x10 .ok (beBytes 2 slot)).s := fun t loc slot =>
    (Turn.placeNew_holds (fun _ => .inl rfl) (fun _ => by decide) loc slot).trans (Turn.answer_holds _ _ _ _)
  split
  · exact Turn.refuse_holds _ _ _
  · have hl := Turn.lookup_holds (P := P) t kit
    dsimp only
    generalize t.lookup kit = x at hl ⊢
    obtain ⟨t1, ways, l⟩ := x
    cases l with
    | found slot => exact hl.trans ((Turn.readFound_holds _ _).trans (Turn.refuse_holds _ _ _))
    | absent => exact hl.trans (Turn.insert_holds (placed _) _ _ _ _)
    | rebuilding => exact hl.trans (Turn.insert_holds (placed _) _ _ _ _)

/-! ### RESTORE, of an image that passed R92 -/

theorem imageLifecycle_ne_free {i : RecordImage} (h : badImage i = false) : imageLifecycle i ≠ .free := by
  have inRange : ¬(i.lifecycle.toNat < 1 ∨ 4 < i.lifecycle.toNat) := by
    simp only [badImage, Bool.or_eq_false_iff, decide_eq_false_iff_not] at h
    tauto
  unfold imageLifecycle lifecycleOf
  split
  · omega
  · decide
  · decide
  · decide
  · decide
  · decide

theorem restoredRecord_priorHolds {i : RecordImage} (h : badImage i = false) (c : TariffClass) (now : Nat) (drift : Int) :
    (restoredRecord i c now drift).priorHolds := by
  have freeze : badFreeze i = false := by
    simp only [badImage, Bool.or_eq_false_iff] at h
    tauto
  change (imagePrior i).bind lifecycleOf = none ∨ (imagePrior i).bind lifecycleOf = some .enrolled
    ∨ (imagePrior i).bind lifecycleOf = some .running
  cases prior : imagePrior i with
  | none => exact .inl rfl
  | some p =>
    have known : p = 1 ∨ p = 2 := by
      unfold badFreeze at freeze
      rw [prior] at freeze
      split at freeze
      · simp_all
      · simp at freeze
      · simp_all
      · next hp =>
        cases hp
        simp only [Bool.or_eq_false_iff, decide_eq_false_iff_not] at freeze
        tauto
    rcases known with rfl | rfl
    · exact .inr (.inl rfl)
    · exact .inr (.inr rfl)

theorem Turn.restoreInPlace_holds {i : RecordImage} (hi : P → badImage i = false) (t : Turn) (c : TariffClass)
    (now slot : Nat) : TurnHolds P t.s (t.restoreInPlace i c now slot).s := by
  unfold Turn.restoreInPlace
  have hr := Turn.readLive_holds (P := P) t slot true
  generalize t.readLive slot true = x at hr ⊢
  obtain ⟨t1, old⟩ := x
  dsimp only at hr ⊢
  split
  · exact hr.trans (Turn.refuse_holds _ _ _)
  · exact hr.trans ((Turn.putBody_holds (fun p _ => restoredRecord_priorHolds (hi p) c now _) slot).trans
      ((Turn.putTag_holds fun p _ freed => absurd freed (imageLifecycle_ne_free (hi p))).trans (Turn.answer_holds _ _ _ _)))

theorem workRestore_holds {i : RecordImage} (hi : P → badImage i = false) (t : Turn) : TurnHolds P t.s (workRestore i t).s := by
  refine Turn.withClock_holds fun now => ?_
  have placed : ∀ (t : Turn) (c : TariffClass) loc slot, TurnHolds P t.s
      (if Config.maxReserve < (restoredRecord i c now 0).reserve then t.refuse 0x18 .creditFull
        else (t.placeNew loc slot (imageLifecycle i) (restoredRecord i c now 0)).answer 0x18 .ok
          (restoreBytes slot true (imageLifecycle i) (restoredRecord i c now 0) c now)).s := by
    intro t c loc slot
    split
    · exact Turn.refuse_holds _ _ _
    · exact (Turn.placeNew_holds (fun p => restoredRecord_priorHolds (hi p) c now 0)
        (fun p => imageLifecycle_ne_free (hi p)) loc slot).trans
        (Turn.answer_holds _ _ _ _)
  have hl := Turn.lookup_holds (P := P) t i.kit
  dsimp only
  generalize t.lookup i.kit = x at hl ⊢
  obtain ⟨t1, ways, l⟩ := x
  cases l with
  | found slot => exact hl.trans (Turn.restoreInPlace_holds hi _ _ _ _)
  | absent => exact hl.trans (Turn.insert_holds (placed _ _) _ _ _ _)
  | rebuilding => exact hl.trans (Turn.insert_holds (placed _ _) _ _ _ _)

/-- The command turn of every record command; that its parameters lie in their ranges is for the records. -/
theorem RecordCommand.work_holds {c : RecordCommand} (good : P → c.badValue = false) (t : Turn) :
    TurnHolds P t.s (c.work t).s := by
  cases c with
  | enrol kit cls outstanding => exact workEnrol_holds _ _ _ _
  | topUp kit amount => exact Turn.withClock_holds fun _ => Turn.withKit_holds (useTopUp_holds _) _ _ _
  | adjust kit minutes => exact Turn.withClock_holds fun _ => Turn.withKit_holds (useAdjust_holds _) _ _ _
  | suspend kit => exact Turn.withClock_holds fun _ => Turn.withKit_holds useSuspend_holds _ _ _
  | resume kit => exact Turn.withClock_holds fun _ => Turn.withKit_holds useResume_holds _ _ _
  | changeClass kit cls => exact Turn.withKit_holds (useChangeClass_holds _) _ _ _
  | retire kit => exact Turn.withKit_holds (retireAt_holds _) _ _ _
  | retireSlot slot => exact workRetireSlot_holds _ _
  | restore image => exact workRestore_holds good _
  | readRecord kit => exact Turn.withKit_holds useReadRecord_holds _ _ _
  | readSlot slot => exact workReadSlot_holds _ _
  | fetchMarked => exact workFetchMarked_holds _

/-! ## Check-ins and searches -/

theorem Record.hear_prior (r : Record) (c : CheckIn) (now : Nat) : (r.hear c now).prior = r.prior := rfl

theorem checkedInRecord_prior (lc : Lifecycle) (r : Record) (c : CheckIn) (cls : TariffClass) (now : Nat) :
    (checkedInRecord lc r c cls now).prior = r.prior := by
  have drift : ∀ r : Record, (r.driftAt lc c cls now).prior = r.prior := fun r => by
    unfold Record.driftAt
    split <;> rfl
  have deliver : ∀ (r : Record) s, (r.deliver s).prior = r.prior := fun r s => by
    unfold Record.deliver
    split
    · rfl
    · split <;> rfl
  have acknowledge : ∀ (r : Record) s, (r.acknowledge s).prior = r.prior := fun r s => by
    unfold Record.acknowledge
    dsimp only
    split
    · rfl
    · rw [deliver]
      split <;> rfl
  have release : ∀ r : Record, (r.releaseHeard lc cls now).prior = r.prior := fun r => by
    unfold Record.releaseHeard
    dsimp only
    split <;> exact releaseRecord_prior _ _ _ _
  have lapse : ∀ (r : Record) st, (r.noteLapse st).prior = r.prior := fun r st => by
    unfold Record.noteLapse
    split <;> rfl
  change (heardRecord lc r c cls now).prior = _
  unfold heardRecord
  dsimp only
  rw [lapse, release, acknowledge, drift]
  rfl

theorem Turn.serve_holds {t : Turn} {r : Record} (hr : P → t.s.listedPriors → r.priorHolds) (slot : Nat) (a : Arrival) :
    TurnHolds P t.s (t.serve slot r a).s := by
  unfold Turn.serve
  split
  · refine (Turn.putRecord_holds (fun p h => ?_) fun _ _ => id).trans (handOver_holds _ _ _)
    rw [Record.priorHolds, checkedInRecord_prior]
    exact hr p h
  · exact handOver_holds _ _ _

theorem workCheckIn_holds (a : Arrival) (rest : List Arrival) (t : Turn) : TurnHolds P t.s (workCheckIn a rest t).s := by
  refine (takeArrival_holds t.s a rest).trans ?_
  change TurnHolds P (t.map (·.takeArrival a rest)).s _
  unfold workCheckIn
  dsimp only
  generalize t.map (·.takeArrival a rest) = t1
  have hl := Turn.lookup_holds (P := P) t1 a.checkIn.kit
  generalize t1.lookup a.checkIn.kit = x at hl ⊢
  obtain ⟨t2, ways, l⟩ := x
  cases l with
  | absent => exact hl.trans (noticeUnknown_holds _)
  | rebuilding => exact hl.trans .ofFrame
  | found slot =>
    refine hl.trans ?_
    dsimp only
    split
    · exact noticeUnknown_holds _
    · exact (Turn.readLive_holds t2 slot true).trans (Turn.serve_holds (fun _ => Turn.readLive_priorHolds) _ _)

theorem searchSlot_holds (kit : KitId) (acc : Turn × Option Nat) (slot : Nat) :
    TurnHolds P acc.1.s (searchSlot kit acc slot).1.s := by
  unfold searchSlot
  split
  · exact .refl _
  · dsimp only
    split
    · exact .refl _
    · have hr := Turn.readLive_holds (P := P) acc.1 slot true
      split
      · exact hr
      · split <;> exact hr

theorem Turn.examine_holds (t : Turn) (se : Search) : TurnHolds P t.s (t.examine se).1.s := by
  unfold Turn.examine
  generalize (List.range Config.searchSlots).map (se.next + ·) = l
  have : ∀ acc : Turn × Option Nat, TurnHolds P acc.1.s (l.foldl (searchSlot se.kit) acc).1.s := by
    induction l with
    | nil => exact fun acc => .refl _
    | cons x l ih => exact fun acc => (searchSlot_holds _ _ _).trans (ih _)
  exact this (t, none)

theorem Turn.searchFails_holds (t : Turn) (owner : Requester) : TurnHolds P t.s (t.searchFails owner).s := by
  unfold Turn.searchFails
  split
  · exact (putSearch_holds t.s .checkIn none).trans (noticeUnknown_holds _)
  · exact Turn.refuse_holds _ _ _
  · exact .refl _

theorem workSearchStep_holds (owner : Requester) (se : Search) (t : Turn) :
    TurnHolds P t.s (workSearchStep owner se t).s := by
  unfold workSearchStep
  have he := Turn.examine_holds (P := P) t se
  generalize t.examine se = x at he ⊢
  obtain ⟨t1, found⟩ := x
  cases found with
  | some slot => exact he.trans ((Turn.reinsert_holds _ _ _ _).trans (putSearch_holds _ _ _))
  | none =>
    dsimp only at he ⊢
    split
    · exact he.trans (putSearch_holds _ _ _)
    · exact he.trans (Turn.searchFails_holds _ _)

theorem Turn.useFor_holds (owner : Requester) : UseHolds P fun t slot r => t.useFor owner slot r := fun t slot r hr => by
  cases owner with
  | checkIn =>
    refine (putSearch_holds t.s .checkIn none).trans ?_
    change TurnHolds P (t.map (·.putSearch .checkIn none)).s _
    unfold Turn.useFor
    dsimp only
    split
    · exact .refl _
    · exact Turn.serve_holds (t := t.map (·.putSearch .checkIn none)) hr _ _
  | command =>
    unfold Turn.useFor
    dsimp only
    split
    · exact .refl _
    · exact RecordCommand.use_holds _ _ _ _ hr
  | evacuation => exact .refl _
  | sweep => exact .refl _

theorem workUsingTurn_holds (owner : Requester) (kit : KitId) (slot : Nat) (t : Turn) :
    TurnHolds P t.s (workUsingTurn owner kit slot t).s := by
  unfold workUsingTurn
  split
  · exact Turn.searchFails_holds _ _
  · dsimp only
    split
    · exact (Turn.useFor_holds owner).read t slot true
    · exact (Turn.readLive_holds t slot true).trans (Turn.searchFails_holds _ _)

/-! ## Visits and moves -/

theorem Turn.scrub_holds (t : Turn) (slot : Nat) : TurnHolds P t.s (t.scrub slot).s := by
  have reads : (t.s.body slot).check = .single → P → t.s.listedPriors → (t.s.body slot).read.priorHolds := fun _ _ h => by
    obtain ⟨stored, written⟩ := State.listedPriors_body h slot
    rw [StoredBody.read_eq]
    exact StoredBody.field_of _ .prior (·.prior)
      (fun p => p = none ∨ p = some .enrolled ∨ p = some .running) written stored
  unfold Turn.scrub
  dsimp only
  split
  · exact .refl _
  · next single =>
    exact (Turn.countCorrected_holds t (bankIndex slot)).trans
      (Turn.putBody_holds (t := t.countCorrected _) (reads single) _)
  · exact (Turn.putBody_holds (fun _ _ => .inl rfl) _).trans (feedError_holds _ _ _)

theorem visitedRecord_prior (lc : Lifecycle) (r : Record) (c : TariffClass) (now : Nat) :
    (visitedRecord lc r c now).prior = r.prior := by
  have silence : ∀ r : Record, (r.noteSilence c now).prior = r.prior := fun r => by
    unfold Record.noteSilence
    split <;> rfl
  have lapse : ∀ (r : Record) st, (r.noteLapse st).prior = r.prior := fun r st => by
    unfold Record.noteLapse
    split <;> rfl
  unfold visitedRecord
  dsimp only
  rw [silence, lapse]
  unfold releaseVisited
  split
  · rfl
  · rw [Account.creditChange_prior]
    exact releaseRecord_prior _ _ _ _

theorem Turn.evaluate_holds {t : Turn} {r : Record} (hr : P → t.s.listedPriors → r.priorHolds) (slot : Nat) :
    TurnHolds P t.s (t.evaluate slot r).s := by
  unfold Turn.evaluate
  split
  · exact .refl _
  · dsimp only
    split
    · exact .refl _
    · refine Turn.putRecord_holds (fun p h => ?_) fun _ _ => id
      rw [Record.priorHolds, visitedRecord_prior]
      exact hr p h

theorem Turn.visit_holds (t : Turn) (slot : Nat) : TurnHolds P t.s (t.visit slot).s := by
  unfold Turn.visit
  split
  · exact Turn.scrub_holds _ _
  · unfold Turn.visitLive
    split
    · exact .refl _
    · have hr := Turn.readLive_holds (P := P) t slot true
      dsimp only
      split
      · exact hr
      · exact hr.trans ((Turn.evaluate_holds (fun _ => Turn.readLive_priorHolds) _).trans (Turn.reinsert_holds _ _ _ _))

theorem workSweepVisit_holds (t : Turn) : TurnHolds P t.s (workSweepVisit t).s := by
  refine (passOver_holds 4 t.s).trans ?_
  change TurnHolds P (t.map (State.passOver 4)).s _
  unfold workSweepVisit
  dsimp only
  split
  · exact (Turn.visit_holds _ _).trans ((spendCredit_holds _).trans (movePosition_holds _))
  · exact .refl _

theorem Turn.moveEntry_holds (t : Turn) (loc : Location) (target : Nat) (r : Record) :
    TurnHolds P t.s (t.moveEntry loc target r).s := by
  unfold Turn.moveEntry
  split
  · split
    · exact .refl _
    · exact Turn.reinsert_holds _ _ _ _
  · exact (Turn.repoint_holds t loc target).trans (Turn.setLocation_holds _ _ _)

/-- The freeing of the source of a move ends with the check of the evacuation (R157, R158). -/
theorem Turn.moveRecord_holds {t : Turn} {r : Record} (hr : P → t.s.listedPriors → r.priorHolds) (source target : Nat) :
    TurnHolds P t.s (t.moveRecord source target r).s :=
  PieceHolds.checkEvacuation ((pastSlot_holds t.s target).toPieceHolds.trans
    ((Turn.putBody_holds (t := t.map (·.pastSlot target)) hr target).toPieceHolds.trans
      ((Turn.putTag_pieceHolds _ _ _).trans ((Turn.putTag_pieceHolds _ source Tag.cleared).trans
        ((Turn.moveEntry_holds _ _ _ _).toPieceHolds.trans (countMove_holds _).toPieceHolds)))))

theorem workEvacuationMove_holds (t : Turn) : TurnHolds P t.s (workEvacuationMove t).s := by
  unfold workEvacuationMove
  split
  · exact .refl _
  · split
    · next source target _ _ =>
      exact (Turn.readLive_holds t source false).trans (Turn.moveRecord_holds (fun _ => Turn.readLive_priorHolds) _ _)
    · exact .refl _

/-! ## The turn as a whole -/

theorem grant_holds (s : State) (r : Requester) : TurnHolds P s (s.grant r).dropBegun := .ofFrame

theorem settle_holds (s : State) : TurnHolds P s s.settle := .ofFrame

theorem turn_holds {s : State} {r : Requester} {work : Turn → Turn} (hw : ∀ t, TurnHolds P t.s (work t).s) :
    TurnHolds P s (s.turn r work) :=
  (grant_holds s r).trans ((hw (Turn.start r _)).trans ((Turn.write_holds _).trans (settle_holds _)))

/-- A check-in turn that was in progress completes on the link timer's present value. -/
theorem finishTurn_holds (s : State) (b : BegunTurn) : TurnHolds P s (s.finishTurn b) := by
  have resumed : TurnHolds P s (b.resume s) := .ofFrame ⟨rfl, rfl, rfl, rfl, rfl, rfl, s.resume_timer b⟩
  have work := workCheckIn_holds (P := P) b.arrival s.link.queue (Turn.start .checkIn (b.resume s))
  have keeps := workCheckIn_keeps b.arrival s.link.queue (Turn.start .checkIn (b.resume s)) (.inr rfl)
  have time := (keeps.trans (Turn.write_keeps _)).surroundings.1
  refine (resumed.trans (work.trans (Turn.write_holds _))).trans (TurnHolds.trans ?_ (settle_holds _))
  exact .ofFrame ⟨rfl, rfl, rfl, rfl, rfl, rfl, by rw [time]; exact (s.resume_timer b).symm⟩

end

end Sys2Proof.Machine
end

section
/-! PROOFS. What every row of the table keeps of the invariants: the canonical form of the stores, the ranges of the
units, the order of the link, the one evacuation and the priors of the records, and nothing to send at an IDLE
transmitter. -/

namespace Sys2Proof.Machine

set_option Elab.async false

/-! ## What an event keeps -/

/-- What every event keeps, the offer to the transmitter apart. -/
structure EventKeeps (s s' : State) : Prop where
  wf : Memory.wf s → Memory.wf s'
  time : s.time.inRange → s'.time.inRange
  sweep : s.sweep.inRange → s'.sweep.inRange
  arbiter : s.engine.arbiterInRange → s'.engine.arbiterInRange
  link : s.link.inOrder → s'.link.inOrder
  pointers : s.engine.pointersInRange → s'.engine.pointersInRange
  records : s.listedPriors → s.evacuationHolds → s.heldInRange →
    s'.listedPriors ∧ s'.evacuationHolds ∧ s'.heldInRange

/-- What every row keeps. -/
structure StepKeeps (s s' : State) : Prop extends EventKeeps s s' where
  send : s.nothingToSend → s'.nothingToSend

theorem EventKeeps.refl (s : State) : EventKeeps s s := ⟨id, id, id, id, id, id, fun p e h => ⟨p, e, h⟩⟩

theorem EventKeeps.trans {a b c : State} (h : EventKeeps a b) (k : EventKeeps b c) : EventKeeps a c where
  wf := k.wf ∘ h.wf
  time := k.time ∘ h.time
  sweep := k.sweep ∘ h.sweep
  arbiter := k.arbiter ∘ h.arbiter
  link := k.link ∘ h.link
  pointers := k.pointers ∘ h.pointers
  records := fun priors evacuation held =>
    have ⟨priors, evacuation, held⟩ := h.records priors evacuation held
    k.records priors evacuation held

theorem StepKeeps.refl (s : State) : StepKeeps s s := ⟨.refl s, id⟩

theorem StepKeeps.trans {a b c : State} (h : StepKeeps a b) (k : StepKeeps b c) : StepKeeps a c :=
  ⟨h.toEventKeeps.trans k.toEventKeeps, k.send ∘ h.send⟩

/-- The frame of an operation on the port, the integrity report, the bytes read by the host or the queue. -/
theorem StepKeeps.ofPort {s s' : State}
    (h : s' = { s with
      integrity := s'.integrity
      port := s'.port
      hostRead := s'.hostRead
      pending := s'.pending } := by rfl) : StepKeeps s s' := by
  rw [h]
  exact ⟨⟨id, id, id, id, id, id, fun p e h => ⟨p, e, h⟩⟩, id⟩

/-- The frame of an operation on the units outside the records: the time unit but its timer, and the sweep unit. -/
theorem StepKeeps.ofUnits {s s' : State} (time : s.time.inRange → s'.time.inRange)
    (sweep : s.sweep.inRange → s'.sweep.inRange) (timer : s'.time.timer = s.time.timer := by rfl)
    (h : s' = { s with time := s'.time, sweep := s'.sweep } := by rfl) : StepKeeps s s' := by
  have memory : s'.memory = s.memory := by rw [h]
  have engine : s'.engine = s.engine := by rw [h]
  have link : s'.link = s.link := by rw [h]
  refine ⟨⟨?_, time, sweep, ?_, ?_, ?_, ?_⟩, State.nothingToSend_congr (by rw [link]) (by rw [link]) timer⟩
  · rw [h]
    exact id
  · rw [engine]
    exact id
  · rw [link]
    exact id
  · rw [engine]
    exact id
  · rw [h]
    exact fun p e h => ⟨p, e, h⟩

/-- The frame of an operation on the tariff table, the directory, the banks' corrected counts or the link that leaves
the transmitter and the channels as they stand. -/
theorem StepKeeps.ofLink {s s' : State} (link : s.link.inOrder → s'.link.inOrder)
    (channels : s'.link.channels = s.link.channels := by rfl) (tx : s'.link.tx = s.link.tx := by rfl)
    (h : s' = { s with link := s'.link } := by rfl) : StepKeeps s s' := by
  have frame : EventKeeps s { s with link := s'.link } :=
    ⟨fun wf => by rw [Memory.wf, channels]; exact wf, id, id, id, link, id, fun p e h => ⟨p, e, h⟩⟩
  refine ⟨h ▸ frame, State.nothingToSend_congr channels tx ?_⟩
  rw [h]

theorem respond_stepKeeps (s : State) (code : Byte) (st : Status) (fields : List Byte) :
    StepKeeps s (s.respond code st fields) := .ofPort

theorem refuse_stepKeeps (s : State) (code : Byte) (st : Status) : StepKeeps s (s.refuse code st) := .ofPort

theorem openWrite_stepKeeps (s : State) (bytes : List Byte) : StepKeeps s (s.openWrite bytes) := .ofPort

theorem drives_stepKeeps (s : State) (acks : List Bool) : StepKeeps s (s.drives acks) := .ofPort

theorem count_stepKeeps (s : State) (f : LinkCounters → LinkCounters) : StepKeeps s (s.count f) := .ofLink id

theorem giveUp_stepKeeps (s : State) : StepKeeps s s.giveUp := .ofLink id

/-! ## The banks -/

/-- The frame of an operation on the banks and on the counts of the record engine, after which no bank but those that
were are EVACUATING, and the live slots of those stand. -/
theorem StepKeeps.ofBanks {s s' : State}
    (evacuation : s.evacuationHolds → s'.evacuationHolds)
    (arbiter : s.engine.arbiterInRange → s'.engine.arbiterInRange)
    (held : s'.engine.held = s.engine.held ∨ s'.engine.held = none := by exact .inl rfl)
    (pointers : s.engine.pointersInRange → s'.engine.pointersInRange := by exact id)
    (bodies : s'.memory.bodies = s.memory.bodies := by rfl) (tags : s'.memory.tags = s.memory.tags := by rfl)
    (h : s' = { s with memory := s'.memory, engine := s'.engine } := by rfl) : StepKeeps s s' := by
  have frame : StepKeeps s { s with memory := s'.memory, engine := s'.engine } := by
    refine ⟨⟨fun wf => by rw [Memory.wf, bodies, tags]; exact wf, id, id, arbiter, id, pointers,
      fun p e k => ⟨?_, ?_, ?_⟩⟩, id⟩
    · rw [State.listedPriors, bodies]
      exact p
    · have := evacuation e
      rw [h] at this
      exact this
    · intro c hc
      rcases held with same | dropped
      · exact k c (same ▸ hc)
      · cases dropped.symm.trans hc
  exact h ▸ frame

theorem Four.get_map_restart (f : Four Bank) (b : Fin 4) :
    (Four.mk f.b0.restart f.b1.restart f.b2.restart f.b3.restart).get b = (f.get b).restart := by
  match b with
  | 0 | 1 | 2 | 3 => rfl

theorem Bank.restart_state (k : Bank) : k.restart.state ≠ .evacuating := by
  unfold Bank.restart
  split
  · exact nofun
  · next other => exact other

/-- A bank of a state other than EVACUATING is given another such. -/
theorem State.evacuationHolds_setBank {s : State} {b : Fin 4} {v : Bank} (h : s.evacuationHolds)
    (before : (s.bank b).state ≠ .evacuating) (after : v.state ≠ .evacuating) : (s.setBank b v).evacuationHolds := by
  have evacuating (x : Fin 4) : ((s.setBank b v).bank x).state = .evacuating ↔ (s.bank x).state = .evacuating := by
    rw [State.bank_setBank]
    split
    · next same => exact ⟨fun k => absurd k after, fun k => absurd k (same ▸ before)⟩
    · exact .rfl
  have chosen : (s.setBank b v).evacuatingBank = s.evacuatingBank :=
    Four.lowest_congr fun x => decide_eq_decide.2 (evacuating x)
  intro x hx
  obtain ⟨found, live, others⟩ := h x ((evacuating x).1 hx)
  refine ⟨chosen.trans found, ?_, fun y hy => mt (evacuating y).1 (others y hy)⟩
  have other : x ≠ b := fun same => before (same ▸ (evacuating x).1 hx)
  rw [State.liveIn, State.bank_setBank, if_neg other]
  exact live

/-- The bodies and tags of a bank are cleared, and the bank takes a state other than EVACUATING. -/
theorem bankCleared_stepKeeps {s : State} {b : Fin 4} (h : (s.bank b).state ≠ .evacuating) :
    StepKeeps s (s.bankCleared b) := by
  have frame := State.evacuationHolds_setBank (s := s) (b := b)
    (v := { s.bank b with state := .inService, free := Config.bankSlots }) (before := h) (after := nofun)
  refine ⟨⟨fun wf => ⟨bodiesWf_erase (m := s.memory.bodies) wf.1 fun slot => decide (bankIndex slot = b),
    cellsWf_erase (m := s.memory.tags) wf.2.1 fun slot => decide (bankIndex slot = b), wf.2.2⟩, id, id, id, id, id, fun p e k => ⟨?_, frame e, k⟩⟩, id⟩
  exact fun e he => p e (List.mem_filter.1 he).1

theorem checkStartUp_stepKeeps (s : State) : StepKeeps s s.checkStartUp := by
  unfold State.checkStartUp
  split
  · exact .ofPort
  · exact .refl s

/-- The check for the end of an evacuation changes the banks, the bodies and the BANK flag only. -/
theorem State.checkEvacuation_frame (s : State) :
    s.checkEvacuation = { s with memory := s.checkEvacuation.memory }
      ∧ (s.listedPriors → s.checkEvacuation.listedPriors) := by
  unfold State.checkEvacuation
  split
  · exact ⟨rfl, id⟩
  · split
    · exact ⟨rfl, fun h e he => h e (List.mem_filter.1 he).1⟩
    · exact ⟨rfl, id⟩

/-- An evacuation is checked for its end (R158). -/
theorem checkEvacuation_stepKeeps {s : State} (one : s.oneEvacuates) : StepKeeps s s.checkEvacuation := by
  obtain ⟨frame, priors⟩ := s.checkEvacuation_frame
  have time : s.checkEvacuation.time = s.time := by rw [frame]
  have sweep : s.checkEvacuation.sweep = s.sweep := by rw [frame]
  have engine : s.checkEvacuation.engine = s.engine := by rw [frame]
  have link : s.checkEvacuation.link = s.link := by rw [frame]
  refine ⟨⟨(checkEvacuation_keeps s).wf, ?_, ?_, ?_, ?_, ?_, fun p _ k =>
    ⟨priors p, State.checkEvacuation_holds one, ?_⟩⟩,
    State.nothingToSend_congr (by rw [link]) (by rw [link]) (by rw [time])⟩
  · rw [time]; exact id
  · rw [sweep]; exact id
  · rw [engine]; exact id
  · rw [link]; exact id
  · rw [engine]; exact id
  · rw [State.heldInRange, engine]; exact k

/-- A bank has become the only one EVACUATING, its live slots not yet counted (R155). -/
def State.begunEvacuation (s : State) (b : Fin 4) : State :=
  { s.setBank b { s.bank b with state := .evacuating } with engine := { s.engine with movesMade := 0 } }

theorem State.startEvacuation_eq (s : State) (b : Fin 4) :
    s.startEvacuation b = (s.begunEvacuation b).checkEvacuation := rfl

theorem State.begunEvacuation_oneEvacuates {s : State} {b : Fin 4} (h : s.evacuatingBank = none) :
    (s.begunEvacuation b).oneEvacuates := by
  have others := State.evacuatingBank_eq_none_iff.1 h
  have states (x : Fin 4) : ((s.begunEvacuation b).bank x).state = .evacuating ↔ x = b := by
    rw [show (s.begunEvacuation b).bank x = _ from s.bank_setBank b x _]
    split
    · next same => simp [same]
    · next other => simp [other, others x]
  intro x hx
  obtain rfl := (states x).1 hx
  refine ⟨?_, fun y hy => mt (states y).1 hy⟩
  cases found : (s.begunEvacuation x).evacuatingBank with
  | none => exact absurd hx (State.evacuatingBank_eq_none_iff.1 found x)
  | some y => rw [(states y).1 (State.state_of_evacuatingBank found)]

/-- With no bank EVACUATING before, an evacuation is begun, and checked for its end (R155, R158). -/
theorem startEvacuation_stepKeeps {s : State} {b : Fin 4} (h : s.evacuatingBank = none) :
    StepKeeps s (s.startEvacuation b) := by
  have check := checkEvacuation_stepKeeps (State.begunEvacuation_oneEvacuates (b := b) h)
  rw [State.startEvacuation_eq]
  refine ⟨⟨check.wf, check.time, check.sweep, check.arbiter, check.link, check.pointers, fun p _ k =>
    ⟨(State.checkEvacuation_frame _).2 p, State.checkEvacuation_holds (State.begunEvacuation_oneEvacuates h), ?_⟩⟩,
    check.send⟩
  rw [State.heldInRange, (State.checkEvacuation_frame _).1]
  exact k

/-- An evacuation is ended before its bank is empty (R159). -/
theorem endEvacuation_stepKeeps {s : State} {b : Fin 4} (h : s.evacuatingBank = some b) :
    StepKeeps s (s.endEvacuation b) := by
  refine .ofBanks (fun e => State.evacuationHolds_of_none fun x => ?_) fun k => settle_arbiterInRange k
  rw [show (s.endEvacuation b).bank x = _ from s.bank_setBank b x _]
  split
  · exact nofun
  · next other => exact (e b (State.state_of_evacuatingBank h)).2.2 x other

/-! ## The kit link -/

/-- What the counting, the giving up and the opening of channels and the offer to the transmitter do: channels,
transmitter and counters alone change, and a link with no channel in use and an IDLE transmitter stays so. -/
structure ChannelsMove (s s' : State) : Prop where
  frame : s' = { s with link := { s.link with
    channels := s'.link.channels, tx := s'.link.tx, counters := s'.link.counters } }
  wf : cellsWf none s.link.channels → cellsWf none s'.link.channels
  rest : s.link.channels = [] → s.link.tx = .idle → s'.link.channels = [] ∧ s'.link.tx = .idle

theorem ChannelsMove.refl (s : State) : ChannelsMove s s := ⟨rfl, id, And.intro⟩

theorem ChannelsMove.trans {a b c : State} (h : ChannelsMove a b) (k : ChannelsMove b c) : ChannelsMove a c := by
  refine ⟨?_, k.wf ∘ h.wf, fun channels idle => ?_⟩
  · rw [k.frame, h.frame]
  · obtain ⟨channels, idle⟩ := h.rest channels idle
    exact k.rest channels idle

theorem foldl_channelsMove {β : Type} {f : State → β → State} (hf : ∀ s x, ChannelsMove s (f s x)) (l : List β)
    (s : State) : ChannelsMove s (l.foldl f s) := by
  induction l generalizing s with
  | nil => exact .refl s
  | cons x l ih => exact (hf s x).trans (ih _)

/-- A link whose channels are all FREE has none in use. -/
theorem State.channels_ne_nil {s : State} {c : Nat} {ch : Channel} (h : s.channel c = some ch) :
    s.link.channels ≠ [] := by
  intro none
  rw [State.channel, none] at h
  cases h

theorem count_channelsMove (s : State) (f : LinkCounters → LinkCounters) : ChannelsMove s (s.count f) :=
  ⟨rfl, id, And.intro⟩

/-- A channel in use is written. -/
theorem putChannel_channelsMove {s : State} {c : Nat} {ch : Channel} (h : s.channel c = some ch)
    (v : Option Channel) : ChannelsMove s (s.putChannel c v) :=
  ⟨rfl, fun wf => cellsWf_write wf c v, fun none => absurd none (State.channels_ne_nil h)⟩

theorem collide_channelsMove (s : State) (c : Nat) : ChannelsMove s (s.collide c) := by
  unfold State.collide
  split
  · exact .refl s
  · next used =>
    split
    · exact (putChannel_channelsMove used none).trans (count_channelsMove _ _)
    · exact .refl s

theorem openChannel_channelsMove (s : State) (c : Nat) : ChannelsMove s (s.openChannel c) := by
  unfold State.openChannel
  split
  · exact .refl s
  · next used =>
    split
    · exact putChannel_channelsMove used _
    · exact .refl s

theorem startSend_channelsMove {s : State} {c : Nat} {ch : Channel} (h : s.channel c = some ch) :
    ChannelsMove s (s.startSend c) :=
  ⟨rfl, fun wf => cellsWf_write wf c _, fun none => absurd none (State.channels_ne_nil h)⟩

/-- Every channel in use listed or not, none is chosen of a link with no channel in use. -/
theorem State.chosenChannel_of_nil {s : State} (h : s.link.channels = []) : s.chosenChannel = none := by
  simp [State.chosenChannel, State.betterReady, State.channel, h]

theorem offer_channelsMove (s : State) : ChannelsMove s s.offer := by
  unfold State.offer
  split
  · exact .refl s
  · split
    · exact .refl s
    · next chosen =>
      exact ⟨rfl, fun wf => cellsWf_write wf _ _,
        fun none => absurd (State.chosenChannel_of_nil none) (by rw [chosen]; exact nofun)⟩

theorem collideAll_channelsMove (s : State) : ChannelsMove s s.collideAll := foldl_channelsMove collide_channelsMove _ s

theorem openAll_channelsMove (s : State) : ChannelsMove s s.openAll :=
  (foldl_channelsMove openChannel_channelsMove _ s).trans (offer_channelsMove _)

theorem ChannelsMove.eventKeeps {s s' : State} (h : ChannelsMove s s') : EventKeeps s s' := by
  have frame : EventKeeps s { s with link := { s.link with
      channels := s'.link.channels, tx := s'.link.tx, counters := s'.link.counters } } := by
    refine ⟨fun ⟨bodies, tags, buckets, spill, tariff, channels⟩ =>
      ⟨bodies, tags, buckets, spill, tariff, h.wf channels⟩, id, id, id, fun ⟨rest, length⟩ =>
      ⟨fun off => ?_, length⟩, id, fun p e k => ⟨p, e, k⟩⟩
    obtain ⟨parser, stamp, queue, channels, tx⟩ := rest off
    obtain ⟨channels, tx⟩ := h.rest channels tx
    exact ⟨parser, stamp, queue, channels, tx⟩
  rw [h.frame]
  exact frame

theorem watchStamps_eventKeeps (s : State) : EventKeeps s s.watchStamps := by
  refine ⟨id, id, id, id, fun ⟨rest, length⟩ => ⟨fun off => ?_, ?_⟩, id, fun p e k => ⟨p, e, k⟩⟩
  · obtain ⟨parser, stamp, queue, channels, tx⟩ := rest off
    exact ⟨parser, stamp, by simp [State.watchStamps, queue], channels, tx⟩
  · rw [State.watchStamps, List.length_map]
    exact length

theorem grant_inRange {s : State} (h : s.engine.waits.inRange) (r : Requester) :
    (s.grant r).engine.waits.inRange ∧ (s.grant r).engine.consecutive ≤ Config.checkInRun :=
  ⟨⟨countAfter_le s r .checkIn h.1, countAfter_le s r .command h.2.1, countAfter_le s r .evacuation h.2.2.1,
    countAfter_le s r .sweep h.2.2.2⟩, consecutiveAfter_le s r⟩

/-- A check-in turn found in progress has the counts of its grant (R77). -/
theorem State.checkInBegun_inRange {s : State} (h : s.engine.waits.inRange) {b : BegunTurn}
    (begun : s.checkInBegun = some b) : b.waits.inRange ∧ b.consecutive ≤ Config.checkInRun := by
  unfold State.checkInBegun at begun
  split at begun
  · split at begun
    · cases begun
      exact grant_inRange h .checkIn
    · cases begun
  · cases begun

/-- The link leaves ENABLED (R121). -/
theorem leaveEnabled_stepKeeps (s : State) (dest : LinkState) : StepKeeps s (s.leaveEnabled dest) := by
  refine ⟨⟨fun ⟨bodies, tags, buckets, spill, tariff, _⟩ => ⟨bodies, tags, buckets, spill, tariff, cellsWf_nil⟩, id, id,
    fun ⟨waits, consecutive, begun⟩ => settle_arbiterInRange ⟨waits, consecutive, fun b hb => ?_⟩,
    fun _ => ⟨fun _ => ⟨rfl, rfl, rfl, rfl, rfl⟩, Nat.zero_le _⟩, id, fun p e k => ⟨p, e, k⟩⟩,
    fun _ _ => State.chosenChannel_of_nil rfl⟩
  rcases Option.or_eq_some_iff.1 hb with now | ⟨_, before⟩
  · exact State.checkInBegun_inRange waits now
  · exact begun b before

/-- The link goes to DISABLED or FAULTED (R120). -/
theorem linkTo_stepKeeps (s : State) (dest : LinkState) : StepKeeps s (s.linkTo dest) := by
  unfold State.linkTo
  split
  · exact leaveEnabled_stepKeeps s dest
  · next off => exact .ofLink fun h => ⟨fun _ => h.1 off, h.2⟩

theorem timeOut_eventKeeps (s : State) : EventKeeps s s.timeOut := by
  unfold State.timeOut
  split
  · exact .refl s
  · split
    · exact (count_stepKeeps s _).toEventKeeps.trans (leaveEnabled_stepKeeps _ _).toEventKeeps
    · exact .refl s

/-! ## The time input -/

theorem TimeUnit.tick_inRange {t : TimeUnit} (h : t.inRange) : t.tick.inRange := by
  obtain ⟨divider, minute, hold, unset⟩ := h
  unfold TimeUnit.tick
  split
  · exact ⟨divider, minute, hold, unset⟩
  · next running =>
    have notUnset : t.clock = .unset → t.hold = 0 := fun k => absurd (running.symm.trans k) (by decide)
    split
    · exact ⟨divider, minute, Nat.le_trans (Nat.sub_le _ _) hold, fun k => absurd (running.symm.trans k) (by decide)⟩
    · split
      · next below => exact ⟨divider, below, hold, notUnset⟩
      · exact ⟨divider, minute, hold, notUnset⟩

theorem SweepUnit.tick_inRange {u : SweepUnit} (h : u.inRange) : u.tick.inRange :=
  ⟨h.1, Nat.min_le_right _ _, h.2.2⟩

/-- The counting of an edge: the divider and the timer count, and at the divider's wrap the minute ticks. -/
theorem State.countEdge_cases (s : State) :
    (s.time.divider + 1 < Config.minuteEdges ∧ s.countEdge = { s with time := { s.time with
        inputLost := false, timer := s.time.timer + 1, divider := s.time.divider + 1 } })
      ∨ (Config.minuteEdges ≤ s.time.divider + 1 ∧ s.countEdge = { s with
          time := { s.time with inputLost := false, timer := s.time.timer + 1, divider := 0 }.tick
          sweep := s.sweep.tick }) := by
  unfold State.countEdge
  dsimp only
  split
  · next below => exact .inl ⟨below, rfl⟩
  · next wraps => exact .inr ⟨Nat.le_of_not_lt wraps, rfl⟩

/-- Some quiet edges and the edge after them count the divider on, or wrap it once. -/
theorem quiet_countEdge_eventKeeps {s : State} (n : Nat) :
    EventKeeps s (s.quiet n).countEdge := by
  rcases (s.quiet n).countEdge_cases with ⟨below, count⟩ | ⟨_, count⟩
  · rw [count]
    exact ⟨id, fun h => ⟨below, h.2⟩, id, id, id, id, fun p e k => ⟨p, e, k⟩⟩
  · rw [count]
    exact ⟨id, fun h => TimeUnit.tick_inRange ⟨Nat.zero_lt_succ _, h.2⟩, SweepUnit.tick_inRange, id, id, id,
      fun p e k => ⟨p, e, k⟩⟩

theorem State.quiet_zero (s : State) : s.quiet 0 = s := by
  simp [State.quiet]

/-- What an edge does after the counting: stamps, timeout and collisions in either order, and the channels opened. -/
theorem edge_eventKeeps (s : State) (timeoutFirst : Bool) : EventKeeps s.countEdge (s.edge timeoutFirst) := by
  have opened (t : State) : EventKeeps t t.openAll := (openAll_channelsMove t).eventKeeps
  have collided (t : State) : EventKeeps t t.collideAll := (collideAll_channelsMove t).eventKeeps
  refine (watchStamps_eventKeeps _).trans ?_
  unfold State.edge
  dsimp only
  generalize s.countEdge.watchStamps = t
  refine EventKeeps.trans ?_ (opened _)
  cases timeoutFirst
  · exact (collided t).trans (timeOut_eventKeeps _)
  · exact (timeOut_eventKeeps t).trans (collided _)

/-- An edge ends with an offer to the transmitter (R129, R131). -/
theorem edge_nothingToSend (s : State) (timeoutFirst : Bool) : (s.edge timeoutFirst).nothingToSend := by
  unfold State.edge State.openAll
  exact State.offer_nothingToSend _

theorem quiet_edge_stepKeeps (s : State) (n : Nat) (timeoutFirst : Bool) :
    StepKeeps s ((s.quiet n).edge timeoutFirst) :=
  ⟨(quiet_countEdge_eventKeeps n).trans (edge_eventKeeps _ _), fun _ => edge_nothingToSend _ _⟩

theorem edge_stepKeeps (s : State) (timeoutFirst : Bool) : StepKeeps s (s.edge timeoutFirst) := by
  have edge := quiet_edge_stepKeeps s 0 timeoutFirst
  rw [s.quiet_zero] at edge
  exact edge

theorem runTo_stepKeeps (s : State) (named : List Nat) (timeoutFirst : Bool) :
    StepKeeps s (s.runTo named timeoutFirst) := by
  unfold State.runTo
  split
  · exact .refl s
  · split
    · exact quiet_edge_stepKeeps s _ timeoutFirst
    · exact .refl s

/-! ## Reception -/

/-- What a character or a frame-end strobe does at an ENABLED link: parser, stamp holder, arrival queue and counters
alone change, and the queue keeps within its length (R123 to R125). -/
structure Receives (s s' : State) : Prop where
  frame : s' = { s with link := { s.link with
    parser := s'.link.parser, stamp := s'.link.stamp, queue := s'.link.queue, counters := s'.link.counters } }
  queue : s.link.queue.length ≤ Config.queueLength → s'.link.queue.length ≤ Config.queueLength

theorem Receives.refl (s : State) : Receives s s := ⟨rfl, id⟩

theorem Receives.trans {a b c : State} (h : Receives a b) (k : Receives b c) : Receives a c :=
  ⟨by rw [k.frame, h.frame], k.queue ∘ h.queue⟩

theorem Receives.stepKeeps {s s' : State} (enabled : s.link.state = .enabled) (h : Receives s s') :
    StepKeeps s s' := by
  have state : s'.link.state = .enabled := by rw [h.frame]; exact enabled
  exact .ofLink (fun order => ⟨fun off => absurd state off, h.queue order.2⟩) (by rw [h.frame]) (by rw [h.frame])
    (by rw [h.frame])

theorem charError_receives (s : State) : Receives s s.charError := by
  unfold State.charError
  dsimp only
  split <;> exact ⟨rfl, id⟩

theorem badPacket_receives (s : State) : Receives s s.badPacket := ⟨rfl, id⟩

theorem offerCheckIn_receives (s : State) (c : CheckIn) (stamp : Stamp) : Receives s (s.offerCheckIn c stamp) := by
  unfold State.offerCheckIn
  dsimp only
  split
  · next room =>
    refine ⟨rfl, fun _ => ?_⟩
    rw [State.count, List.length_append]
    exact room
  · exact ⟨rfl, id⟩

theorem completePacket_receives (s : State) (length : Byte) (payload : List Byte) (received : BitVec 16) :
    Receives s (s.completePacket length payload received) := by
  unfold State.completePacket
  split
  · exact badPacket_receives s
  · split
    · exact offerCheckIn_receives s _ _
    · exact badPacket_receives s

theorem parse_receives (s : State) (b : Byte) : Receives s (s.parse b) := by
  unfold State.parse
  split
  case h_1 =>
    split
    · exact ⟨rfl, id⟩
    · exact .refl s
  case h_2 =>
    split
    · exact ⟨rfl, id⟩
    · exact badPacket_receives s
  case h_3 => dsimp only; split <;> exact ⟨rfl, id⟩
  case h_4 => exact ⟨rfl, id⟩
  case h_5 => exact completePacket_receives s _ _ _

theorem receive_receives (s : State) (ch : LineChar) : Receives s (s.receive ch) := by
  unfold State.receive
  split
  · exact charError_receives s
  · exact parse_receives s _

theorem foldl_receive_receives (chars : List LineChar) (s : State) : Receives s (chars.foldl State.receive s) := by
  induction chars generalizing s with
  | nil => exact .refl s
  | cons ch chars ih => exact (receive_receives s ch).trans (ih _)

theorem frameEnd_receives (s : State) : Receives s s.frameEnd := by
  unfold State.frameEnd
  split <;> exact ⟨rfl, id⟩

/-- A transmit-done strobe at an ENABLED link (R133). -/
theorem transmitDone_stepKeeps {s : State} (enabled : s.link.state = .enabled) : StepKeeps s s.transmitDone := by
  unfold State.transmitDone
  split
  · exact count_stepKeeps s _
  · next n _ _ =>
    refine ⟨EventKeeps.trans (b := (({ s.putChannel n none with
        link := { (s.putChannel n none).link with tx := .idle } } : State).count
          fun c => { c with sent := bump c.sent })) ?_ (offer_channelsMove _).eventKeeps,
      fun _ => State.offer_nothingToSend _⟩
    exact ⟨fun ⟨bodies, tags, buckets, spill, tariff, channels⟩ =>
      ⟨bodies, tags, buckets, spill, tariff, cellsWf_write channels n none⟩, id, id, id,
      fun order => ⟨fun off => absurd enabled off, order.2⟩, id, fun p e k => ⟨p, e, k⟩⟩

/-! ## Taking a command -/

/-- RESTART (R174). -/
theorem portRestart_stepKeeps (s : State) : StepKeeps s (portRestart s) := by
  unfold portRestart
  refine ((linkTo_stepKeeps s .disabled).trans (giveUp_stepKeeps _)).trans ?_
  generalize (s.linkTo .disabled).giveUp = t
  refine StepKeeps.trans ?_ (respond_stepKeeps _ _ _ _)
  refine ⟨⟨id, id, fun h => ⟨h.1, Nat.zero_le _, Nat.zero_lt_succ _⟩,
    fun _ => ⟨⟨Nat.zero_le _, Nat.zero_le _, Nat.zero_le _, Nat.zero_le _⟩, Nat.zero_le _, nofun⟩, id,
    fun h => ⟨h.1, Nat.zero_lt_succ _⟩, fun p _ _ => ⟨p, ?_, nofun⟩⟩, id⟩
  refine State.evacuationHolds_of_none fun b => ?_
  rw [State.bank, Four.get_map_restart]
  exact Bank.restart_state _

/-- A record command is handed to the record engine once its parameters are found in their ranges (R80, R165). -/
theorem takeRecordCommand_stepKeeps (c : RecordCommand) (s : State) : StepKeeps s (takeRecordCommand c s) := by
  unfold takeRecordCommand
  split
  · exact refuse_stepKeeps _ _ _
  · split
    · exact refuse_stepKeeps _ _ _
    · next good =>
      exact ⟨⟨id, id, id, id, id, id, fun p e _ => ⟨p, e, fun c hc => Option.some.inj hc ▸ Bool.eq_false_iff.2 good⟩⟩, id⟩

theorem answerTime_stepKeeps {s : State} {t : TimeUnit} (code : Byte) (range : s.time.inRange → t.inRange)
    (timer : t.timer = s.time.timer) : StepKeeps s (s.answerTime code t) :=
  (StepKeeps.ofUnits (s := s) (s' := { s with time := t }) range id timer).trans (respond_stepKeeps _ _ _ _)

theorem portSetTime_stepKeeps (minute : BitVec 32) (s : State) : StepKeeps s (portSetTime minute s) := by
  unfold portSetTime
  split
  · exact refuse_stepKeeps _ _ _
  · next low =>
    split
    · exact refuse_stepKeeps _ _ _
    · refine answerTime_stepKeeps _ (fun _ => ⟨Nat.zero_lt_succ _, ?_, Nat.zero_le _, nofun⟩) rfl
      exact Nat.le_trans (Nat.le_of_not_lt low) (by decide)

theorem TimeUnit.advance_inRange {t : TimeUnit} {n : Nat} (h : t.inRange)
    (room : ¬(t.hold < n ∧ Config.maxMinute < t.minute + (n - t.hold))) : (t.advance n).inRange := by
  obtain ⟨divider, minute, hold, unset⟩ := h
  unfold TimeUnit.advance
  split
  · exact ⟨divider, minute, Nat.le_trans (Nat.sub_le _ _) hold, fun k => by rw [unset k]; exact Nat.zero_sub _⟩
  · next past => exact ⟨divider, Nat.le_of_not_lt fun high => room ⟨Nat.lt_of_not_le past, high⟩, Nat.zero_le _,
      fun _ => rfl⟩

theorem TimeUnit.advance_timer (t : TimeUnit) (n : Nat) : (t.advance n).timer = t.timer := by
  unfold TimeUnit.advance
  split <;> rfl

theorem portAdvanceTime_stepKeeps (minutes : BitVec 16) (s : State) : StepKeeps s (portAdvanceTime minutes s) := by
  unfold portAdvanceTime
  dsimp only
  split
  · exact refuse_stepKeeps _ _ _
  split
  · exact refuse_stepKeeps _ _ _
  split
  · exact refuse_stepKeeps _ _ _
  · next room => exact answerTime_stepKeeps _ (fun h => TimeUnit.advance_inRange h room) (TimeUnit.advance_timer _ _)

theorem portHoldTime_stepKeeps (minutes : BitVec 16) (s : State) : StepKeeps s (portHoldTime minutes s) := by
  unfold portHoldTime
  split
  · exact refuse_stepKeeps _ _ _
  split
  · exact refuse_stepKeeps _ _ _
  · next set =>
    exact answerTime_stepKeeps _ (fun h => ⟨h.1, h.2.1, Nat.min_le_right _ _, fun unset => absurd unset set⟩) rfl

theorem portSetClass_stepKeeps (block : ClassBlock) (s : State) : StepKeeps s (portSetClass block s) := by
  unfold portSetClass
  dsimp only
  split
  · exact refuse_stepKeeps _ _ _
  split
  · exact refuse_stepKeeps _ _ _
  · refine StepKeeps.trans ?_ (respond_stepKeeps _ _ _ _)
    exact ⟨⟨fun ⟨bodies, tags, buckets, spill, tariff, channels⟩ =>
      ⟨bodies, tags, buckets, spill, cellsWf_write tariff _ _, channels⟩, id, id, id, id, id,
      fun p e k => ⟨p, e, k⟩⟩, id⟩

theorem portReadClass_stepKeeps (cls : Byte) (s : State) : StepKeeps s (portReadClass cls s) := by
  unfold portReadClass
  split
  · exact refuse_stepKeeps _ _ _
  · exact respond_stepKeeps _ _ _ _

theorem portSetSweep_stepKeeps (rate : Byte) (s : State) : StepKeeps s (portSetSweep rate s) := by
  unfold portSetSweep
  dsimp only
  split
  · exact refuse_stepKeeps _ _ _
  · next low =>
    exact (StepKeeps.ofUnits (s := s) (s' := { s with sweep := { s.sweep with rate := rate.toNat } }) id
      fun h => ⟨Nat.le_of_not_lt low, h.2⟩).trans (respond_stepKeeps _ _ _ _)

theorem portSetLink_stepKeeps (block : LinkBlock) (s : State) : StepKeeps s (portSetLink block s) := by
  unfold portSetLink
  dsimp only
  split
  · exact refuse_stepKeeps _ _ _
  · next c _ =>
    split
    · exact refuse_stepKeeps _ _ _
    · exact (StepKeeps.ofLink (s := s) (s' := { s with link := { s.link with config := c } }) id).trans
        (respond_stepKeeps _ _ _ _)

theorem portLinkEnable_stepKeeps (s : State) : StepKeeps s (portLinkEnable s) := by
  unfold portLinkEnable
  split
  · exact refuse_stepKeeps _ _ _
  split
  · exact refuse_stepKeeps _ _ _
  · exact (StepKeeps.ofLink (s := s) (s' := { s with link := { s.link with state := .enabled } })
      fun h => ⟨fun off => absurd rfl off, h.2⟩).trans (respond_stepKeeps _ _ _ _)

theorem State.evacuatingBank_of_canEvacuate {s : State} {b : Fin 4} (h : ¬s.cannotEvacuate b = true) :
    s.evacuatingBank = none := by
  simp only [State.cannotEvacuate, Bool.or_eq_true, not_or, Option.not_isSome_iff_eq_none] at h
  exact h.1.2

theorem portEvacuateBank_stepKeeps (bank : Byte) (s : State) : StepKeeps s (portEvacuateBank bank s) := by
  unfold portEvacuateBank
  dsimp only
  split
  · exact refuse_stepKeeps _ _ _
  split
  · exact refuse_stepKeeps _ _ _
  split
  · exact refuse_stepKeeps _ _ _
  · next can =>
    split
    · exact refuse_stepKeeps _ _ _
    · exact (startEvacuation_stepKeeps (State.evacuatingBank_of_canEvacuate can)).trans (respond_stepKeeps _ _ _ _)

theorem portCancelEvacuation_stepKeeps (s : State) : StepKeeps s (portCancelEvacuation s) := by
  unfold portCancelEvacuation
  split
  · exact refuse_stepKeeps _ _ _
  split
  · exact refuse_stepKeeps _ _ _
  · next evacuating => exact (endEvacuation_stepKeeps evacuating).trans (respond_stepKeeps _ _ _ _)

theorem portReturnBank_stepKeeps (bank : Byte) (s : State) : StepKeeps s (portReturnBank bank s) := by
  unfold portReturnBank
  dsimp only
  split
  · exact refuse_stepKeeps _ _ _
  split
  · exact refuse_stepKeeps _ _ _
  split
  · exact refuse_stepKeeps _ _ _
  · next out =>
    refine StepKeeps.trans ?_ (respond_stepKeeps _ _ _ _)
    refine .ofBanks (fun e => State.evacuationHolds_setBank e ?_ nofun) id
    rw [Decidable.not_not.1 out]
    exact nofun

theorem portInjectRecord_stepKeeps (slot : BitVec 16) (mode : Byte) (s : State) :
    StepKeeps s (portInjectRecord slot mode s) := by
  unfold portInjectRecord
  split
  · exact refuse_stepKeeps _ _ _
  split
  · exact refuse_stepKeeps _ _ _
  · exact .ofPort

theorem portInjectBucket_stepKeeps (bucket : BitVec 16) (mode : Byte) (s : State) :
    StepKeeps s (portInjectBucket bucket mode s) := by
  unfold portInjectBucket
  split
  · exact refuse_stepKeeps _ _ _
  split
  · exact refuse_stepKeeps _ _ _
  · exact .ofPort

theorem portReadStatus_stepKeeps (s : State) : StepKeeps s (portReadStatus s) :=
  (StepKeeps.ofBanks (s := s) (s' := { s with memory := { s.memory with bankFlag := false } }) id id).trans
    (respond_stepKeeps _ _ _ _)

theorem portSetAttention_stepKeeps (mask : Byte) (s : State) : StepKeeps s (portSetAttention mask s) := by
  unfold portSetAttention
  split
  · exact refuse_stepKeeps _ _ _
  · exact .ofPort

theorem portClearCounters_stepKeeps (s : State) : StepKeeps s (portClearCounters s) := by
  have banks : StepKeeps s { s with memory := { s.memory with banks := s.memory.banks.uncounted } } := by
    refine .ofBanks (State.evacuationHolds_of_live (fun b => ?_) fun b => Nat.le_of_eq ?_) id
    · match b with
      | 0 | 1 | 2 | 3 => rfl
    · match b with
      | 0 | 1 | 2 | 3 => rfl
  exact (banks.trans (count_stepKeeps _ fun _ => LinkCounters.zero)).trans .ofPort

/-- A command is taken (R165). -/
theorem takeCommand_stepKeeps (c : HostCommand) (s : State) : StepKeeps s (takeCommand c s) := by
  cases c with
  | record c => exact takeRecordCommand_stepKeeps c s
  | setTime minute => exact portSetTime_stepKeeps minute s
  | advanceTime minutes => exact portAdvanceTime_stepKeeps minutes s
  | holdTime minutes => exact portHoldTime_stepKeeps minutes s
  | setClass block => exact portSetClass_stepKeeps block s
  | readClass cls => exact portReadClass_stepKeeps cls s
  | setSweep rate => exact portSetSweep_stepKeeps rate s
  | setLink block => exact portSetLink_stepKeeps block s
  | linkEnable => exact portLinkEnable_stepKeeps s
  | linkDisable => exact (linkTo_stepKeeps s _).trans (respond_stepKeeps _ _ _ _)
  | evacuateBank bank => exact portEvacuateBank_stepKeeps bank s
  | cancelEvacuation => exact portCancelEvacuation_stepKeeps s
  | returnBank bank => exact portReturnBank_stepKeeps bank s
  | clearErrorReport => exact .ofPort
  | injectRecord slot mode => exact portInjectRecord_stepKeeps slot mode s
  | injectBucket bucket mode => exact portInjectBucket_stepKeeps bucket mode s
  | readStatus => exact portReadStatus_stepKeeps s
  | setAttention mask => exact portSetAttention_stepKeeps mask s
  | clearCounters => exact portClearCounters_stepKeeps s
  | restart => exact portRestart_stepKeeps s
  | readTime | readSweep | readLink | readLinkCounters | readErrorReport | identify => exact respond_stepKeeps s _ _ _

theorem takeMessage_stepKeeps (s : State) (code : Byte) (params : List Byte) :
    StepKeeps s (s.takeMessage code params) := by
  unfold State.takeMessage
  split
  · exact refuse_stepKeeps _ _ _
  · exact refuse_stepKeeps _ _ _
  · exact takeCommand_stepKeeps _ _

theorem judgeWrite_stepKeeps (s : State) (bytes : List Byte) : StepKeeps s (s.judgeWrite bytes) := by
  unfold State.judgeWrite
  refine (openWrite_stepKeeps s bytes).trans ?_
  dsimp only
  split
  · exact .ofPort
  · exact refuse_stepKeeps _ _ _
  · refine StepKeeps.trans ?_ (takeMessage_stepKeeps _ _ _)
    split
    · exact .ofPort
    · exact .refl _

theorem collidingWrite_stepKeeps (s : State) (bytes : List Byte) : StepKeeps s (s.collidingWrite bytes) := by
  unfold State.collidingWrite
  refine (drives_stepKeeps s (acknowledged bytes.length)).trans ?_
  dsimp only
  split
  · exact portRestart_stepKeeps _
  · exact .ofPort

theorem writeTransaction_stepKeeps (s : State) (address : BitVec 7) (bytes : List Byte) :
    StepKeeps s (s.writeTransaction address bytes) := by
  unfold State.writeTransaction
  split
  · exact drives_stepKeeps s _
  split
  · exact drives_stepKeeps s _
  split
  · exact collidingWrite_stepKeeps s bytes
  · exact judgeWrite_stepKeeps s bytes

theorem send_stepKeeps (s : State) (c : HostCommand) : StepKeeps s (s.send c) := by
  unfold State.send
  split
  · exact collidingWrite_stepKeeps s _
  · exact (openWrite_stepKeeps s _).trans (takeCommand_stepKeeps c _)

/-! ## The rows -/

/-- A whole turn. What it keeps of the evacuation and of the records may rest on the held command's ranges. -/
theorem StepKeeps.ofTurn {s s' : State} (frame : WholeTurnKeeps s s') (holds : TurnHolds s.heldInRange s s') :
    StepKeeps s s' := by
  refine ⟨⟨frame.wf, ?_, frame.sweep, frame.arbiter, frame.link, holds.pointers, fun p e k =>
    ⟨holds.priors k p, holds.evacuation k p e, fun c hc => ?_⟩⟩, holds.send⟩
  · rw [frame.surroundings.1]
    exact id
  · rcases holds.held with same | dropped
    · exact k c (same ▸ hc)
    · cases dropped.symm.trans hc

/-- What a row that goes on to one state keeps. -/
def RowKeeps (s : State) (o : Host.Outcome State Fault Refusal) : Prop := ∀ s', o = .next s' → StepKeeps s s'

theorem RowKeeps.next {s s' : State} (h : StepKeeps s s') : RowKeeps s (.next s') := by
  intro t same
  cases same
  exact h

theorem WholeTurnKeeps.refl (s : State) : WholeTurnKeeps s s :=
  ⟨⟨rfl, rfl, rfl, rfl, rfl, rfl, rfl, rfl, rfl, rfl⟩, id, id, id, id⟩

/-- What a row that is a turn of the record engine answers: a whole turn, or no event. -/
def TurnRow (s : State) (o : Host.Outcome State Fault Refusal) : Prop :=
  ∃ s', o = .next s' ∧ WholeTurnKeeps s s' ∧ TurnHolds s.heldInRange s s'

theorem TurnRow.next {s s' : State} (frame : WholeTurnKeeps s s') (holds : TurnHolds s.heldInRange s s') :
    TurnRow s (.next s') := ⟨s', rfl, frame, holds⟩

theorem TurnRow.turn {s : State} {r : Requester} {work : Turn → Turn} (frame : ∀ t, TurnKeeps t.s (work t).s)
    (holds : ∀ t, TurnHolds s.heldInRange t.s (work t).s) : TurnRow s (.next (s.turn r work)) :=
  .next (turn_keeps s r work (frame (Turn.start r _))) (turn_holds holds)

theorem TurnRow.rowKeeps {s : State} {o : Host.Outcome State Fault Refusal} (h : TurnRow s o) : RowKeeps s o := by
  obtain ⟨s', rfl, frame, holds⟩ := h
  exact .next (.ofTurn frame holds)

theorem execCommandTurn_turnRow (s : State) : TurnRow s (execCommandTurn s) := by
  unfold execCommandTurn
  split
  · next c held _ =>
    split
    · exact .turn c.work_keeps fun t => RecordCommand.work_holds (fun good => good c held) t
    · exact .next (.refl s) (.refl s)
  · exact .next (.refl s) (.refl s)

theorem execSearchStep_turnRow (s : State) : TurnRow s (execSearchStep s) := by
  unfold execSearchStep
  split
  · exact .next (.refl s) (.refl s)
  · split
    · exact .turn (workSearchStep_keeps _ _) (workSearchStep_holds _ _)
    · exact .next (.refl s) (.refl s)

theorem execUsingTurn_turnRow (s : State) : TurnRow s (execUsingTurn s) := by
  unfold execUsingTurn
  split
  · exact .next (.refl s) (.refl s)
  · split
    · exact .turn (workUsingTurn_keeps _ _ _) (workUsingTurn_holds _ _ _)
    · exact .next (.refl s) (.refl s)

theorem execCheckInTurn_turnRow (s : State) : TurnRow s (execCheckInTurn s) := by
  unfold execCheckInTurn
  split
  · next a rest _ queue _ =>
    exact .next (turn_keeps s .checkIn _ (workCheckIn_keeps a rest (Turn.start .checkIn _) (.inl queue)))
      (turn_holds (workCheckIn_holds a rest))
  · next b _ begun _ => exact .next (finishTurn_keeps s b begun) (finishTurn_holds s b)
  · exact .next (.refl s) (.refl s)

theorem execSweepVisit_turnRow (s : State) : TurnRow s (execSweepVisit s) := by
  unfold execSweepVisit
  split
  · exact .turn workSweepVisit_keeps workSweepVisit_holds
  · exact .next (.refl s) (.refl s)

theorem execEvacuationMove_turnRow (s : State) : TurnRow s (execEvacuationMove s) := by
  unfold execEvacuationMove
  split
  · exact .turn workEvacuationMove_keeps workEvacuationMove_holds
  · exact .next (.refl s) (.refl s)

theorem State.reset_bank (b : Fin 4) : State.reset.bank b = Bank.reset := by
  match b with
  | 0 | 1 | 2 | 3 => rfl

theorem State.reset_evacuationHolds : State.reset.evacuationHolds :=
  State.evacuationHolds_of_none fun b => by rw [State.reset_bank]; exact nofun

/-- Settles O60: the stores are empty, every bank INITIALISING and every count at its reset value. -/
theorem resetMeetsInvariants : Obligations.ResetMeetsInvariants := by
  refine ⟨⟨⟨cellsWf_nil, fun _ listed => absurd listed List.not_mem_nil⟩, cellsWf_nil, cellsWf_nil, cellsWf_nil, cellsWf_nil, cellsWf_nil⟩, by decide, by decide,
    ⟨by decide, by decide, nofun⟩, by decide, fun _ => State.chosenChannel_of_nil (s := State.reset) rfl, by decide,
    State.reset_evacuationHolds, nofun, fun slot => ⟨.inl rfl, .inl rfl⟩⟩

theorem reset_stepKeeps (s : State) : StepKeeps s State.reset := by
  obtain ⟨wf, time, sweep, arbiter, link, send, pointers, evacuation, held, _⟩ := resetMeetsInvariants
  exact ⟨⟨fun _ => wf, fun _ => time, fun _ => sweep, fun _ => arbiter, fun _ => link, fun _ => pointers,
    fun _ _ _ => ⟨fun _ listed => absurd listed List.not_mem_nil, evacuation, held⟩⟩, fun _ => send⟩

theorem restarted_stepKeeps (s : State) (straps : BitVec 2) (cause : StartCause) :
    StepKeeps s (s.restarted straps cause) := (reset_stepKeeps s).trans .ofPort

theorem State.ne_evacuating_of_clearingBank {s : State} {bank : Nat} (h : s.clearingBank bank = true) :
    (s.bank (bankIndex bank)).state ≠ .evacuating := by
  simp only [State.clearingBank, Bool.and_eq_true, decide_eq_true_eq] at h
  rw [h.2]
  exact nofun

theorem execBankClearingComplete_keeps (bank : Nat) (s : State) : RowKeeps s (execBankClearingComplete bank s) := by
  refine .next ?_
  split
  · next clearing =>
    exact (bankCleared_stepKeeps (State.ne_evacuating_of_clearingBank clearing.2)).trans (checkStartUp_stepKeeps _)
  · exact .refl s

theorem execDirectoryClearingComplete_keeps (s : State) : RowKeeps s (execDirectoryClearingComplete s) := by
  refine .next ?_
  split
  · refine StepKeeps.trans ?_ (checkStartUp_stepKeeps _)
    exact ⟨⟨fun ⟨bodies, tags, _, _, tariff, channels⟩ => ⟨bodies, tags, cellsWf_nil, cellsWf_nil, tariff, channels⟩,
      id, id, id, id, id, fun p e k => ⟨p, e, k⟩⟩, id⟩
  · exact .refl s

theorem execReturnBankClearingComplete_keeps (bank : Nat) (s : State) :
    RowKeeps s (execReturnBankClearingComplete bank s) := by
  refine .next ?_
  split
  · next clearing =>
    exact (bankCleared_stepKeeps (State.ne_evacuating_of_clearingBank clearing.2)).trans (.ofBanks id id)
  · exact .refl s

theorem execInputLost_keeps (s : State) : RowKeeps s (execInputLost s) := by
  have lost : StepKeeps s { s with time := { s.time with inputLost := true } } := .ofUnits id id
  refine .next ?_
  split
  · exact lost.trans (leaveEnabled_stepKeeps _ _)
  · exact lost

theorem execStatusRead_keeps (address : BitVec 7) (count : Nat) (s : State) :
    RowKeeps s (execStatusRead address count s) := by
  refine .next ?_
  split
  · exact drives_stepKeeps s _
  split
  · exact drives_stepKeeps s _
  · exact .ofPort

/-- A row of the kit link, which a link that is not ENABLED ignores (R121). -/
theorem whenEnabled_stepKeeps {s s' : State} (h : s.link.state = .enabled → StepKeeps s s') :
    StepKeeps s (if s.link.state = .enabled then s' else s) := by
  split
  · next enabled => exact h enabled
  · exact .refl s

/-- Every row of the table keeps the invariants. -/
theorem exec_keeps (i : Instr) (s : State) : RowKeeps s (exec i s) := by
  cases hc : hostCommandOf i with
  | some c =>
    rw [exec_hostCommand hc]
    exact .next (send_stepKeeps s c)
  | none =>
    cases i with
    | powerOn straps => exact .next (restarted_stepKeeps s straps _)
    | resetPin straps => exact .next (restarted_stepKeeps s straps _)
    | bankClearingComplete bank => exact execBankClearingComplete_keeps bank s
    | directoryClearingComplete => exact execDirectoryClearingComplete_keeps s
    | returnBankClearingComplete bank => exact execReturnBankClearingComplete_keeps bank s
    | timeInputEdge => exact RowKeeps.next (edge_stepKeeps s false)
    | rawMinuteTick => exact RowKeeps.next (runTo_stepKeeps s s.edgesToTick false)
    | stampOverdue => exact RowKeeps.next (runTo_stepKeeps s s.edgesToOverdue false)
    | earliestStart => exact RowKeeps.next (runTo_stepKeeps s s.edgesToEarliest false)
    | latestStartPassed => exact RowKeeps.next (runTo_stepKeeps s s.edgesPastLatest false)
    | transmitTimeout => exact RowKeeps.next (runTo_stepKeeps s s.edgesToTimeout true)
    | inputLost => exact execInputLost_keeps s
    | kitPacket chars =>
      exact .next (whenEnabled_stepKeeps fun enabled => (foldl_receive_receives chars s).stepKeeps enabled)
    | kitCharacterError => exact .next (whenEnabled_stepKeeps (charError_receives s).stepKeeps)
    | frameEndStrobe => exact .next (whenEnabled_stepKeeps (frameEnd_receives s).stepKeeps)
    | transmitDoneStrobe => exact .next (whenEnabled_stepKeeps transmitDone_stepKeeps)
    | messageWrite address bytes => exact .next (writeTransaction_stepKeeps s address bytes)
    | collidingWrite address bytes => exact .next (writeTransaction_stepKeeps s address bytes)
    | statusRead address count => exact execStatusRead_keeps address count s
    | commandTurn => exact (execCommandTurn_turnRow s).rowKeeps
    | searchStep => exact (execSearchStep_turnRow s).rowKeeps
    | usingTurn => exact (execUsingTurn_turnRow s).rowKeeps
    | checkInTurn => exact (execCheckInTurn_turnRow s).rowKeeps
    | sweepVisit => exact (execSweepVisit_turnRow s).rowKeeps
    | evacuationMove => exact (execEvacuationMove_turnRow s).rowKeeps
    | _ => cases hc

/-- Every step keeps the invariants: a row, taken from the front of the queue. -/
theorem step_keeps {s s' : State} (h : step s = .next s') : StepKeeps s s' := by
  unfold step at h
  split at h
  · cases h
    exact .refl s
  · next i rest _ => exact (StepKeeps.ofPort (s := s) (s' := { s with pending := rest })).trans (exec_keeps i _ s' h)

/-- Settles O58, of every step by what each row keeps. -/
theorem stepKeepsStoresCanonical : Obligations.StepKeepsStoresCanonical :=
  fun _ _ wf next => (step_keeps next).wf wf

/-- Settles O59, of every step by what each row keeps; the prior lifecycles are those of the listed bodies. -/
theorem stepKeepsRangesAndOrder : Obligations.StepKeepsRangesAndOrder := by
  refine ⟨fun s s' time sweep arbiter next => ?_, fun s s' order next => (step_keeps next).link order,
    fun s s' pointers next => (step_keeps next).pointers pointers, fun s s' wf evacuation held priors next => ?_,
    fun s s' send next => (step_keeps next).send send⟩
  · have keeps := step_keeps next
    exact ⟨keeps.time time, keeps.sweep sweep, keeps.arbiter arbiter⟩
  · have keeps := step_keeps next
    obtain ⟨priors', evacuation', held'⟩ := keeps.records ((State.listedPriors_iff wf.1).2 priors) evacuation held
    exact ⟨evacuation', held', (State.listedPriors_iff (keeps.wf wf).1).1 priors'⟩

end Sys2Proof.Machine
end

section
/-! PROOFS. Steps, resets and the clearing of the stores (R154, R160, R168). -/

namespace Sys2Proof.Machine

set_option Elab.async false

/-- Settles O1, by the two forms of the queue. -/
theorem stepRunsFrontCommand : Obligations.StepRunsFrontCommand :=
  ⟨fun s c rest queue => by rw [step, queue], fun s queue => by rw [step, queue]⟩

theorem State.reset_evacuatingBank : State.reset.evacuatingBank = none :=
  State.evacuatingBank_eq_none_iff.2 fun b => by rw [State.reset_bank]; exact nofun

/-- Settles O2, block by block at its reset value. -/
theorem resetState : Obligations.ResetState := by
  have ways (w : Fin 4) : Bucket.cleared.ways.get w = ⟨none, none, .good⟩ := by
    match w with
    | 0 | 1 | 2 | 3 => rfl
  exact ⟨rfl, fun _ => rfl, fun _ => ⟨rfl, rfl⟩, State.reset_bank, rfl, rfl, rfl, rfl, State.reset_evacuatingBank,
    fun _ w => ⟨ways w, rfl⟩, fun _ => rfl, rfl, rfl, rfl, ⟨rfl, rfl, rfl, rfl, rfl⟩, rfl, rfl, rfl, rfl, rfl, rfl, rfl,
    rfl, rfl⟩

/-- Settles O3: both rows are the restart at the straps and the cause. -/
theorem powerOnAndResetPin : Obligations.PowerOnAndResetPin := fun _ _ => ⟨rfl, rfl⟩

/-! ## Clearing -/

theorem bankIndex_val (b : Fin 4) : bankIndex b.val = b := by
  match b with
  | 0 | 1 | 2 | 3 => rfl

theorem State.clearingBank_of_initialising {s : State} {b : Fin 4} (h : (s.bank b).state = .initialising) :
    s.clearingBank b.val = true := by
  simp [State.clearingBank, bankIndex_val, h]

theorem bankCleared_isCleared (s : State) (b : Fin 4) : BankIsCleared s (s.bankCleared b) b := by
  have bank (x : Fin 4) : (s.bankCleared b).bank x =
      if x = b then ⟨.inService, 1024, (s.bank b).corrected⟩ else s.bank x := s.bank_setBank b x _
  have erased {α : Type} (d : α) (m : List (Nat × α)) (slot : Nat) :
      cellRead d (cellErase (fun slot => decide (bankIndex slot = b)) m) slot =
        if bankIndex slot = b then d else cellRead d m slot := by
    rw [cellRead_erase]
    simp only [decide_eq_true_eq]
  have tag (slot : Nat) : (s.bankCleared b).tag slot = if bankIndex slot = b then Tag.cleared else s.tag slot :=
    erased Tag.cleared s.memory.tags slot
  have body (slot : Nat) :
      (s.bankCleared b).body slot = if bankIndex slot = b then StoredBody.cleared else s.body slot :=
    erased StoredBody.cleared s.memory.bodies slot
  refine ⟨by rw [bank, if_pos rfl], fun x other => by rw [bank, if_neg other], fun slot here => ?_, fun slot other => ?_,
    rfl, rfl, rfl, rfl, rfl, rfl, rfl, rfl, rfl⟩
  · rw [tag, body, if_pos here, if_pos here]
    exact ⟨rfl, rfl⟩
  · rw [tag, body, if_neg other, if_neg other]
    exact ⟨rfl, rfl⟩

theorem State.startUpDone_iff (s : State) :
    s.startUpDone = true ↔ s.dir.clearing = false ∧ ∀ x, (s.bank x).state ≠ .initialising := by
  have banks := Four.forall_get (f := s.memory.banks) fun k => k.state ≠ .initialising
  rw [show (∀ x, (s.bank x).state ≠ .initialising) ↔ _ from banks]
  simp [State.startUpDone, and_assoc]

theorem State.checkStartUp_of_notReady {s : State} (h : s.port.notReady = true) :
    s.checkStartUp = { s with port := { s.port with notReady := !s.startUpDone } } := by
  unfold State.checkStartUp
  split
  · next done => rw [done]; rfl
  · next left =>
    rw [Bool.eq_false_iff.2 left, Bool.not_false, ← h]

/-- NOT_READY stays while something is left to clear. -/
theorem State.not_startUpDone (s : State) :
    (!s.startUpDone) = (s.dir.clearing || decide (∃ x, (s.bank x).state = .initialising)) := by
  rw [Bool.eq_iff_iff, Bool.not_eq_true', Bool.eq_false_iff, Ne, s.startUpDone_iff]
  simp only [Bool.or_eq_true, decide_eq_true_eq, not_and_or, not_forall, Bool.not_eq_false, not_not]

/-- Settles O4: a clearing that completes clears its bank or the directory, and NOT_READY stays while something is left
to clear. -/
theorem clearingCompletes : Obligations.ClearingCompletes := by
  refine ⟨fun s b notReady clearing => ?_, fun s notReady clearing => ?_, fun s b ready clearing => ?_⟩
  · have cleared := bankCleared_isCleared s b
    have row : exec (.bankClearingComplete b.val) s = .next (s.bankCleared b).checkStartUp := by
      rw [exec, execBankClearingComplete, if_pos ⟨notReady, State.clearingBank_of_initialising clearing⟩, bankIndex_val]
    rw [State.checkStartUp_of_notReady (s := s.bankCleared b) notReady, State.not_startUpDone] at row
    refine ⟨_, row, cleared, rfl, ?_⟩
    have left : (∃ x, ((s.bankCleared b).bank x).state = .initialising) ↔
        ∃ x, x ≠ b ∧ (s.bank x).state = .initialising := by
      refine exists_congr fun x => ?_
      by_cases here : x = b
      · rw [here, cleared.1]
        exact ⟨nofun, fun h => absurd rfl h.1⟩
      · rw [cleared.2.1 x here]
        exact ⟨fun h => ⟨here, h⟩, fun h => h.2⟩
    simp only [left]
    rfl
  · rw [exec, execDirectoryClearingComplete, if_pos ⟨notReady, clearing⟩,
      State.checkStartUp_of_notReady (s := { s with dir := ⟨[], [], false⟩ }) notReady, State.not_startUpDone]
    rfl
  · refine ⟨{ s.bankCleared b with memory := { (s.bankCleared b).memory with bankFlag := true } }, ?_,
      bankCleared_isCleared s b, rfl, rfl⟩
    rw [exec, execReturnBankClearingComplete, if_pos ⟨ready, State.clearingBank_of_initialising clearing⟩, bankIndex_val]

end Sys2Proof.Machine
end

section
/-! PROOFS. The kit link's leaving ENABLED (R121), and the rows that bring it about beside the time input: INPUT_LOST,
LINK DISABLE and RESTART. -/

namespace Sys2Proof.Machine

set_option Elab.async false

/-! ## Who waits, and the next turn -/

/-- Who waits is read off NOT_READY, the arrival queue, the check-in's search, the held command, the banks and the visit
credits (R76). -/
theorem State.waits_congr {s s' : State} (notReady : s'.port.notReady = s.port.notReady)
    (queue : s'.link.queue.isEmpty = s.link.queue.isEmpty)
    (search : s'.engine.checkInSearch.isSome = s.engine.checkInSearch.isSome)
    (held : s'.engine.held.isSome = s.engine.held.isSome) (banks : s'.memory.banks = s.memory.banks)
    (credits : s'.sweep.credits = s.sweep.credits) : s'.waits = s.waits := by
  have moves : s'.movesWait = s.movesWait := by
    simp only [State.movesWait, State.evacuatingBank, State.liveIn, State.bank, banks]
    rfl
  funext r
  cases r with
  | checkIn => simp only [State.waits, notReady, queue, search]
  | command => simp only [State.waits, notReady, held]
  | evacuation => simp only [State.waits, notReady, moves]
  | sweep => simp only [State.waits, notReady, credits]

/-- The next turn is chosen by who waits and by the arbiter's counts (R78). -/
theorem State.arbiter_congr {s s' : State} (waits : s'.waits = s.waits) (engine : s'.engine = s.engine) :
    s'.arbiter = s.arbiter := by
  have aged : s'.aged = s.aged := by
    funext best r
    simp only [State.aged, waits, engine]
  simp only [State.arbiter, aged, waits, engine]

/-- A grant changes the counts by who waits (R77). -/
theorem State.grant_engine_congr {s s' : State} (waits : s'.waits = s.waits) (engine : s'.engine = s.engine)
    (r : Requester) : (s'.grant r).engine = (s.grant r).engine := by
  have consecutive : s'.consecutiveAfter r = s.consecutiveAfter r := by
    cases r with
    | checkIn =>
      simp only [State.consecutiveAfter, State.othersWait, waits, engine]
      rfl
    | command | evacuation | sweep => rfl
  simp only [State.grant, State.countAfter, consecutive, waits, engine]

theorem State.now_congr {s s' : State} (time : s'.time = s.time) : s'.now = s.now := by
  rw [State.now, time]
  rfl

/-! ## Leaving ENABLED -/

/-- The check-in turn that may be in progress as the link leaves ENABLED (R116). -/
theorem State.checkInBegun_eq_some {s : State} {a : Arrival} {rest : List Arrival} (queue : s.link.queue = a :: rest)
    (search : s.engine.checkInSearch = none) (granted : s.arbiter = some .checkIn) :
    s.checkInBegun =
      some ⟨a.markOverdue, s.now, (s.grant .checkIn).engine.waits, (s.grant .checkIn).engine.consecutive⟩ := by
  simp [State.checkInBegun, queue, search, granted]

theorem State.checkInBegun_eq_none {s : State}
    (h : s.link.queue = [] ∨ s.engine.checkInSearch ≠ none ∨ s.arbiter ≠ some .checkIn) : s.checkInBegun = none := by
  unfold State.checkInBegun
  split
  · next search queue =>
    refine if_neg fun granted => ?_
    rcases h with empty | searching | other
    · exact absurd (queue.symm.trans empty) (List.cons_ne_nil _ _)
    · exact searching search
    · exact other granted
  · rfl

theorem State.leaveEnabled_engine (s : State) (dest : LinkState) : (s.leaveEnabled dest).engine = { s.engine with
    waits := s.engine.waits.kept (s.leaveEnabled dest).waits
    begun := (s.checkInBegun.or s.engine.begun).map fun b =>
      { b with waits := b.waits.kept (s.leaveEnabled dest).waits } } := rfl

theorem State.leaveEnabled_link (s : State) (dest : LinkState) : (s.leaveEnabled dest).link = { s.link with
    state := dest, parser := .hunt, stamp := none, queue := []
    inService := s.link.inService.map Arrival.markOverdue, channels := [], tx := .idle } := rfl

/-- A part whose link leaves ENABLED in the middle of an event: what that leaves of the record engine, seen from the
event's start `s` and its end `s'`. The stamps of the arrival queue may have been watched before (`aged`). -/
theorem leavingLeaves {s u s' : State} {dest : LinkState} {aged : Arrival → Arrival}
    (marked : ∀ a, (aged a).markOverdue = a.markOverdue) (queue : u.link.queue = s.link.queue.map aged)
    (engine : u.engine = s.engine) (banks : u.memory.banks = s.memory.banks)
    (notReady : u.port.notReady = s.port.notReady) (time : u.time = s'.time) (sweep : u.sweep = s'.sweep)
    (left : s'.engine = (u.leaveEnabled dest).engine) (waits : s'.waits = (u.leaveEnabled dest).waits) :
    LeavingLeaves s s' := by
  have waiting : ({ s with time := s'.time, sweep := s'.sweep } : State).waits = u.waits :=
    (State.waits_congr (s' := u) (s := { s with time := s'.time, sweep := s'.sweep }) notReady (by simp [queue])
      (by rw [engine]) (by rw [engine]) banks (by rw [sweep])).symm
  have arbiter : ({ s with time := s'.time, sweep := s'.sweep } : State).arbiter = u.arbiter :=
    State.arbiter_congr waiting engine.symm
  have granted := State.grant_engine_congr waiting engine.symm .checkIn
  have now : ({ s with time := s'.time, sweep := s'.sweep } : State).now = u.now := State.now_congr time.symm
  rw [State.leaveEnabled_engine, ← waits, engine] at left
  refine ⟨by rw [left], fun r => by rw [left, WaitCounts.kept_get], fun a rest head search next => ?_, fun other => ?_⟩
  · have begun := State.checkInBegun_eq_some (s := u) (by rw [queue, head, List.map_cons]) (engine ▸ search)
      (arbiter ▸ next)
    rw [left, begun, granted, now, marked]
    rfl
  · have begun := State.checkInBegun_eq_none (s := u) (by
      rw [queue, engine, ← arbiter]
      exact other.imp_left fun empty => by rw [empty, List.map_nil])
    rw [left, begun]
    rfl

/-- An event that is the link's leaving ENABLED, with a change of time unit, sweep unit or port beside it. -/
theorem leaveEnabled_leavingLeaves (s : State) (dest : LinkState) : LeavingLeaves s (s.leaveEnabled dest) :=
  leavingLeaves (u := s) (dest := dest) (aged := id) (fun _ => rfl) (List.map_id _).symm rfl rfl rfl rfl rfl rfl rfl

/-! ## INPUT_LOST, LINK DISABLE and RESTART -/

/-- The bits of the pending sources, taken apart (R170). -/
theorem six_bits : ∀ a b c d e f : Bool,
    let v := BitVec.ofNat 6 (oneIf a + 2 * oneIf b + 4 * oneIf c + 8 * oneIf d + 16 * oneIf e + 32 * oneIf f)
    v.getLsbD 0 = a ∧ v.getLsbD 1 = b ∧ v.getLsbD 2 = c ∧ v.getLsbD 3 = d ∧ v.getLsbD 4 = e ∧ v.getLsbD 5 = f := by
  decide

theorem State.sources_bits (s : State) :
    s.sources.getLsbD 0 = s.port.responseReady ∧ s.sources.getLsbD 1 = decide (0 < s.engine.marked)
      ∧ s.sources.getLsbD 2 = s.integrity.report.isSome
      ∧ s.sources.getLsbD 3 = (decide (s.time.clock = .unset) || s.time.inputLost)
      ∧ s.sources.getLsbD 4 = decide (s.link.state = .faulted) ∧ s.sources.getLsbD 5 = s.memory.bankFlag :=
  six_bits _ _ _ _ _ _

/-- Settles O10: the flag is set, and an ENABLED link leaves ENABLED. -/
theorem inputLost : Obligations.InputLost := by
  intro s
  have flag (t : State) (lost : t.time.inputLost = true) : t.sources.getLsbD 3 = true := by
    rw [t.sources_bits.2.2.2.1, lost, Bool.or_true]
  let lost : State := { s with time := { s.time with inputLost := true } }
  by_cases enabled : s.link.state = .enabled
  · refine ⟨lost.leaveEnabled .faulted, by rw [exec, execInputLost, if_pos enabled], ?_, rfl, rfl,
      fun _ => ⟨rfl, ⟨rfl, rfl, rfl, rfl, rfl⟩, rfl, rfl⟩, fun other => absurd enabled other, flag _ rfl⟩
    refine ⟨rfl, rfl, rfl, rfl, rfl, rfl, rfl, rfl, fun _ => ?_, fun stays => absurd ⟨enabled, nofun⟩ stays⟩
    exact leavingLeaves (u := lost) (aged := id) (fun _ => rfl) (List.map_id _).symm rfl rfl rfl rfl rfl rfl rfl
  · refine ⟨lost, by rw [exec, execInputLost, if_neg enabled], ?_, rfl, rfl, fun other => absurd other enabled,
      fun _ => rfl, flag _ rfl⟩
    exact ⟨rfl, rfl, rfl, rfl, rfl, rfl, rfl, rfl, fun leaves => absurd leaves.1 enabled, fun _ => rfl⟩

theorem State.linkTo_of_enabled {s : State} (h : s.link.state = .enabled) (dest : LinkState) :
    s.linkTo dest = s.leaveEnabled dest := if_pos h

theorem State.linkTo_of_not_enabled {s : State} (h : s.link.state ≠ .enabled) (dest : LinkState) :
    s.linkTo dest = { s with link := { s.link with state := dest } } := if_neg h

/-- Settles O15: LINK ENABLE after its two refusals, LINK DISABLE by the link's state. -/
theorem linkEnableDisable : Obligations.LinkEnableDisable := by
  intro s free
  refine ⟨?_, ?_⟩
  · exact exec_hostCommand_of_free (c := .linkEnable) rfl free
  · have row := exec_hostCommand_of_free (i := .linkDisable) (c := .linkDisable) rfl free
    rw [takeCommand, portLinkDisable] at row
    by_cases enabled : s.link.state = .enabled
    · rw [State.linkTo_of_enabled (s := s.openWrite _) enabled] at row
      refine ⟨_, row, rfl, fun _ => ⟨⟨rfl, rfl, rfl, rfl, rfl⟩, rfl⟩, fun other => absurd enabled other, rfl, rfl,
        fun _ => ?_, fun other => absurd enabled other, rfl⟩
      exact leavingLeaves (u := s.openWrite HostCommand.linkDisable.message) (aged := id) (fun _ => rfl)
        (List.map_id _).symm rfl rfl rfl rfl rfl rfl rfl
    · rw [State.linkTo_of_not_enabled (s := s.openWrite _) enabled] at row
      exact ⟨_, row, rfl, fun other => absurd other enabled, fun _ => rfl, rfl, rfl, fun other => absurd other enabled,
        fun _ => rfl, rfl⟩

/-- What RESTART leaves of the part (R174), whatever stands in the port. -/
theorem portRestart_leaves (s : State) :
    (portRestart s).link.state = .disabled ∧ (portRestart s).link.inService = none
      ∧ (portRestart s).link.config = s.link.config ∧ (portRestart s).link.counters = s.link.counters
      ∧ (s.link.state = .enabled → (portRestart s).link.atRest)
      ∧ (portRestart s).engine = { s.engine with
          waits := ⟨0, 0, 0, 0⟩, consecutive := 0, held := none, commandSearch := none
          checkInSearch := none, fetchCursor := 0, begun := none }
      ∧ portRestart s = { s with
          engine := (portRestart s).engine
          link := (portRestart s).link
          sweep := { s.sweep with position := 0, credits := 0 }
          memory := { s.memory with banks := ⟨s.memory.banks.b0.restart, s.memory.banks.b1.restart,
            s.memory.banks.b2.restart, s.memory.banks.b3.restart⟩ }
          port := { s.port with
            rx := [], collision := false, overrun := false, responseReady := true
            resp := responseBytes 0x54 .ok [] } } := by
  unfold portRestart
  by_cases enabled : s.link.state = .enabled
  · rw [State.linkTo_of_enabled enabled]
    exact ⟨rfl, rfl, rfl, rfl, fun _ => ⟨rfl, rfl, rfl, rfl, rfl⟩, rfl, rfl⟩
  · rw [State.linkTo_of_not_enabled enabled]
    exact ⟨rfl, rfl, rfl, rfl, fun other => absurd other enabled, rfl, rfl⟩

/-- The row RESTART is the restart, whether the port is BUSY or not (R165, R166). -/
theorem exec_restart (s : State) : ∃ u, exec .restart s = .next (portRestart u)
    ∧ u = { s with port := u.port }
    ∧ u.port = { s.port with
        rx := u.port.rx, resp := u.port.resp, responseReady := u.port.responseReady, acks := acknowledged 3 } := by
  cases busy : s.busy with
  | false =>
    exact ⟨s.openWrite HostCommand.restart.message, exec_hostCommand_of_free (c := .restart) rfl busy, rfl, rfl⟩
  | true =>
    refine ⟨s.drives (acknowledged 3), ?_, rfl, rfl⟩
    rw [exec_hostCommand (c := .restart) rfl, State.send, if_pos busy, State.collidingWrite]
    exact congrArg _ (if_pos rfl)

/-- Settles O20, by what the restart leaves. -/
theorem restart : Obligations.Restart := by
  intro s
  obtain ⟨u, row, frame, port⟩ := exec_restart s
  obtain ⟨state, inService, config, counters, atRest, engine, rest⟩ := portRestart_leaves u
  have link : u.link = s.link := by rw [frame]
  have before : u.engine = s.engine := by rw [frame]
  have banks (b : Fin 4) : (portRestart u).bank b = (s.bank b).restart := by
    rw [State.bank, rest, frame]
    exact Four.get_map_restart _ b
  refine ⟨_, row, state, inService, link ▸ config, link ▸ counters, link ▸ atRest, before ▸ engine, by rw [rest, frame],
    banks, by rw [rest, frame], by rw [rest, frame], by rw [rest, frame], ?_, by rw [rest, frame], by rw [rest, frame],
    by rw [rest, frame], by rw [rest, frame], by rw [rest, frame], by rw [rest, frame]⟩
  rw [rest]
  dsimp only
  rw [port]
  rfl

end Sys2Proof.Machine
end

section
/-! PROOFS. The rows that are turns of the record engine: their surroundings, and the arbiter's counts at the grant and
at the end of a turn (R75 to R79). -/

namespace Sys2Proof.Machine

set_option Elab.async false

/-- Settles O29: each of the six rows is a whole turn or no event. -/
theorem turnsKeepSurroundings : Obligations.TurnsKeepSurroundings := by
  intro s i row
  have keeps {o : Host.Outcome State Fault Refusal} (h : TurnRow s o) : ∃ t, o = .next t ∧ KeepsSurroundings s t := by
    obtain ⟨t, next, frame, _⟩ := h
    exact ⟨t, next, frame.surroundings⟩
  rcases row with rfl | rfl | rfl | rfl | rfl | rfl
  · exact keeps (execCommandTurn_turnRow s)
  · exact keeps (execSearchStep_turnRow s)
  · exact keeps (execUsingTurn_turnRow s)
  · exact keeps (execCheckInTurn_turnRow s)
  · exact keeps (execSweepVisit_turnRow s)
  · exact keeps (execEvacuationMove_turnRow s)

/-! ## The counts at a grant and at the end of a turn -/

theorem grant_waits (s : State) (g r : Requester) : (s.grant g).engine.waits.get r = s.countAfter g r := by
  cases r <;> rfl

/-- At the end of a turn a requester that waits has the count its grant left, one that has stopped waiting 0 (R77). -/
theorem turn_counts {s : State} {g : Requester} {work : Turn → Turn}
    (keeps : TurnKeeps (s.grant g).dropBegun (work (Turn.start g (s.grant g).dropBegun)).s) :
    (∀ r, (s.turn g work).engine.waits.get r =
        if (s.turn g work).waits r then (s.grant g).engine.waits.get r else 0)
      ∧ (s.turn g work).engine.consecutive = (s.grant g).engine.consecutive
      ∧ (s.turn g work).engine.begun = none := by
  have whole := keeps.trans (Turn.write_keeps _)
  unfold State.turn
  generalize (work (Turn.start g (s.grant g).dropBegun)).write = t at whole ⊢
  have waiting : t.settle.waits = t.waits := State.waits_congr rfl rfl rfl rfl rfl rfl
  refine ⟨fun r => ?_, whole.consecutive, ?_⟩
  · rw [State.settle_engine, WaitCounts.kept_get, waiting, whole.waits]
    rfl
  · rw [State.settle_engine, whole.begun]
    rfl

theorem State.searchOf_eq (s : State) (g : Requester) : s.searchOf g =
    match g with
    | .checkIn => s.engine.checkInSearch
    | .command => s.engine.commandSearch
    | _ => none := by cases g <;> rfl

/-- A turn that the arbiter grants is the requester's turn with the work it then has. -/
theorem IsTurnOf.exec {s : State} {i : Instr} {g : Requester} (h : IsTurnOf s i g) :
    ∃ work, exec i s = .next (s.turn g work)
      ∧ TurnKeeps (s.grant g).dropBegun (work (Turn.start g (s.grant g).dropBegun)).s := by
  obtain ⟨granted, rows⟩ := h
  rcases rows with ⟨rfl, rfl, held, search⟩ | ⟨rfl, rfl, waiting, search⟩ | ⟨rfl, se, search, seeks⟩
    | ⟨rfl, se, slot, search, found⟩ | ⟨rfl, rfl⟩ | ⟨rfl, rfl⟩
  · obtain ⟨c, held⟩ := Option.ne_none_iff_exists'.1 held
    exact ⟨c.work, by simp [Machine.exec, execCommandTurn, held, show s.engine.commandSearch = none from search, granted],
      c.work_keeps (Turn.start .command _)⟩
  · obtain ⟨a, rest, queue⟩ := List.exists_cons_of_ne_nil waiting
    exact ⟨workCheckIn a rest,
      by simp [Machine.exec, execCheckInTurn, queue, show s.engine.checkInSearch = none from search, granted],
      workCheckIn_keeps a rest (Turn.start .checkIn _) (.inl queue)⟩
  · obtain ⟨kit, home, next, foundAt⟩ := se
    cases seeks
    exact ⟨workSearchStep g ⟨kit, home, next, none⟩,
      by simp [Machine.exec, execSearchStep, (s.searchOf_eq g).trans search, granted], workSearchStep_keeps _ _ (Turn.start g _)⟩
  · obtain ⟨kit, home, next, foundAt⟩ := se
    cases found
    exact ⟨workUsingTurn g kit slot, by simp [Machine.exec, execUsingTurn, (s.searchOf_eq g).trans search, granted],
      workUsingTurn_keeps _ _ _ (Turn.start g _)⟩
  · exact ⟨workSweepVisit, exec_sweepVisit granted, workSweepVisit_keeps (Turn.start .sweep _)⟩
  · exact ⟨workEvacuationMove, exec_evacuationMove granted, workEvacuationMove_keeps (Turn.start .evacuation _)⟩

/-- Settles O28: the counts of a grant, who waits, and the counts at the end of a turn. -/
theorem waitingCounts : Obligations.WaitingCounts := by
  refine ⟨fun s g r => ⟨?_, ?_, rfl⟩, fun s => ⟨?_, ?_, ?_, ?_⟩, fun s i g turn => ?_⟩
  · exact grant_waits s g r
  · cases g with
    | checkIn => simp [State.grant, State.consecutiveAfter, State.othersWait, or_assoc, Config.checkInRun]
    | command | evacuation | sweep => rfl
  · simp [State.waits, Option.isSome_iff_ne_none]
  · simp [State.waits, Option.isSome_iff_ne_none]
  · cases bank : s.evacuatingBank <;> simp [State.waits, State.movesWait, bank]
  · simp [State.waits]
  · obtain ⟨work, row, keeps⟩ := turn.exec
    exact ⟨_, row, turn_counts keeps⟩

/-! ## The station minute -/

/-- A running clock runs on, and its minute does not fall. -/
def ClockRuns (s s' : State) : Prop :=
  s.time.clock = .running → s'.time.clock = .running ∧ s.time.minute ≤ s'.time.minute

theorem ClockRuns.of_time_eq {s s' : State} (h : s'.time = s.time) : ClockRuns s s' :=
  fun running => by rw [h]; exact ⟨running, Nat.le_refl _⟩

theorem TimeUnit.tick_clock (t : TimeUnit) : t.tick.clock = t.clock := by
  unfold TimeUnit.tick
  split
  · rfl
  · split
    · rfl
    · split <;> rfl

theorem TimeUnit.tick_minute (t : TimeUnit) : t.minute ≤ t.tick.minute := by
  unfold TimeUnit.tick
  split
  · exact Nat.le_refl _
  · split
    · exact Nat.le_refl _
    · split
      · exact Nat.le_succ _
      · exact Nat.le_refl _

theorem State.countEdge_clockRuns (s : State) : ClockRuns s s.countEdge := by
  intro running
  rcases s.countEdge_cases with ⟨_, count⟩ | ⟨_, count⟩
  · rw [count]
    exact ⟨running, Nat.le_refl _⟩
  · rw [count]
    exact ⟨(TimeUnit.tick_clock _).trans running, TimeUnit.tick_minute { s.time with
      inputLost := false, timer := s.time.timer + 1, divider := 0 }⟩

theorem timeOut_time (s : State) : s.timeOut.time = s.time := by
  unfold State.timeOut
  split
  · rfl
  · split <;> rfl

theorem ChannelsMove.time {s s' : State} (h : ChannelsMove s s') : s'.time = s.time := by rw [h.frame]

/-- After the counting an edge leaves the time unit as it stands. -/
theorem State.edge_time (s : State) (timeoutFirst : Bool) : (s.edge timeoutFirst).time = s.countEdge.time := by
  unfold State.edge
  dsimp only
  have watched : s.countEdge.watchStamps.time = s.countEdge.time := rfl
  rw [(openAll_channelsMove _).time, ← watched]
  generalize s.countEdge.watchStamps = t
  cases timeoutFirst
  · exact (timeOut_time _).trans (collideAll_channelsMove t).time
  · exact (collideAll_channelsMove _).time.trans (timeOut_time t)

theorem runTo_clockRuns (s : State) (named : List Nat) (timeoutFirst : Bool) :
    ClockRuns s (s.runTo named timeoutFirst) := by
  unfold State.runTo
  split
  · exact .of_time_eq rfl
  · split
    · intro running
      rw [State.edge_time]
      exact State.countEdge_clockRuns _ running
    · exact .of_time_eq rfl

theorem linkTo_time (s : State) (dest : LinkState) : (s.linkTo dest).time = s.time := by
  unfold State.linkTo
  split <;> rfl

theorem portRestart_time (s : State) : (portRestart s).time = s.time := linkTo_time s .disabled

theorem answerTime_clockRuns {s : State} {t : TimeUnit} (code : Byte)
    (h : s.time.clock = .running → t.clock = .running ∧ s.time.minute ≤ t.minute) :
    ClockRuns s (s.answerTime code t) := h

theorem portSetTime_clockRuns (minute : BitVec 32) (s : State) : ClockRuns s (portSetTime minute s) := by
  unfold portSetTime
  split
  · exact .of_time_eq rfl
  · split
    · exact .of_time_eq rfl
    · next stopped => exact fun running => absurd running stopped

theorem portAdvanceTime_clockRuns (minutes : BitVec 16) (s : State) : ClockRuns s (portAdvanceTime minutes s) := by
  have advanced : ClockRuns s (s.answerTime 0x21 (s.time.advance minutes.toNat)) := by
    refine answerTime_clockRuns _ fun running => ?_
    unfold TimeUnit.advance
    split
    · exact ⟨running, Nat.le_refl _⟩
    · exact ⟨running, Nat.le_add_right _ _⟩
  unfold portAdvanceTime
  dsimp only
  split
  · exact .of_time_eq rfl
  split
  · exact .of_time_eq rfl
  split
  · exact .of_time_eq rfl
  · exact advanced

theorem portHoldTime_clockRuns (minutes : BitVec 16) (s : State) : ClockRuns s (portHoldTime minutes s) := by
  unfold portHoldTime
  split
  · exact .of_time_eq rfl
  split
  · exact .of_time_eq rfl
  · exact answerTime_clockRuns _ fun running => ⟨running, Nat.le_refl _⟩

/-- Only the three commands that set, advance and hold the time write the time unit. -/
theorem takeCommand_clockRuns (c : HostCommand) (s : State) : ClockRuns s (takeCommand c s) := by
  cases c with
  | setTime minute => exact portSetTime_clockRuns minute s
  | advanceTime minutes => exact portAdvanceTime_clockRuns minutes s
  | holdTime minutes => exact portHoldTime_clockRuns minutes s
  | restart => exact .of_time_eq (portRestart_time s)
  | linkDisable => exact .of_time_eq (linkTo_time s .disabled)
  | record c =>
    refine .of_time_eq ?_
    rw [takeCommand, takeRecordCommand]
    split
    · rfl
    · split <;> rfl
  | setClass block =>
    refine .of_time_eq ?_
    rw [takeCommand, portSetClass]
    split
    · rfl
    · split <;> rfl
  | readClass cls => exact .of_time_eq (by rw [takeCommand, portReadClass]; split <;> rfl)
  | setSweep rate => exact .of_time_eq (by rw [takeCommand, portSetSweep]; split <;> rfl)
  | setAttention mask => exact .of_time_eq (by rw [takeCommand, portSetAttention]; split <;> rfl)
  | setLink block =>
    refine .of_time_eq ?_
    rw [takeCommand, portSetLink]
    split
    · rfl
    · split <;> rfl
  | linkEnable =>
    refine .of_time_eq ?_
    rw [takeCommand, portLinkEnable]
    split
    · rfl
    · split <;> rfl
  | evacuateBank bank =>
    refine .of_time_eq ?_
    rw [takeCommand, portEvacuateBank]
    split
    · rfl
    split
    · rfl
    split
    · rfl
    split
    · rfl
    · rw [State.startEvacuation_eq, (State.checkEvacuation_frame _).1]
      rfl
  | cancelEvacuation =>
    refine .of_time_eq ?_
    rw [takeCommand, portCancelEvacuation]
    split
    · rfl
    · split <;> rfl
  | returnBank bank =>
    refine .of_time_eq ?_
    rw [takeCommand, portReturnBank]
    dsimp only
    split
    · rfl
    split
    · rfl
    · split <;> rfl
  | injectRecord slot mode =>
    refine .of_time_eq ?_
    rw [takeCommand, portInjectRecord]
    split
    · rfl
    · split <;> rfl
  | injectBucket slot mode =>
    refine .of_time_eq ?_
    rw [takeCommand, portInjectBucket]
    split
    · rfl
    · split <;> rfl
  | readTime | readSweep | readLink | readLinkCounters | readErrorReport | clearErrorReport | identify | readStatus
  | clearCounters => exact .of_time_eq rfl

theorem collidingWrite_clockRuns (s : State) (bytes : List Byte) : ClockRuns s (s.collidingWrite bytes) := by
  refine .of_time_eq ?_
  unfold State.collidingWrite
  dsimp only
  split
  · exact portRestart_time _
  · rfl

theorem judgeWrite_clockRuns (s : State) (bytes : List Byte) : ClockRuns s (s.judgeWrite bytes) := by
  have taken (t : State) (time : t.time = s.time) (code : Byte) (params : List Byte) :
      ClockRuns s (t.takeMessage code params) := by
    unfold State.takeMessage
    split
    · exact .of_time_eq time
    · exact .of_time_eq time
    · next c _ =>
      intro running
      have := takeCommand_clockRuns c t
      rw [ClockRuns, time] at this
      exact this running
  unfold State.judgeWrite
  dsimp only
  split
  · exact .of_time_eq rfl
  · exact .of_time_eq rfl
  · refine taken _ ?_ _ _
    split <;> rfl

theorem writeTransaction_clockRuns (s : State) (address : BitVec 7) (bytes : List Byte) :
    ClockRuns s (s.writeTransaction address bytes) := by
  unfold State.writeTransaction
  split
  · exact .of_time_eq rfl
  split
  · exact .of_time_eq rfl
  split
  · exact collidingWrite_clockRuns s bytes
  · exact judgeWrite_clockRuns s bytes

theorem send_clockRuns (s : State) (c : HostCommand) : ClockRuns s (s.send c) := by
  unfold State.send
  split
  · exact collidingWrite_clockRuns s _
  · exact takeCommand_clockRuns c (s.openWrite c.message)

theorem transmitDone_time (s : State) : s.transmitDone.time = s.time := by
  unfold State.transmitDone
  split
  · rfl
  · exact (offer_channelsMove _).time

/-- A row that runs the clock on. -/
def RowRunsClock (s : State) (o : Host.Outcome State Fault Refusal) : Prop := ∀ s', o = .next s' → ClockRuns s s'

theorem RowRunsClock.next {s s' : State} (h : ClockRuns s s') : RowRunsClock s (.next s') := by
  intro t same
  cases same
  exact h

theorem TurnRow.runsClock {s : State} {o : Host.Outcome State Fault Refusal} (h : TurnRow s o) : RowRunsClock s o := by
  obtain ⟨s', rfl, frame, _⟩ := h
  exact .next (.of_time_eq frame.surroundings.1)

theorem checkStartUp_time (s : State) : s.checkStartUp.time = s.time := by
  unfold State.checkStartUp
  split <;> rfl

/-- Every row but the two resets runs a running clock on. -/
theorem exec_runsClock (i : Instr) (s : State) (notPowerOn : ∀ straps, i ≠ .powerOn straps)
    (notResetPin : ∀ straps, i ≠ .resetPin straps) : RowRunsClock s (exec i s) := by
  cases hc : hostCommandOf i with
  | some c =>
    rw [exec_hostCommand hc]
    exact .next (send_clockRuns s c)
  | none =>
    cases i with
    | powerOn straps => exact absurd rfl (notPowerOn straps)
    | resetPin straps => exact absurd rfl (notResetPin straps)
    | bankClearingComplete bank =>
      exact .next (.of_time_eq (by split; exacts [checkStartUp_time _, rfl]))
    | directoryClearingComplete =>
      exact .next (.of_time_eq (by split; exacts [checkStartUp_time _, rfl]))
    | returnBankClearingComplete bank => exact .next (.of_time_eq (by split <;> rfl))
    | timeInputEdge =>
      refine RowRunsClock.next fun running => ?_
      rw [State.edge_time]
      exact State.countEdge_clockRuns s running
    | rawMinuteTick => exact RowRunsClock.next (runTo_clockRuns s s.edgesToTick false)
    | stampOverdue => exact RowRunsClock.next (runTo_clockRuns s s.edgesToOverdue false)
    | earliestStart => exact RowRunsClock.next (runTo_clockRuns s s.edgesToEarliest false)
    | latestStartPassed => exact RowRunsClock.next (runTo_clockRuns s s.edgesPastLatest false)
    | transmitTimeout => exact RowRunsClock.next (runTo_clockRuns s s.edgesToTimeout true)
    | inputLost => exact .next fun running => by split <;> exact ⟨running, Nat.le_refl _⟩
    | kitPacket chars =>
      exact .next (.of_time_eq (by split; exacts [by rw [(foldl_receive_receives chars s).frame], rfl]))
    | kitCharacterError =>
      exact .next (.of_time_eq (by split; exacts [by rw [(charError_receives s).frame], rfl]))
    | frameEndStrobe => exact .next (.of_time_eq (by split; exacts [by rw [(frameEnd_receives s).frame], rfl]))
    | transmitDoneStrobe => exact .next (.of_time_eq (by split; exacts [transmitDone_time s, rfl]))
    | messageWrite address bytes => exact .next (writeTransaction_clockRuns s address bytes)
    | collidingWrite address bytes => exact .next (writeTransaction_clockRuns s address bytes)
    | statusRead address count =>
      refine .next (.of_time_eq ?_)
      split
      · rfl
      · split <;> rfl
    | commandTurn => exact (execCommandTurn_turnRow s).runsClock
    | searchStep => exact (execSearchStep_turnRow s).runsClock
    | usingTurn => exact (execUsingTurn_turnRow s).runsClock
    | checkInTurn => exact (execCheckInTurn_turnRow s).runsClock
    | sweepVisit => exact (execSweepVisit_turnRow s).runsClock
    | evacuationMove => exact (execEvacuationMove_turnRow s).runsClock
    | _ => cases hc

/-- Settles O12: every row but the resets runs the clock on, and every step keeps the minute in its range. -/
theorem minuteNeverDecreases : Obligations.MinuteNeverDecreases := by
  intro s s' range running next noReset
  have clock : ClockRuns s s' := by
    unfold step at next
    split at next
    · cases next
      exact .of_time_eq rfl
    · next i rest queue =>
      exact exec_runsClock i { s with pending := rest } (fun straps h => (noReset straps rest).1 (h ▸ queue))
        (fun straps h => (noReset straps rest).2 (h ▸ queue)) s' next
  exact ⟨(clock running).1, (clock running).2, ((step_keeps next).time range).2.1⟩

end Sys2Proof.Machine
end

section
/-! PROOFS. The reply channels at a value of the link timer: the READY channel the transmitter takes (R131), the
channels given up past their latest start (R130) and those opened at their earliest (R129). -/

namespace Sys2Proof.Machine

set_option Elab.async false

/-! ## The channel the transmitter takes -/

/-- Of the channels below `k`, the best so far: none is READY, or a READY one with the smallest remaining count, the
lowest number where two share it. -/
def BestBelow (s : State) (k : Nat) : Option (Nat × Nat) → Prop
  | none => ∀ n ch, n < k → s.channel n = some ch → ch.phase ≠ .ready
  | some (b, left) => b < k ∧ ∃ ch, s.channel b = some ch ∧ ch.phase = .ready ∧ left = remaining ch.latest s.time.timer
      ∧ ∀ m c, m < k → s.channel m = some c → c.phase = .ready →
        left < remaining c.latest s.time.timer ∨ left = remaining c.latest s.time.timer ∧ b ≤ m

theorem betterReady_best {s : State} {k : Nat} {best : Option (Nat × Nat)} (h : BestBelow s k best) :
    BestBelow s (k + 1) (s.betterReady best k) := by
  have keep (notReady : ∀ ch, s.channel k = some ch → ch.phase ≠ .ready) : BestBelow s (k + 1) best := by
    cases best with
    | none =>
      intro n ch hn used
      rcases Nat.lt_succ_iff_lt_or_eq.1 hn with below | rfl
      · exact h n ch below used
      · exact notReady ch used
    | some best =>
      obtain ⟨b, left⟩ := best
      obtain ⟨hb, ch, used, ready, hl, least⟩ := h
      refine ⟨Nat.lt_succ_of_lt hb, ch, used, ready, hl, fun m c hm used' ready' => ?_⟩
      rcases Nat.lt_succ_iff_lt_or_eq.1 hm with below | rfl
      · exact least m c below used' ready'
      · exact absurd ready' (notReady c used')
  unfold State.betterReady
  split
  · next free => exact keep fun ch used => absurd (free.symm.trans used) nofun
  · next ch used =>
    split
    · next ready =>
      dsimp only
      split
      · refine ⟨Nat.lt_succ_self k, ch, used, ready, rfl, fun m c hm used' ready' => ?_⟩
        rcases Nat.lt_succ_iff_lt_or_eq.1 hm with below | rfl
        · exact absurd ready' (h m c below used')
        · rw [Option.some.inj (used.symm.trans used')]
          exact .inr ⟨rfl, Nat.le_refl _⟩
      · next b left =>
        obtain ⟨hb, chb, usedb, readyb, hl, least⟩ := h
        split
        · next less =>
          refine ⟨Nat.lt_succ_self k, ch, used, ready, rfl, fun m c hm used' ready' => ?_⟩
          rcases Nat.lt_succ_iff_lt_or_eq.1 hm with below | rfl
          · have := least m c below used' ready'
            omega
          · rw [Option.some.inj (used.symm.trans used')]
            exact .inr ⟨rfl, Nat.le_refl _⟩
        · next notLess =>
          refine ⟨Nat.lt_succ_of_lt hb, chb, usedb, readyb, hl, fun m c hm used' ready' => ?_⟩
          rcases Nat.lt_succ_iff_lt_or_eq.1 hm with below | rfl
          · exact least m c below used' ready'
          · rw [← Option.some.inj (used.symm.trans used')]
            omega
    · next other =>
      exact keep fun c used' => Option.some.inj (used.symm.trans used') ▸ other

theorem foldl_betterReady_best (s : State) (k : Nat) : BestBelow s k ((List.range k).foldl s.betterReady none) := by
  induction k with
  | zero => exact fun n ch hn => absurd hn (Nat.not_lt_zero n)
  | succ k ih =>
    rw [List.range_succ, List.foldl_append]
    exact betterReady_best ih

theorem State.chosenChannel_eq (s : State) :
    s.chosenChannel = ((List.range 8).foldl s.betterReady none).map (·.1) := rfl

/-- No channel is taken when none is READY. -/
theorem State.chosenChannel_eq_none_iff {s : State} :
    s.chosenChannel = none ↔ ∀ n ch, n < 8 → s.channel n = some ch → ch.phase ≠ .ready := by
  have best := foldl_betterReady_best s 8
  rw [State.chosenChannel_eq]
  cases found : (List.range 8).foldl s.betterReady none with
  | none => exact ⟨fun _ => by rw [found] at best; exact best, fun _ => rfl⟩
  | some found' =>
    rw [found] at best
    obtain ⟨hb, ch, used, ready, _⟩ := best
    exact ⟨nofun, fun h => absurd ready (h _ ch hb used)⟩

theorem State.chosen_of_chosenChannel {s : State} {n : Nat} (h : s.chosenChannel = some n) :
    Chosen s.channel s.time.timer n := by
  have best := foldl_betterReady_best s 8
  rw [State.chosenChannel_eq] at h
  obtain ⟨⟨b, left⟩, found, rfl⟩ := Option.map_eq_some_iff.1 h
  rw [found] at best
  obtain ⟨hb, ch, used, ready, rfl, least⟩ := best
  exact ⟨hb, ch, used, ready, least⟩

/-- Two channels cannot both be the one taken. -/
theorem Chosen.unique {channel : Nat → Option Channel} {timer : Stamp} {n m : Nat} (h : Chosen channel timer n)
    (k : Chosen channel timer m) : n = m := by
  obtain ⟨hn, cn, usedn, readyn, leastn⟩ := h
  obtain ⟨hm, cm, usedm, readym, leastm⟩ := k
  have nm := leastn m cm hm usedm readym
  have mn := leastm n cn hn usedn readyn
  omega

/-! ## The offer -/

theorem State.channel_putChannel {s : State} (wf : cellsWf none s.link.channels) (c : Nat) (v : Option Channel)
    (n : Nat) : (s.putChannel c v).channel n = if n = c then v else s.channel n := by
  split
  · next same => exact same ▸ cellRead_write_same wf c v
  · next other => exact cellRead_write_other wf v other

/-- An IDLE transmitter that is offered the channels sends the chosen one (R131, R132). -/
theorem offer_sends {s : State} (wf : cellsWf none s.link.channels) (idle : s.link.tx = .idle) :
    Sends s.channel s.time.timer s.offer := by
  unfold State.offer
  rw [idle]
  dsimp only
  cases taken : s.chosenChannel with
  | none =>
    have none' := State.chosenChannel_eq_none_iff.1 taken
    exact ⟨fun n ch ⟨hn, c, used, ready, _⟩ _ => absurd ready (none' n c hn used), fun _ => ⟨idle, fun m _ => rfl⟩⟩
  | some c =>
    have chosen := State.chosen_of_chosenChannel taken
    refine ⟨fun n ch chosen' used => ?_, fun noneReady => ?_⟩
    · obtain rfl := chosen'.unique chosen
      have channel (m : Nat) : (s.startSend n).channel m = if m = n then some { ch with phase := .sending }
          else s.channel m := by
        refine (State.channel_putChannel wf n ((s.channel n).map fun ch => { ch with phase := .sending }) m).trans ?_
        rw [used]
        rfl
      exact ⟨rfl, by rw [channel, if_pos rfl], fun m _ other => by rw [channel, if_neg other]⟩
    · obtain ⟨hc, ch, used, ready, _⟩ := chosen
      exact absurd ready (noneReady c ch hc used)

theorem offer_of_sending {s : State} (busy : s.link.tx ≠ .idle) : s.offer = s := by
  unfold State.offer
  split
  · rfl
  · next idle => exact absurd idle busy

/-- What is sent is read off the eight channels. -/
theorem Sends.congr {f g : Nat → Option Channel} {timer : Stamp} {t : State} (same : ∀ n, n < 8 → f n = g n)
    (h : Sends f timer t) : Sends g timer t := by
  obtain ⟨sends, idles⟩ := h
  refine ⟨fun n ch chosen used => ?_, fun noneReady => ?_⟩
  · obtain ⟨hn, c, usedc, ready, least⟩ := chosen
    obtain ⟨tx, sent, others⟩ := sends n ch
      ⟨hn, c, (same n hn).trans usedc, ready, fun m k hm usedm => least m k hm ((same m hm).symm.trans usedm)⟩
      ((same n hn).trans used)
    exact ⟨tx, sent, fun m hm other => (others m hm other).trans (same m hm)⟩
  · obtain ⟨tx, others⟩ := idles fun n ch hn used => noneReady n ch hn ((same n hn).symm.trans used)
    exact ⟨tx, fun m hm => (others m hm).trans (same m hm)⟩

/-! ## The channels at a count of the link timer -/

/-- A READY channel is given up at the count after its latest start (R130). -/
def collided (timer : Stamp) (c : Option Channel) : Option Channel :=
  match c with
  | none => none
  | some ch => if ch.phase = .ready ∧ ch.latest + 1 = timer then none else some ch

/-- A SCHEDULED channel becomes READY at its earliest start (R129). -/
def opened (timer : Stamp) (c : Option Channel) : Option Channel :=
  match c with
  | none => none
  | some ch => if ch.phase = .scheduled ∧ ch.earliest = timer then some { ch with phase := .ready } else some ch

theorem State.channelsAt_eq (s : State) (timer : Stamp) (n : Nat) :
    s.channelsAt timer n = opened timer (collided timer (s.channel n)) := by
  unfold State.channelsAt collided
  cases s.channel n with
  | none => rfl
  | some ch =>
    dsimp only
    split
    · rfl
    · rfl

/-- The channel is READY at the count after its latest start. -/
def passed (timer : Stamp) (c : Option Channel) : Bool :=
  c.any fun k => decide (k.phase = .ready) && decide (k.latest + 1 = timer)

theorem collide_eq (s : State) (c : Nat) : s.collide c =
    if passed s.time.timer (s.channel c) then
      (s.putChannel c none).count fun n => { n with collided := bump n.collided }
    else s := by
  unfold State.collide
  cases s.channel c with
  | none => rfl
  | some ch => simp [passed]

theorem collided_eq (timer : Stamp) (c : Option Channel) :
    collided timer c = if passed timer c then none else c := by
  cases c with
  | none => rfl
  | some ch => simp [passed, collided]

theorem collide_channel {s : State} (wf : cellsWf none s.link.channels) (c n : Nat) :
    (s.collide c).channel n = if n = c then collided s.time.timer (s.channel n) else s.channel n := by
  rw [collide_eq, collided_eq]
  split
  · next gone =>
    refine (State.channel_putChannel wf c none n).trans ?_
    split
    · next same => rw [same, if_pos gone]
    · rfl
  · next stays =>
    split
    · next same => rw [same, if_neg stays]
    · rfl

theorem collide_counters (s : State) (c : Nat) : (s.collide c).link.counters = { s.link.counters with
    collided :=
      if passed s.time.timer (s.channel c) then bump s.link.counters.collided else s.link.counters.collided } := by
  rw [collide_eq]
  split <;> rfl

theorem collide_tx (s : State) (c : Nat) : (s.collide c).link.tx = s.link.tx := by
  rw [collide_eq]
  split <;> rfl

/-- Of the channels below `k`, those READY at the count after their latest start. -/
def passedBelow (s : State) (timer : Stamp) (k : Nat) : Nat :=
  ((List.range k).filter fun n => passed timer (s.channel n)).length

theorem passedBelow_succ (s : State) (timer : Stamp) (k : Nat) : passedBelow s timer (k + 1) =
    passedBelow s timer k + if passed timer (s.channel k) then 1 else 0 := by
  unfold passedBelow
  rw [List.range_succ, List.filter_append, List.length_append]
  cases gone : passed timer (s.channel k) <;> simp [gone]

/-- The collided counter after `n` channels were given up. -/
def collidedAfter (count n : Nat) : Nat := if n = 0 then count else min (count + n) 65535

theorem bump_collidedAfter (count n : Nat) : bump (collidedAfter count n) = collidedAfter count (n + 1) := by
  unfold bump collidedAfter
  have : Config.maxCount = 65535 := rfl
  split <;> simp <;> omega

/-- The channels below `k` have been looked at: those past their latest start are given up and counted (R130). -/
theorem foldl_collide {s : State} (wf : cellsWf none s.link.channels) (k : Nat) :
    let t := (List.range k).foldl State.collide s
    (∀ n, t.channel n = if n < k then collided s.time.timer (s.channel n) else s.channel n)
      ∧ t.link.counters = { s.link.counters with
          collided := collidedAfter s.link.counters.collided (passedBelow s s.time.timer k) }
      ∧ t.link.tx = s.link.tx := by
  induction k with
  | zero => exact ⟨fun n => rfl, rfl, rfl⟩
  | succ k ih =>
    have moves := foldl_channelsMove collide_channelsMove (List.range k) s
    rw [List.range_succ, List.foldl_append]
    dsimp only at ih ⊢
    generalize (List.range k).foldl State.collide s = t at ih moves ⊢
    obtain ⟨channel, counters, tx⟩ := ih
    have here : t.channel k = s.channel k := by rw [channel, if_neg (Nat.lt_irrefl k)]
    refine ⟨fun n => ?_, ?_, ?_⟩
    · rw [List.foldl_cons, List.foldl_nil, collide_channel (moves.wf wf), moves.time]
      split
      · next same => rw [same, here, if_pos (Nat.lt_succ_self k)]
      · next other =>
        rw [channel]
        exact if_congr (by omega) rfl rfl
    · rw [List.foldl_cons, List.foldl_nil, collide_counters, moves.time, here, counters, passedBelow_succ]
      cases passed s.time.timer (s.channel k)
      · rfl
      · simp [bump_collidedAfter]
    · rw [List.foldl_cons, List.foldl_nil, collide_tx, tx]

theorem openChannel_channel {s : State} (wf : cellsWf none s.link.channels) (c n : Nat) :
    (s.openChannel c).channel n = if n = c then opened s.time.timer (s.channel n) else s.channel n := by
  unfold State.openChannel
  split
  · next free =>
    split
    · next same => rw [same, free]; rfl
    · rfl
  · next ch used =>
    split
    · next opens =>
      rw [State.channel_putChannel wf]
      split
      · next same => rw [same, used, opened, if_pos opens]
      · rfl
    · next stays =>
      split
      · next same => rw [same, used, opened, if_neg stays]
      · rfl

theorem openChannel_tx (s : State) (c : Nat) :
    (s.openChannel c).link.tx = s.link.tx ∧ (s.openChannel c).link.counters = s.link.counters := by
  unfold State.openChannel
  split
  · exact ⟨rfl, rfl⟩
  · split <;> exact ⟨rfl, rfl⟩

theorem foldl_openChannel {s : State} (wf : cellsWf none s.link.channels) (k : Nat) :
    ∀ n, ((List.range k).foldl State.openChannel s).channel n =
      if n < k then opened s.time.timer (s.channel n) else s.channel n := by
  induction k with
  | zero => exact fun n => rfl
  | succ k ih =>
    have moves := foldl_channelsMove openChannel_channelsMove (List.range k) s
    intro n
    rw [List.range_succ, List.foldl_append, List.foldl_cons, List.foldl_nil, openChannel_channel (moves.wf wf),
      moves.time]
    split
    · next same => rw [same, ih, if_neg (Nat.lt_irrefl k), if_pos (Nat.lt_succ_self k)]
    · next other =>
      rw [ih]
      exact if_congr (by omega) rfl rfl

theorem foldl_openChannel_tx (l : List Nat) (s : State) :
    (l.foldl State.openChannel s).link.tx = s.link.tx
      ∧ (l.foldl State.openChannel s).link.counters = s.link.counters := by
  induction l generalizing s with
  | nil => exact ⟨rfl, rfl⟩
  | cons c l ih =>
    obtain ⟨tx, counters⟩ := ih (s.openChannel c)
    exact ⟨tx.trans (openChannel_tx s c).1, counters.trans (openChannel_tx s c).2⟩

/-! ## All channels -/

/-- The eight channels at their latest start (R130). -/
theorem collideAll_channels {s : State} (wf : cellsWf none s.link.channels) :
    (∀ n, n < 8 → s.collideAll.channel n = collided s.time.timer (s.channel n))
      ∧ s.collideAll.link.counters = { s.link.counters with collided := s.collidedAt s.time.timer }
      ∧ s.collideAll.link.tx = s.link.tx := by
  obtain ⟨channel, counters, tx⟩ := foldl_collide wf 8
  exact ⟨fun n hn => (channel n).trans (if_pos hn), counters, tx⟩

theorem offer_counters (s : State) : s.offer.link.counters = s.link.counters := by
  unfold State.offer
  split
  · rfl
  · split <;> rfl

/-- The eight channels at their earliest start, then offered to the transmitter (R129, R131). -/
theorem openAll_channels {s : State} (wf : cellsWf none s.link.channels) :
    (s.link.tx = .idle → Sends (fun n => opened s.time.timer (s.channel n)) s.time.timer s.openAll)
      ∧ (s.link.tx ≠ .idle → s.openAll.link.tx = s.link.tx
          ∧ ∀ n, n < 8 → s.openAll.channel n = opened s.time.timer (s.channel n))
      ∧ s.openAll.link.counters = s.link.counters := by
  have channel := foldl_openChannel wf 8
  have moves := foldl_channelsMove openChannel_channelsMove (List.range 8) s
  obtain ⟨tx, counters⟩ := foldl_openChannel_tx (List.range 8) s
  rw [show s.openAll = ((List.range 8).foldl State.openChannel s).offer from rfl]
  generalize (List.range 8).foldl State.openChannel s = t at channel moves tx counters ⊢
  refine ⟨fun idle => ?_, fun busy => ?_, (offer_counters t).trans counters⟩
  · have sends := offer_sends (moves.wf wf) (tx.trans idle)
    rw [moves.time] at sends
    exact sends.congr fun n hn => (channel n).trans (if_pos hn)
  · rw [offer_of_sending (tx ▸ busy)]
    exact ⟨tx, fun n hn => (channel n).trans (if_pos hn)⟩

end Sys2Proof.Machine
end

section
/-! PROOFS. An edge of the time input and everything it brings about (R20, R28, R31, R126, R129, R130, R134). -/

namespace Sys2Proof.Machine

set_option Elab.async false

/-! ## The counting -/

/-- The counting of an edge changes the time unit and the sweep unit only; the timer counts, and the input is present. -/
theorem State.countEdge_frame (s : State) :
    s.countEdge = { s with time := s.countEdge.time, sweep := s.countEdge.sweep }
      ∧ s.countEdge.time.timer = s.time.timer + 1 ∧ s.countEdge.time.inputLost = false
      ∧ s.countEdge.time.clock = s.time.clock := by
  have ticked (t : TimeUnit) : t.tick.timer = t.timer ∧ t.tick.inputLost = t.inputLost := by
    unfold TimeUnit.tick
    split
    · exact ⟨rfl, rfl⟩
    · split
      · exact ⟨rfl, rfl⟩
      · split <;> exact ⟨rfl, rfl⟩
  rcases s.countEdge_cases with ⟨_, count⟩ | ⟨_, count⟩
  · rw [count]
    exact ⟨rfl, rfl, rfl, rfl⟩
  · rw [count]
    exact ⟨rfl, (ticked _).1, (ticked _).2, TimeUnit.tick_clock _⟩

/-- Below the divider's wrap an edge counts, and no minute ticks. -/
theorem State.countEdge_below {s : State} (h : s.time.divider + 1 < Config.minuteEdges) :
    s.countEdge = { s with time := { s.time with
      inputLost := false, timer := s.time.timer + 1, divider := s.time.divider + 1 } } := by
  rcases s.countEdge_cases with ⟨_, count⟩ | ⟨wraps, _⟩
  · exact count
  · exact absurd wraps (Nat.not_le.2 h)

/-- The divider's wrap is a raw minute tick (R20, R21). -/
theorem State.countEdge_wrap {s : State} (h : s.time.divider + 1 = Config.minuteEdges) :
    s.countEdge.time.divider = 0 ∧ TickEffect s s.countEdge := by
  rcases s.countEdge_cases with ⟨below, _⟩ | ⟨_, count⟩
  · exact absurd below (by rw [h]; exact Nat.lt_irrefl _)
  · rw [count]
    dsimp only [TickEffect, TimeUnit.tick, SweepUnit.tick]
    cases s.time.clock with
    | unset => simp
    | running =>
      by_cases held : 0 < s.time.hold
      · simp [held, Nat.ne_of_gt held]
      · by_cases below : s.time.minute < Config.maxMinute <;> simp [below, Nat.eq_zero_of_not_pos held]

/-! ## The transmit timeout -/

/-- The effect of a transmit timeout on a link (R134): it is counted, and the link is FAULTED. -/
def State.timedOut (s : State) : State :=
  (s.count fun c => { c with transmitTimeout := bump c.transmitTimeout }).leaveEnabled .faulted

theorem State.timedOut_link (s : State) : s.timedOut.link =
    ⟨s.link.config, .faulted, .hunt, none, [], s.link.inService.map Arrival.markOverdue, [], .idle,
      { s.link.counters with transmitTimeout := bump s.link.counters.transmitTimeout }⟩ := rfl

theorem State.timeOut_of_timesOut {s : State} (h : s.timesOutAt s.time.timer) : s.timeOut = s.timedOut := by
  obtain ⟨c, keyOn, sending, at'⟩ := h
  unfold State.timeOut
  rw [sending]
  exact if_pos at'.symm

theorem State.timeOut_of_not_timesOut {s : State} (h : ¬s.timesOutAt s.time.timer) : s.timeOut = s := by
  unfold State.timeOut
  split
  · rfl
  · next c keyOn sending => exact if_neg fun at' => h ⟨c, keyOn, sending, at'.symm⟩

theorem collideAll_tx (s : State) : s.collideAll.link.tx = s.link.tx := by
  unfold State.collideAll
  generalize [0, 1, 2, 3, 4, 5, 6, 7] = l
  induction l generalizing s with
  | nil => rfl
  | cons c l ih => exact (ih _).trans (collide_tx s c)

theorem collideAll_of_nil {s : State} (h : s.link.channels = []) : s.collideAll = s := by
  have none (c : Nat) : s.collide c = s := by
    unfold State.collide
    rw [State.channel, h]
    rfl
  simp only [State.collideAll, List.foldl_cons, List.foldl_nil, none]

theorem openAll_of_nil {s : State} (h : s.link.channels = []) (idle : s.link.tx = .idle) : s.openAll = s := by
  have none (c : Nat) : s.openChannel c = s := by
    unfold State.openChannel
    rw [State.channel, h]
    rfl
  simp only [State.openAll, List.foldl_cons, List.foldl_nil, none, State.offer, idle, State.chosenChannel_of_nil h]

/-! ## The course of an edge -/

/-- The part after the counting and the watch on the stamps. -/
def State.watched (s : State) : State := s.countEdge.watchStamps

theorem State.watched_frame (s : State) : s.watched = { s with
    time := s.countEdge.time
    sweep := s.countEdge.sweep
    link := { s.link with
      queue := s.link.queue.map (Arrival.age (s.time.timer + 1))
      inService := s.link.inService.map (Arrival.age (s.time.timer + 1)) } } := by
  obtain ⟨frame, timer, _⟩ := s.countEdge_frame
  rw [State.watched, State.watchStamps, timer, frame]

theorem State.edge_eq (s : State) (timeoutFirst : Bool) : s.edge timeoutFirst =
    (if timeoutFirst then s.watched.timeOut.collideAll else s.watched.collideAll.timeOut).openAll := rfl

/-- Counting and watch leave transmitter and configuration: the transmit timeout falls at the timer's new value. -/
theorem State.watched_timesOut (s : State) : s.watched.timesOutAt s.watched.time.timer ↔ s.timesOutAt (s.time.timer + 1) := by
  rw [show s.watched.time.timer = s.time.timer + 1 from s.countEdge_frame.2.1, s.watched_frame]

theorem State.collideAll_timesOut (s : State) :
    s.collideAll.timesOutAt s.collideAll.time.timer ↔ s.timesOutAt s.time.timer := by
  have frame := (collideAll_channelsMove s).frame
  have config : s.collideAll.link.config = s.link.config := by rw [frame]
  rw [(collideAll_channelsMove s).time, State.timesOutAt, collideAll_tx, config]

/-- An edge at which no transmit timeout falls. -/
theorem edge_of_not_timesOut {s : State} (h : ¬s.timesOutAt (s.time.timer + 1)) (timeoutFirst : Bool) :
    s.edge timeoutFirst = s.watched.collideAll.openAll := by
  rw [State.edge_eq]
  cases timeoutFirst
  · rw [if_neg nofun, State.timeOut_of_not_timesOut (by rw [State.collideAll_timesOut, State.watched_timesOut]; exact h)]
  · rw [if_pos rfl, State.timeOut_of_not_timesOut (by rw [State.watched_timesOut]; exact h)]

/-- An edge at which a transmit timeout falls, the latest starts passed taken first. -/
theorem edge_false_of_timesOut {s : State} (h : s.timesOutAt (s.time.timer + 1)) :
    s.edge false = s.watched.collideAll.timedOut := by
  rw [State.edge_eq, if_neg nofun,
    State.timeOut_of_timesOut (by rw [State.collideAll_timesOut, State.watched_timesOut]; exact h)]
  exact openAll_of_nil rfl rfl

/-- An edge at which a transmit timeout falls, and is taken first. -/
theorem edge_true_of_timesOut {s : State} (h : s.timesOutAt (s.time.timer + 1)) :
    s.edge true = s.watched.timedOut := by
  rw [State.edge_eq, if_pos rfl, State.timeOut_of_timesOut (by rw [State.watched_timesOut]; exact h),
    collideAll_of_nil rfl]
  exact openAll_of_nil rfl rfl

/-! ## What an edge leaves alone -/

theorem Arrival.age_markOverdue (timer : Stamp) (a : Arrival) : (a.age timer).markOverdue = a.markOverdue := by
  unfold Arrival.age
  split <;> rfl

theorem edge_no_timeout_keepsRecords (s : State) : KeepsRecords s s.watched.collideAll.openAll := by
  have moves := (collideAll_channelsMove s.watched).trans (openAll_channelsMove _)
  generalize s.watched.collideAll.openAll = t at moves ⊢
  have frame := moves.frame
  rw [s.watched_frame] at frame
  have state : t.link.state = s.link.state := by rw [frame]
  exact ⟨by rw [frame], by rw [frame], by rw [frame], by rw [frame], by rw [frame], by rw [frame], by rw [frame],
    by rw [frame], fun leaves => absurd (state ▸ leaves.1) leaves.2, fun _ => by rw [frame]⟩

/-- The link times out in the middle of an event that has watched the stamps and moved channels. -/
theorem timedOut_keepsRecords {s u : State} (enabled : s.link.state = .enabled) (moves : ChannelsMove s.watched u) :
    KeepsRecords s u.timedOut := by
  have frame := moves.frame
  rw [s.watched_frame] at frame
  have time : u.timedOut.time = u.time := rfl
  refine ⟨?_, ?_, ?_, ?_, ?_, ?_, ?_, ?_, fun _ => ?_, fun stays => absurd ⟨enabled, nofun⟩ stays⟩
  · exact show u.memory = s.memory by rw [frame]
  · exact show u.dir = s.dir by rw [frame]
  · exact show u.tariff = s.tariff by rw [frame]
  · exact show u.integrity = s.integrity by rw [frame]
  · exact show u.port = s.port by rw [frame]
  · exact show u.hostRead = s.hostRead by rw [frame]
  · exact show u.pending = s.pending by rw [frame]
  · exact show u.link.config = s.link.config by rw [frame]
  · have queue : u.link.queue = s.link.queue.map (Arrival.age (s.time.timer + 1)) := by rw [frame]
    have engine : u.engine = s.engine := by rw [frame]
    have banks : u.memory.banks = s.memory.banks := by rw [frame]
    have notReady : u.port.notReady = s.port.notReady := by rw [frame]
    exact leavingLeaves (dest := .faulted) (u := u.count fun c => { c with transmitTimeout := bump c.transmitTimeout })
      (Arrival.age_markOverdue _) queue engine banks notReady rfl rfl rfl rfl

/-- A link with a reply being sent is ENABLED. -/
theorem KitLink.enabled_of_sending {l : KitLink} (order : l.inOrder) (sending : l.tx ≠ .idle) : l.state = .enabled :=
  Decidable.not_not.1 fun off => sending (order.1 off).2.2.2.2

theorem State.sending_of_timesOut {s : State} {timer : Stamp} (h : s.timesOutAt timer) : s.link.tx ≠ .idle := by
  obtain ⟨c, keyOn, sending, _⟩ := h
  rw [sending]
  exact nofun

/-- What an edge leaves alone. -/
theorem edge_keepsRecords {s : State} (h : ¬s.timesOutAt (s.time.timer + 1) ∨ s.link.inOrder) (timeoutFirst : Bool) :
    KeepsRecords s (s.edge timeoutFirst) := by
  by_cases timesOut : s.timesOutAt (s.time.timer + 1)
  · have enabled := KitLink.enabled_of_sending (h.resolve_left (not_not_intro timesOut))
      (State.sending_of_timesOut timesOut)
    cases timeoutFirst
    · rw [edge_false_of_timesOut timesOut]
      exact timedOut_keepsRecords enabled (collideAll_channelsMove _)
    · rw [edge_true_of_timesOut timesOut]
      exact timedOut_keepsRecords enabled (.refl _)
  · rw [edge_of_not_timesOut timesOut]
    exact edge_no_timeout_keepsRecords s

/-! ## The link at an edge -/

theorem Arrival.age_eq_at (timer : Stamp) (a : Arrival) : a.age timer = a.at timer := rfl

/-- What an edge without a transmit timeout does to the link. -/
theorem edge_no_timeout_link {s : State} (wf : cellsWf none s.link.channels) :
    let timer := s.time.timer + 1
    let t := s.watched.collideAll.openAll
    t.link = { s.link with
        queue := s.link.queue.map (·.at timer)
        inService := s.link.inService.map (·.at timer)
        channels := t.link.channels
        tx := t.link.tx
        counters := { s.link.counters with collided := s.collidedAt timer } }
      ∧ (s.link.tx = .idle → Sends (s.channelsAt timer) timer t)
      ∧ (s.link.tx ≠ .idle → t.link.tx = s.link.tx ∧ ∀ n, n < 8 → t.channel n = s.channelsAt timer n) := by
  have before : cellsWf none s.watched.link.channels := by rw [s.watched_frame]; exact wf
  have channel (n : Nat) : s.watched.channel n = s.channel n := by rw [s.watched_frame]; rfl
  have txBefore : s.watched.link.tx = s.link.tx := by rw [s.watched_frame]
  have counted : s.watched.collidedAt (s.time.timer + 1) = s.collidedAt (s.time.timer + 1) := by
    rw [s.watched_frame]; rfl
  have countersBefore : s.watched.link.counters = s.link.counters := by rw [s.watched_frame]
  have moves := collideAll_channelsMove s.watched
  have time : s.watched.time.timer = s.time.timer + 1 := s.countEdge_frame.2.1
  obtain ⟨given, counters, tx⟩ := collideAll_channels before
  obtain ⟨sends, stays, same⟩ := openAll_channels (moves.wf before)
  have frame := (moves.trans (openAll_channelsMove _)).frame
  rw [moves.time, time] at sends stays
  rw [time] at given counters
  rw [tx, txBefore] at sends stays
  have at' (n : Nat) (hn : n < 8) : opened (s.time.timer + 1) (s.watched.collideAll.channel n) =
      s.channelsAt (s.time.timer + 1) n := by
    rw [State.channelsAt_eq, given n hn, channel]
  have link := congrArg State.link frame
  dsimp only
  generalize s.watched.collideAll.openAll = t at sends stays same link ⊢
  refine ⟨?_, fun idle => (sends idle).congr at', fun busy => ?_⟩
  · refine link.trans ?_
    rw [same, counters, counted, countersBefore, s.watched_frame]
    rfl
  · obtain ⟨tx, channels⟩ := stays busy
    exact ⟨tx, fun n hn => (channels n hn).trans (at' n hn)⟩

/-- What an edge does to the link (R126, R129, R130, R134). -/
theorem edge_linkAt {s : State} (wf : cellsWf none s.link.channels) :
    LinkAt s (s.edge false) (s.time.timer + 1) := by
  refine ⟨fun timesOut => ?_, fun timesOut => ?_⟩
  · rw [edge_of_not_timesOut timesOut]
    exact edge_no_timeout_link wf
  · have counters := (collideAll_channels (s := s.watched) (by rw [s.watched_frame]; exact wf)).2.1
    have frame := (collideAll_channelsMove s.watched).frame
    have config : s.watched.collideAll.link.config = s.watched.link.config := by rw [frame]
    have inService : s.watched.collideAll.link.inService = s.watched.link.inService := by rw [frame]
    rw [edge_false_of_timesOut timesOut, State.timedOut_link, counters, config, inService,
      show s.watched.time.timer = s.time.timer + 1 from s.countEdge_frame.2.1, s.watched_frame]
    dsimp only
    rw [Option.map_map, show (Arrival.markOverdue ∘ Arrival.age (s.time.timer + 1)) = Arrival.markOverdue from
      funext (Arrival.age_markOverdue _)]
    rfl

end Sys2Proof.Machine
end

section
/-! PROOFS. The rows of the time input (log 3): TIME_INPUT_EDGE, and the rows that run on to a timed event. -/

namespace Sys2Proof.Machine

set_option Elab.async false

/-! ## Edges up to a timed event -/

theorem edgesTo_eq_iff {target timer : Stamp} {d : Nat} :
    edgesTo target timer = d ↔ 1 ≤ d ∧ d ≤ 65536 ∧ timer + BitVec.ofNat 16 d = target := by
  unfold edgesTo
  split
  · next same =>
    subst same
    constructor
    · rintro rfl
      exact ⟨by decide, by decide, by bv_omega⟩
    · rintro ⟨low, high, at'⟩
      have := congrArg BitVec.toNat at'
      simp only [BitVec.toNat_add, BitVec.toNat_ofNat] at this
      omega
  · next other =>
    constructor
    · rintro rfl
      refine ⟨?_, ?_, ?_⟩
      · exact Nat.pos_of_ne_zero fun zero => other (by bv_omega)
      · exact Nat.le_of_lt (target - timer).isLt
      · rw [BitVec.ofNat_toNat, BitVec.setWidth_eq]
        bv_omega
    · rintro ⟨low, high, rfl⟩
      have : d < 65536 := Nat.lt_of_le_of_ne high fun whole => other (by subst whole; bv_omega)
      bv_omega

theorem mem_edgesToTick {s : State} {d : Nat} : d ∈ s.edgesToTick ↔ d = 1966080 - s.time.divider := List.mem_singleton

theorem mem_edgesToOverdue {s : State} {d : Nat} : d ∈ s.edgesToOverdue ↔
    ∃ a, (a ∈ s.link.queue ∨ s.link.inService = some a) ∧ a.overdue = false
      ∧ 1 ≤ d ∧ d ≤ 65536 ∧ s.time.timer + BitVec.ofNat 16 d = a.stamp + 32768#16 := by
  simp only [State.edgesToOverdue, List.mem_map, List.mem_filter, List.mem_append, Option.mem_toList, edgesTo_eq_iff,
    Bool.not_eq_true', and_assoc]

theorem mem_edgesOf {s : State} {phase : Phase} {target : Channel → Stamp} {d : Nat} : d ∈ s.edgesOf phase target ↔
    ∃ n ch, (n, some ch) ∈ s.link.channels ∧ ch.phase = phase
      ∧ 1 ≤ d ∧ d ≤ 65536 ∧ s.time.timer + BitVec.ofNat 16 d = target ch := by
  constructor
  · intro h
    obtain ⟨ch, listed, counts⟩ := List.mem_filterMap.1 h
    obtain ⟨⟨n, _⟩, entry, rfl⟩ := List.mem_filterMap.1 listed
    split at counts
    · next here => exact ⟨n, ch, entry, here, edgesTo_eq_iff.1 (Option.some.inj counts)⟩
    · cases counts
  · rintro ⟨n, ch, entry, here, counts⟩
    exact List.mem_filterMap.2 ⟨ch, List.mem_filterMap.2 ⟨(n, some ch), entry, rfl⟩,
      by rw [if_pos here, edgesTo_eq_iff.2 counts]⟩

/-- A channel in use is listed. -/
theorem State.mem_of_channel {s : State} {n : Nat} {ch : Channel} (h : s.channel n = some ch) :
    (n, some ch) ∈ s.link.channels := by
  unfold State.channel at h
  generalize s.link.channels = m at h ⊢
  induction m with
  | nil => cases h
  | cons e m ih =>
    obtain ⟨k, v⟩ := e
    rw [cellRead] at h
    split at h
    · next here => exact here ▸ h ▸ List.mem_cons_self
    · exact List.mem_cons_of_mem _ (ih h)

theorem State.mem_channels_iff {s : State} (wf : cellsWf none s.link.channels) {n : Nat} {ch : Channel} :
    (n, some ch) ∈ s.link.channels ↔ s.channel n = some ch :=
  ⟨fun entry => cellRead_of_mem wf.1 entry, State.mem_of_channel⟩

theorem mem_edgesToTimeout {s : State} {d : Nat} : d ∈ s.edgesToTimeout ↔
    ∃ c keyOn, s.link.tx = .sending c keyOn
      ∧ 1 ≤ d ∧ d ≤ 65536 ∧ s.time.timer + BitVec.ofNat 16 d = keyOn + BitVec.ofNat 16 s.link.config.timeout := by
  unfold State.edgesToTimeout
  split
  · next idle => simp [idle]
  · next c keyOn sending =>
    rw [List.mem_singleton, eq_comm, edgesTo_eq_iff, sending]
    constructor
    · exact fun h => ⟨c, keyOn, rfl, h⟩
    · rintro ⟨_, _, same, h⟩
      cases same
      exact h

theorem mem_edgesToTimeout_iff {s : State} {d : Nat} (low : 1 ≤ d) (high : d ≤ 65536) :
    d ∈ s.edgesToTimeout ↔ s.timesOutAt (s.time.timer + BitVec.ofNat 16 d) := by
  rw [mem_edgesToTimeout]
  exact ⟨fun ⟨c, k, sending, _, _, at'⟩ => ⟨c, k, sending, at'⟩, fun ⟨c, k, sending, at'⟩ => ⟨c, k, sending, low, high, at'⟩⟩

theorem least_eq_some_iff {l : List Nat} {d : Nat} : least l = some d ↔ d ∈ l ∧ ∀ e ∈ l, d ≤ e := by
  rw [least, List.min?_eq_some_iff]

/-! ## Running on to an event -/

theorem runTo_of_next {s : State} {named : List Nat} {d : Nat} (h : s.nextEventIs named d) (timeoutFirst : Bool) :
    s.runTo named timeoutFirst = (s.quiet (d - 1)).edge timeoutFirst := by
  obtain ⟨present, first, next⟩ := h
  rw [State.runTo, first]
  exact if_pos ⟨present, next⟩

theorem runTo_of_not_next {s : State} {named : List Nat} (h : ∀ n, ¬s.nextEventIs named n) (timeoutFirst : Bool) :
    s.runTo named timeoutFirst = s := by
  unfold State.runTo
  split
  · rfl
  · next d first => exact if_neg fun ⟨present, next⟩ => h d ⟨present, first, next⟩

theorem exec_rawMinuteTick {s : State} {d : Nat} (next : s.nextEventIs s.edgesToTick d) :
    exec .rawMinuteTick s = .next ((s.quiet (d - 1)).edge false) := by
  rw [exec, execRawMinuteTick, runTo_of_next next]

theorem exec_stampOverdue {s : State} {d : Nat} (next : s.nextEventIs s.edgesToOverdue d) :
    exec .stampOverdue s = .next ((s.quiet (d - 1)).edge false) := by
  rw [exec, execStampOverdue, runTo_of_next next]

theorem exec_earliestStart {s : State} {d : Nat} (next : s.nextEventIs s.edgesToEarliest d) :
    exec .earliestStart s = .next ((s.quiet (d - 1)).edge false) := by
  rw [exec, execEarliestStart, runTo_of_next next]

theorem exec_latestStartPassed {s : State} {d : Nat} (next : s.nextEventIs s.edgesPastLatest d) :
    exec .latestStartPassed s = .next ((s.quiet (d - 1)).edge false) := by
  rw [exec, execLatestStartPassed, runTo_of_next next]

theorem exec_transmitTimeout {s : State} {d : Nat} (next : s.nextEventIs s.edgesToTimeout d) :
    exec .transmitTimeout s = .next ((s.quiet (d - 1)).edge true) := by
  rw [exec, execTransmitTimeout, runTo_of_next next]

theorem State.quiet_timer (s : State) {d : Nat} (low : 1 ≤ d) :
    (s.quiet (d - 1)).time.timer + 1 = s.time.timer + BitVec.ofNat 16 d := by
  obtain ⟨n, rfl⟩ : ∃ n, d = n + 1 := ⟨d - 1, (Nat.sub_add_cancel low).symm⟩
  rw [Nat.add_sub_cancel, State.quiet, BitVec.ofNat_add, ← BitVec.add_assoc]
  rfl

theorem ChannelsMove.sweep {s s' : State} (h : ChannelsMove s s') : s'.sweep = s.sweep := by rw [h.frame]

theorem State.timedOut_sweep (s : State) : s.timedOut.sweep = s.sweep := rfl

/-- An edge's counting shows in the time unit and the sweep unit. -/
theorem State.edge_sweep (s : State) (timeoutFirst : Bool) : (s.edge timeoutFirst).sweep = s.countEdge.sweep := by
  have watched : s.watched.sweep = s.countEdge.sweep := by rw [s.watched_frame]
  by_cases timesOut : s.timesOutAt (s.time.timer + 1)
  · cases timeoutFirst
    · rw [edge_false_of_timesOut timesOut, State.timedOut_sweep, (collideAll_channelsMove _).sweep, watched]
    · rw [edge_true_of_timesOut timesOut, State.timedOut_sweep, watched]
  · rw [edge_of_not_timesOut timesOut, (openAll_channelsMove _).sweep, (collideAll_channelsMove _).sweep, watched]

theorem TickEffect.of_edge {s : State} (h : TickEffect s s.countEdge) (timeoutFirst : Bool) :
    TickEffect s (s.edge timeoutFirst) := by
  rw [TickEffect, State.edge_time, State.edge_sweep]
  exact h

/-- Settles O5: the counting, and what the link timer's new value brings about. -/
theorem edgeCounts : Obligations.EdgeCounts := by
  intro s low order
  obtain ⟨frame, timer, present, clock⟩ := s.countEdge_frame
  refine ⟨s.edge false, rfl, rfl, edge_keepsRecords (.inr order) false, fun wf => edge_linkAt wf.2.2.2.2.2, ?_, ?_, ?_,
    fun below => ?_, fun wraps => ?_⟩
  · rw [State.edge_time, timer]
  · rw [State.edge_time, present]
  · rw [State.edge_time, clock]
  · rw [State.edge_time, State.edge_sweep, State.countEdge_below below]
    exact ⟨rfl, rfl, rfl, rfl⟩
  · obtain ⟨divider, effect⟩ := State.countEdge_wrap wraps
    rw [State.edge_time]
    exact ⟨divider, effect.of_edge false⟩

/-- Settles O6: the edges up to the tick are quiet, and the divider wraps at the last. -/
theorem rawMinuteTick : Obligations.RawMinuteTick := by
  intro s d low order next
  obtain rfl : d = 1966080 - s.time.divider := mem_edgesToTick.1 (least_eq_some_iff.1 next.2.1).1
  have ahead : 1 ≤ 1966080 - s.time.divider := by omega
  have wraps : (s.quiet (1966080 - s.time.divider - 1)).time.divider + 1 = Config.minuteEdges :=
    show s.time.divider + (1966080 - s.time.divider - 1) + 1 = 1966080 by omega
  have keeps := edge_keepsRecords (s := s.quiet (1966080 - s.time.divider - 1)) (.inr order) false
  have timerAt := s.quiet_timer ahead
  obtain ⟨divider, effect⟩ := State.countEdge_wrap wraps
  obtain ⟨_, timer, present, clock⟩ := (s.quiet (1966080 - s.time.divider - 1)).countEdge_frame
  refine ⟨_, exec_rawMinuteTick next, keeps, rfl, ?_, ?_, ?_, ?_, effect.of_edge false⟩
  · rw [State.edge_time, divider]
  · rw [State.edge_time, timer, timerAt]
  · rw [State.edge_time, present]
  · rw [State.edge_time, clock]
    rfl

/-! ## Overdue stamps and the transmit timeout -/

/-- Without a timeout an edge leaves the link's state, and watches the stamps. -/
theorem edge_no_timeout_stamps {s : State} (h : ¬s.timesOutAt (s.time.timer + 1)) (timeoutFirst : Bool) :
    (s.edge timeoutFirst).link.queue = s.link.queue.map (·.at (s.time.timer + 1))
      ∧ (s.edge timeoutFirst).link.inService = s.link.inService.map (·.at (s.time.timer + 1))
      ∧ (s.edge timeoutFirst).link.state = s.link.state := by
  rw [edge_of_not_timesOut h]
  have frame := ((collideAll_channelsMove s.watched).trans (openAll_channelsMove _)).frame
  rw [frame]
  dsimp only
  rw [s.watched_frame]
  exact ⟨rfl, rfl, rfl⟩

/-- Settles O7: the watch on the stamps, and the timeout taken first. -/
theorem overdueAndTimeout : Obligations.OverdueAndTimeout := by
  refine ⟨fun s d next noTimeout => ?_, fun s d c keyOn order sending next => ?_⟩
  · obtain ⟨a, _, _, low, high, _⟩ := mem_edgesToOverdue.1 (least_eq_some_iff.1 next.2.1).1
    have timer := s.quiet_timer low
    have stays : ¬(s.quiet (d - 1)).timesOutAt ((s.quiet (d - 1)).time.timer + 1) := by
      rw [timer]
      exact fun timesOut => noTimeout ((mem_edgesToTimeout_iff low high).2 timesOut)
    obtain ⟨queue, inService, state⟩ := edge_no_timeout_stamps stays false
    rw [timer] at queue inService
    refine ⟨_, exec_stampOverdue next, edge_keepsRecords (.inl stays) false, ?_, queue, inService, state⟩
    rw [State.edge_time, (s.quiet (d - 1)).countEdge_frame.2.1, timer]
  · obtain ⟨_, _, sending', low, high, at'⟩ := mem_edgesToTimeout.1 (least_eq_some_iff.1 next.2.1).1
    cases sending.symm.trans sending'
    have timer := s.quiet_timer low
    have timesOut : (s.quiet (d - 1)).timesOutAt ((s.quiet (d - 1)).time.timer + 1) := by
      rw [timer]
      exact ⟨c, keyOn, sending, at'⟩
    have now : ((s.quiet (d - 1)).edge true).time.timer = s.time.timer + BitVec.ofNat 16 d := by
      rw [State.edge_time, (s.quiet (d - 1)).countEdge_frame.2.1, timer]
    have link : ((s.quiet (d - 1)).edge true).link = ⟨s.link.config, .faulted, .hunt, none, [],
        s.link.inService.map Arrival.markOverdue, [], .idle,
        { s.link.counters with transmitTimeout := bump s.link.counters.transmitTimeout }⟩ := by
      rw [edge_true_of_timesOut timesOut, State.timedOut_link, State.watched_frame]
      dsimp only
      rw [Option.map_map, show (Arrival.markOverdue ∘ Arrival.age _) = Arrival.markOverdue from
        funext (Arrival.age_markOverdue _)]
      rfl
    have keeps := edge_keepsRecords (s := s.quiet (d - 1)) (.inr order) true
    refine ⟨_, exec_transmitTimeout next, keeps, now, now.trans at', ?_⟩
    rw [link]
    exact ⟨rfl, ⟨rfl, rfl, rfl, rfl, rfl⟩, rfl, rfl⟩

/-! ## The reply window -/

/-- Where a channel is READY, one of the eight is the one taken. -/
theorem exists_chosen {f : Nat → Option Channel} (timer : Stamp) {c : Nat} {ch : Channel} (hc : c < 8)
    (used : f c = some ch) (ready : ch.phase = .ready) : ∃ n, Chosen f timer n := by
  let key (n : Nat) : Nat := ((f n).elim 0 fun k => (k.latest - timer).toNat) * 8 + n
  let candidates := (Finset.range 8).filter fun n => ∃ k, f n = some k ∧ k.phase = .ready
  obtain ⟨n, mem, least⟩ := candidates.exists_min_image key
    ⟨c, Finset.mem_filter.2 ⟨Finset.mem_range.2 hc, ch, used, ready⟩⟩
  obtain ⟨hn, k, usedn, readyn⟩ := Finset.mem_filter.1 mem
  refine ⟨n, Finset.mem_range.1 hn, k, usedn, readyn, fun m k' hm used' ready' => ?_⟩
  have smaller := least m (Finset.mem_filter.2 ⟨Finset.mem_range.2 hm, k', used', ready'⟩)
  simp only [key, usedn, used', Option.elim_some] at smaller
  have := Finset.mem_range.1 hn
  omega

theorem State.collidedAt_eq (s : State) (timer : Stamp) :
    s.collidedAt timer = collidedAfter s.link.counters.collided (passedBelow s timer 8) := rfl

/-- A READY channel that is offered is sent, or stays while another is sent (R131). -/
theorem Sends.ready {f : Nat → Option Channel} {timer : Stamp} {t : State} (h : Sends f timer t) {c : Nat}
    {ch : Channel} (hc : c < 8) (used : f c = some ch) (ready : ch.phase = .ready) :
    (∃ n, t.link.tx = .sending n timer)
      ∧ (t.channel c = some ch ∨ t.channel c = some { ch with phase := .sending } ∧ t.link.tx = .sending c timer) := by
  obtain ⟨n, chosen⟩ := exists_chosen timer hc used ready
  obtain ⟨_, k, usedn, _⟩ := id chosen
  obtain ⟨tx, sent, others⟩ := h.1 n k chosen usedn
  refine ⟨⟨n, tx⟩, ?_⟩
  by_cases same : c = n
  · subst same
    rw [← Option.some.inj (used.symm.trans usedn)] at sent
    exact .inr ⟨sent, tx⟩
  · exact .inl ((others c hc same).trans used)

/-- A FREE channel stays FREE as the others are offered. -/
theorem Sends.free {f : Nat → Option Channel} {timer : Stamp} {t : State} (h : Sends f timer t) {c : Nat}
    (hc : c < 8) (free : f c = none) : t.channel c = none := by
  by_cases someReady : ∃ n ch, n < 8 ∧ f n = some ch ∧ ch.phase = .ready
  · obtain ⟨m, ch, hm, used, ready⟩ := someReady
    obtain ⟨n, chosen⟩ := exists_chosen timer hm used ready
    obtain ⟨_, k, usedn, _⟩ := id chosen
    have other : c ≠ n := fun same => by rw [same, usedn] at free; cases free
    exact ((h.1 n k chosen usedn).2.2 c hc other).trans free
  · have noneReady : ∀ n ch, n < 8 → f n = some ch → ch.phase ≠ .ready :=
      fun n ch hn used ready => someReady ⟨n, ch, hn, used, ready⟩
    exact ((h.2 noneReady).2 c hc).trans free

/-- Settles O8: the channels at their earliest and past their latest start, and the offer after them. -/
theorem replyWindow : Obligations.ReplyWindow := by
  refine ⟨fun s d c ch wf next noTimeout hc used scheduled at' => ?_,
    fun s d c ch wf order few next hc used ready at' => ?_⟩
  · obtain ⟨_, _, _, _, low, high, _⟩ := mem_edgesOf.1 (least_eq_some_iff.1 next.2.1).1
    have timer := s.quiet_timer low
    have stays : ¬(s.quiet (d - 1)).timesOutAt ((s.quiet (d - 1)).time.timer + 1) := by
      rw [timer]
      exact fun timesOut => noTimeout ((mem_edgesToTimeout_iff low high).2 timesOut)
    obtain ⟨_, sends, busy⟩ := (edge_linkAt (s := s.quiet (d - 1)) wf.2.2.2.2.2).1 stays
    have state := (edge_no_timeout_stamps stays false).2.2
    rw [timer] at sends busy
    have now : ((s.quiet (d - 1)).edge false).time.timer = s.time.timer + BitVec.ofNat 16 d := by
      rw [State.edge_time, (s.quiet (d - 1)).countEdge_frame.2.1, timer]
    have opens : s.channelsAt (s.time.timer + BitVec.ofNat 16 d) c = some { ch with phase := .ready } := by
      rw [State.channelsAt, used]
      simp [scheduled, at']
    refine ⟨_, exec_earliestStart next, edge_keepsRecords (.inl stays) false, now, ?_,
      fun idle => ⟨((sends idle).ready hc opens rfl).1, sends idle⟩, busy, state⟩
    by_cases idle : s.link.tx = .idle
    · exact ((sends idle).ready hc opens rfl).2
    · exact .inl (((busy idle).2 c hc).trans opens)
  · obtain ⟨_, _, _, _, low, high, _⟩ := mem_edgesOf.1 (least_eq_some_iff.1 next.2.1).1
    have timer := s.quiet_timer low
    obtain ⟨noTimeout, timeout⟩ := edge_linkAt (s := s.quiet (d - 1)) wf.2.2.2.2.2
    have keeps := edge_keepsRecords (s := s.quiet (d - 1)) (.inr order) false
    rw [timer] at noTimeout timeout
    have now : ((s.quiet (d - 1)).edge false).time.timer = s.time.timer + BitVec.ofNat 16 d := by
      rw [State.edge_time, (s.quiet (d - 1)).countEdge_frame.2.1, timer]
    have given : s.channelsAt (s.time.timer + BitVec.ofNat 16 d) c = none := by
      rw [State.channelsAt, used]
      exact if_pos ⟨ready, at'⟩
    have counted : s.collidedAt (s.time.timer + BitVec.ofNat 16 d) = min 65535 (s.link.counters.collided
        + passedBelow s (s.time.timer + BitVec.ofNat 16 d) 8) := by
      rw [State.collidedAt_eq, collidedAfter]
      split
      · next none => rw [none, Nat.add_zero, Nat.min_eq_right few]
      · rw [Nat.min_comm]
    refine ⟨_, exec_latestStartPassed next, keeps, now, ?_, ?_, fun none idle => ?_, fun none busy => ?_⟩
    · by_cases timesOut : s.timesOutAt (s.time.timer + BitVec.ofNat 16 d)
      · rw [State.channel, timeout timesOut]
        rfl
      · by_cases idle : s.link.tx = .idle
        · exact ((noTimeout timesOut).2.1 idle).free hc given
        · exact (((noTimeout timesOut).2.2 idle).2 c hc).trans given
    · by_cases timesOut : s.timesOutAt (s.time.timer + BitVec.ofNat 16 d)
      · rw [timeout timesOut]
        exact counted
      · rw [(noTimeout timesOut).1]
        exact counted
    · exact (noTimeout fun timesOut => none ((mem_edgesToTimeout_iff low high).2 timesOut)).2.1 idle
    · exact (noTimeout fun timesOut => none ((mem_edgesToTimeout_iff low high).2 timesOut)).2.2 busy

/-! ## The rows of timed events as edges -/

theorem collideAll_of_none {s : State} (h : ∀ n, passed s.time.timer (s.channel n) = false) : s.collideAll = s := by
  have stays (c : Nat) : s.collide c = s := by rw [collide_eq, if_neg (by rw [h]; exact nofun)]
  simp only [State.collideAll, List.foldl_cons, List.foldl_nil, stays]

theorem openAll_of_none {s : State} (send : s.nothingToSend)
    (h : ∀ n ch, s.channel n = some ch → ¬(ch.phase = .scheduled ∧ ch.earliest = s.time.timer)) : s.openAll = s := by
  have stays (c : Nat) : s.openChannel c = s := by
    unfold State.openChannel
    split
    · rfl
    · next ch used => exact if_neg (h c ch used)
  have offered : s.offer = s := by
    by_cases idle : s.link.tx = .idle
    · unfold State.offer
      rw [idle, send idle]
    · exact offer_of_sending idle
  simp only [State.openAll, List.foldl_cons, List.foldl_nil, stays, offered]

/-- The events of the link that fall as the timer counts to a value: a stamp becomes overdue, a reply window opens or
has passed, a send times out. -/
structure NoEventAt (s : State) (timer : Stamp) : Prop where
  stamps : ∀ a, a ∈ s.link.queue ∨ s.link.inService = some a → a.overdue = false → a.stamp + 32768#16 ≠ timer
  earliest : ∀ n ch, s.channel n = some ch → ch.phase = .scheduled → ch.earliest ≠ timer
  latest : ∀ n ch, s.channel n = some ch → ch.phase = .ready → ch.latest + 1 ≠ timer
  timeout : ¬s.timesOutAt timer

/-- A check-in whose stamp does not become overdue stays as it is; so does one overdue before. -/
theorem Arrival.age_eq_self {timer : Stamp} {a : Arrival} (h : a.overdue = false → a.stamp + 32768#16 ≠ timer) :
    a.age timer = a := by
  unfold Arrival.age
  split
  · next at' =>
    obtain ⟨checkIn, stamp, overdue⟩ := a
    cases overdue
    · exact absurd at' (h rfl)
    · rfl
  · rfl

/-- Nothing to send is a matter of the phases, not of the timer. -/
theorem State.nothingToSend_quiet {s : State} (h : s.nothingToSend) (n : Nat) : (s.quiet n).nothingToSend :=
  fun idle => State.chosenChannel_eq_none_iff.2 ((State.chosenChannel_eq_none_iff (s := s)).1 (h idle))

/-- Where no timed event falls, an edge is a quiet one. -/
theorem edge_eq_quiet {s : State} (present : s.time.inputLost = false) (send : s.nothingToSend)
    (tick : s.time.divider + 1 < Config.minuteEdges) (none : NoEventAt s (s.time.timer + 1)) :
    s.edge false = s.quiet 1 := by
  have watched : s.watched = s.quiet 1 := by
    have queue : s.link.queue.map (Arrival.age (s.time.timer + 1)) = s.link.queue :=
      (List.map_congr_left fun a listed => Arrival.age_eq_self (none.stamps a (.inl listed))).trans (List.map_id _)
    have inService : s.link.inService.map (Arrival.age (s.time.timer + 1)) = s.link.inService := by
      cases serving : s.link.inService with
      | none => rfl
      | some a => exact congrArg some (Arrival.age_eq_self (none.stamps a (.inr serving)))
    rw [s.watched_frame, queue, inService, State.countEdge_below tick, ← present]
    rfl
  have stays : (s.quiet 1).collideAll = s.quiet 1 := by
    refine collideAll_of_none fun n => Bool.eq_false_iff.2 fun gone => ?_
    obtain ⟨ch, used, gone⟩ := Option.any_eq_true _ _ |>.1 gone
    simp only [Bool.and_eq_true, decide_eq_true_eq] at gone
    exact none.latest n ch used gone.1 gone.2
  rw [edge_of_not_timesOut none.timeout, watched, stays]
  exact openAll_of_none (State.nothingToSend_quiet send 1)
    fun n ch used ⟨scheduled, at'⟩ => none.earliest n ch used scheduled at'

/-- The edges up to a target are the fewest in which the timer counts to it. -/
theorem edgesTo_le {target timer : Stamp} {m : Nat} (low : 1 ≤ m) (at' : timer + BitVec.ofNat 16 m = target) :
    edgesTo target timer ≤ m := by
  obtain ⟨_, high, there⟩ := edgesTo_eq_iff.1 (rfl : edgesTo target timer = edgesTo target timer)
  generalize edgesTo target timer = e at high there
  have same := congrArg BitVec.toNat (there.trans at'.symm)
  simp only [BitVec.toNat_add, BitVec.toNat_ofNat] at same
  omega

theorem edgesTo_counts (target timer : Stamp) : 1 ≤ edgesTo target timer ∧ edgesTo target timer ≤ 65536
    ∧ timer + BitVec.ofNat 16 (edgesTo target timer) = target := edgesTo_eq_iff.1 rfl

/-- All the timed events that lie ahead. -/
def State.events (s : State) : List Nat :=
  s.edgesToTick ++ s.edgesToOverdue ++ s.edgesToEarliest ++ s.edgesPastLatest ++ s.edgesToTimeout

theorem State.mem_events {s : State} {e : Nat} : e ∈ s.events ↔ e ∈ s.edgesToTick ∨ e ∈ s.edgesToOverdue
    ∨ e ∈ s.edgesToEarliest ∨ e ∈ s.edgesPastLatest ∨ e ∈ s.edgesToTimeout := by
  simp only [State.events, List.mem_append, or_assoc]

/-- Before the first event ahead no event falls. -/
theorem noEventAt_of_before {s : State} {d m : Nat} (first : ∀ e ∈ s.events, d ≤ e) (low : 1 ≤ m) (before : m < d) :
    NoEventAt s (s.time.timer + BitVec.ofNat 16 m) := by
  have ahead {target : Stamp} (h : edgesTo target s.time.timer ∈ s.events) :
      target ≠ s.time.timer + BitVec.ofNat 16 m := fun at' => by
    have := first _ h
    have := edgesTo_le low at'.symm
    omega
  refine ⟨fun a waiting young => ahead ?_, fun n ch used phase => ahead ?_, fun n ch used phase => ahead ?_,
    fun ⟨c, keyOn, sending, at'⟩ => ahead ?_ at'.symm⟩
  · exact State.mem_events.2 (.inr (.inl (mem_edgesToOverdue.2 ⟨a, waiting, young, edgesTo_counts _ _⟩)))
  · exact State.mem_events.2 (.inr (.inr (.inl (mem_edgesOf.2
      ⟨n, ch, State.mem_of_channel used, phase, edgesTo_counts _ _⟩))))
  · exact State.mem_events.2 (.inr (.inr (.inr (.inl (mem_edgesOf.2
      ⟨n, ch, State.mem_of_channel used, phase, edgesTo_counts _ _⟩)))))
  · exact State.mem_events.2 (.inr (.inr (.inr (.inr (mem_edgesToTimeout.2 ⟨c, keyOn, sending, edgesTo_counts _ _⟩)))))

theorem State.quiet_quiet (s : State) (n : Nat) : (s.quiet n).quiet 1 = s.quiet (n + 1) := by
  simp only [State.quiet, BitVec.ofNat_add, BitVec.add_assoc, Nat.add_assoc]

/-- The edges before the first event are quiet (log 3). -/
theorem iterate_edge_eq_quiet {s : State} {d : Nat} (present : s.time.inputLost = false) (send : s.nothingToSend)
    (first : ∀ e ∈ s.events, d ≤ e) (low : s.time.divider < 1966080) {k : Nat} (before : k < d) :
    (fun x => x.edge false)^[k] s = s.quiet k := by
  have tick : d ≤ 1966080 - s.time.divider := first _ (State.mem_events.2 (.inl (mem_edgesToTick.2 rfl)))
  induction k with
  | zero => exact s.quiet_zero.symm
  | succ k ih =>
    rw [Function.iterate_succ_apply', ih (Nat.lt_of_succ_lt before), ← State.quiet_quiet]
    have none := noEventAt_of_before first (Nat.le_add_left 1 k) before
    refine edge_eq_quiet present (State.nothingToSend_quiet send k) ?_ ?_
    · show s.time.divider + k + 1 < 1966080
      omega
    · have timer := s.quiet_timer (Nat.le_add_left 1 k)
      rw [Nat.add_sub_cancel] at timer
      rw [timer]
      exact ⟨none.stamps, none.earliest, none.latest, none.timeout⟩

/-- The first event lies at least one edge ahead. -/
theorem State.first_pos {s : State} {d : Nat} (low : s.time.divider < 1966080) (h : d ∈ s.events) : 1 ≤ d := by
  rcases State.mem_events.1 h with h | h | h | h | h
  · rw [mem_edgesToTick.1 h]
    omega
  · obtain ⟨_, _, _, low, _⟩ := mem_edgesToOverdue.1 h
    exact low
  · obtain ⟨_, _, _, _, low, _⟩ := mem_edgesOf.1 h
    exact low
  · obtain ⟨_, _, _, _, low, _⟩ := mem_edgesOf.1 h
    exact low
  · obtain ⟨_, _, _, low, _⟩ := mem_edgesToTimeout.1 h
    exact low

/-- The edge of the first event is one edge after the quiet ones. -/
theorem quiet_eq_iterate {s : State} {d : Nat} {named : List Nat} (low : s.time.divider < 1966080)
    (send : s.nothingToSend) (next : s.nextEventIs named d) :
    1 ≤ d ∧ s.quiet (d - 1) = (fun x => x.edge false)^[d - 1] s := by
  obtain ⟨present, _, nextIs⟩ := next
  obtain ⟨listed, first⟩ := least_eq_some_iff.1 nextIs
  have pos := State.first_pos low listed
  exact ⟨pos, (iterate_edge_eq_quiet present send first low (Nat.sub_lt pos Nat.one_pos)).symm⟩

theorem edge_quiet_eq_iterate {s : State} {d : Nat} {named : List Nat} (low : s.time.divider < 1966080)
    (send : s.nothingToSend) (next : s.nextEventIs named d) :
    (s.quiet (d - 1)).edge false = (fun x => x.edge false)^[d] s := by
  obtain ⟨pos, quiet⟩ := quiet_eq_iterate low send next
  rw [quiet, ← Function.iterate_succ_apply' (f := fun x : State => x.edge false), Nat.succ_eq_add_one,
    Nat.sub_add_cancel pos]

/-- Settles O9: where the events lie, and the rows as edges run on to them. -/
theorem timedRowsAreEdges : Obligations.TimedRowsAreEdges := by
  refine ⟨fun s d => ⟨mem_edgesToTick, mem_edgesToOverdue, fun wf => ?_, fun wf => ?_, mem_edgesToTimeout,
    least_eq_some_iff⟩, fun s d low send => ⟨fun next => ?_, fun next => ?_, fun next => ?_, fun next => ?_,
    fun next => ?_, fun other => ?_, fun other => ?_, fun other => ?_, fun other => ?_, fun other => ?_⟩⟩
  · exact mem_edgesOf.trans (exists_congr fun n => exists_congr fun ch =>
      and_congr_left' (State.mem_channels_iff wf.2.2.2.2.2))
  · exact mem_edgesOf.trans (exists_congr fun n => exists_congr fun ch =>
      and_congr_left' (State.mem_channels_iff wf.2.2.2.2.2))
  · rw [exec_rawMinuteTick next, edge_quiet_eq_iterate low send next]
  · rw [exec_stampOverdue next, edge_quiet_eq_iterate low send next]
  · rw [exec_earliestStart next, edge_quiet_eq_iterate low send next]
  · rw [exec_latestStartPassed next, edge_quiet_eq_iterate low send next]
  · rw [exec_transmitTimeout next, (quiet_eq_iterate low send next).2]
  · rw [exec, execRawMinuteTick, runTo_of_not_next other]
  · rw [exec, execStampOverdue, runTo_of_not_next other]
  · rw [exec, execEarliestStart, runTo_of_not_next other]
  · rw [exec, execLatestStartPassed, runTo_of_not_next other]
  · rw [exec, execTransmitTimeout, runTo_of_not_next other]

end Sys2Proof.Machine
end

section
/-! PROOFS. The strobes and errors of the kit link (R123, R125, R133). -/

namespace Sys2Proof.Machine

set_option Elab.async false

/-! ## Parity -/

theorem odd_add_bit (n : Nat) (x : Bool) : decide ((n + if x then 1 else 0) % 2 = 1) = (decide (n % 2 = 1) ^^ x) := by
  cases x
  · simp
  · rw [if_pos rfl, Bool.xor_true, ← decide_not]
    exact decide_eq_decide.2 (by omega)

/-- The exclusive-or of the data bits is the parity of the number of ones. -/
theorem oddOnes_eq (b : Byte) :
    oddOnes b = decide (((List.range 8).filter fun k => b.getLsbD k).length % 2 = 1) := by
  rw [← List.countP_eq_length_filter, show List.range 8 = [0, 1, 2, 3, 4, 5, 6, 7] from rfl]
  simp only [List.countP_cons, List.countP_nil, odd_add_bit, oddOnes]
  simp [Bool.xor_comm]

theorem even_iff_not_odd (n : Nat) : (!decide (n % 2 = 1)) = decide (n % 2 = 0) := by
  rw [← decide_not]
  exact decide_eq_decide.2 (by omega)

/-- A character with a wrong stop bit or parity bit is in error (R123). -/
theorem charError_of_wrong {c : LinkConfig} {ch : LineChar}
    (h : ch.stopLevel = false
      ∨ (c.parity = .even ∧ ch.parityBit ≠ decide (((List.range 8).filter fun k => ch.data.getLsbD k).length % 2 = 1))
      ∨ (c.parity = .odd ∧ ch.parityBit ≠ decide (((List.range 8).filter fun k => ch.data.getLsbD k).length % 2 = 0))) :
    c.charError ch = true := by
  rcases h with stop | ⟨parity, wrong⟩ | ⟨parity, wrong⟩
  · simp [LinkConfig.charError, stop]
  · rw [← oddOnes_eq] at wrong
    simp [LinkConfig.charError, parity, parityBit, wrong]
  · rw [← even_iff_not_odd, ← oddOnes_eq] at wrong
    have same : ch.parityBit = oddOnes ch.data := by simpa using Bool.eq_not_of_ne wrong
    simp [LinkConfig.charError, parity, parityBit, same]

/-! ## Errors and strobes -/

theorem State.charError_eq (s : State) : s.charError = { s with link := { s.link with
    counters := { s.link.counters with parity := min (s.link.counters.parity + 1) 65535 }
    parser := .hunt
    stamp := if s.link.parser = .hunt then s.link.stamp else none } } := by
  unfold State.charError
  dsimp only
  split
  · next hunt =>
    have hunt : s.link.parser = .hunt := hunt
    rw [if_pos hunt, ← hunt]
    rfl
  · next other =>
    have other : s.link.parser ≠ .hunt := other
    rw [if_neg other]
    rfl

theorem State.frameEnd_eq (s : State) : s.frameEnd = { s with link := { s.link with
    stamp := some s.time.timer
    parser := if s.link.stamp = none then s.link.parser else .hunt
    counters := if s.link.stamp = none then s.link.counters else
      { s.link.counters with disorder := min (s.link.counters.disorder + 1) 65535 } } } := by
  unfold State.frameEnd
  cases stamp : s.link.stamp with
  | none => simp
  | some _ => simp [State.count, bump, Config.maxCount]

/-- A send has ended: its channel is FREE, the transmitter IDLE, the reply counted (R133). -/
def State.sendEnded (s : State) (n : Nat) : State :=
  ({ s.putChannel n none with link := { (s.putChannel n none).link with tx := .idle } } : State).count
    fun c => { c with sent := bump c.sent }

theorem State.transmitDone_of_sending {s : State} {n : Nat} {k : Stamp} (h : s.link.tx = .sending n k) :
    s.transmitDone = (s.sendEnded n).offer := by
  unfold State.transmitDone
  rw [h]
  rfl

theorem State.transmitDone_of_idle {s : State} (h : s.link.tx = .idle) :
    s.transmitDone = s.count fun c => { c with disorder := bump c.disorder } := by
  unfold State.transmitDone
  rw [h]

/-- The offer writes none but the chosen channel. -/
theorem offer_channel_of_free {s : State} (wf : cellsWf none s.link.channels) {n : Nat} (free : s.channel n = none) :
    s.offer.channel n = none := by
  unfold State.offer
  split
  · exact free
  · split
    · exact free
    · next c taken =>
      obtain ⟨_, ch, used, _⟩ := State.chosen_of_chosenChannel taken
      refine (State.channel_putChannel wf c _ n).trans ?_
      split
      · next same => rw [same, used] at free; cases free
      · exact free

theorem offer_of_none {s : State} (idle : s.link.tx = .idle)
    (none : ∀ n ch, n < 8 → s.channel n = some ch → ch.phase ≠ .ready) : s.offer = s := by
  unfold State.offer
  rw [idle, State.chosenChannel_eq_none_iff.2 none]

/-- Settles O26: each row at an ENABLED link, and none at another. -/
theorem linkStrobesAndErrors : Obligations.LinkStrobesAndErrors := by
  refine ⟨fun s enabled => ⟨?_, fun ch => ?_⟩, fun s enabled => ⟨?_, fun idle => ?_, fun n k sending wf => ?_⟩,
    fun s chars off => ⟨?_, ?_, ?_, ?_⟩⟩
  · rw [exec, execKitCharacterError, if_pos enabled, State.charError_eq]
  · intro ones wrong
    rw [exec, exec, execKitPacket, execKitCharacterError, if_pos enabled, if_pos enabled, List.foldl_cons,
      List.foldl_nil, State.receive, if_pos (charError_of_wrong wrong)]
  · rw [exec, execFrameEndStrobe, if_pos enabled, State.frameEnd_eq]
  · rw [exec, execTransmitDoneStrobe, if_pos enabled, State.transmitDone_of_idle idle]
    rfl
  · have row : exec .transmitDoneStrobe s = .next (s.sendEnded n).offer := by
      rw [exec, execTransmitDoneStrobe, if_pos enabled, State.transmitDone_of_sending sending]
    have channel (m : Nat) : (s.sendEnded n).channel m = if m = n then none else s.channel m :=
      State.channel_putChannel wf.2.2.2.2.2 n none m
    have wf' : cellsWf none (s.sendEnded n).link.channels := cellsWf_write wf.2.2.2.2.2 n none
    have sends : Sends (fun c => if c = n then none else s.channel c) s.time.timer (s.sendEnded n).offer :=
      (offer_sends wf' rfl).congr fun m _ => channel m
    refine ⟨_, row, ?_, offer_counters _, fun noneReady => ?_, fun c ch hc other used ready => ?_, sends, ?_⟩
    · exact offer_channel_of_free wf' ((channel n).trans (if_pos rfl))
    · have stays : (s.sendEnded n).offer = s.sendEnded n := by
        refine offer_of_none rfl fun m ch hm used => ?_
        rw [channel] at used
        split at used
        · cases used
        · next other => exact noneReady m hm other ch used
      rw [stays]
      exact ⟨rfl, fun c other => (channel c).trans (if_neg other)⟩
    · exact (sends.ready hc ((if_neg other).trans used) ready).1
    · exact (offer_channelsMove (s.sendEnded n)).frame
  · exact congrArg _ (if_neg off)
  · exact congrArg _ (if_neg off)
  · exact congrArg _ (if_neg off)
  · exact congrArg _ (if_neg off)

end Sys2Proof.Machine
end

section
/-! PROOFS. Check-in packets at the character receiver and the parser (R123 to R125). -/

namespace Sys2Proof.Machine

set_option Elab.async false

/-! ## Characters to the parser -/

/-- A byte sent in the configured framing is received without error. -/
theorem charError_sendChar (c : LinkConfig) (b : Byte) : c.charError (c.sendChar b) = false := by
  simp [LinkConfig.charError, LinkConfig.sendChar]

theorem receive_sendChar {s : State} {c : LinkConfig} (config : s.link.config = c) (b : Byte) :
    s.receive (c.sendChar b) = s.parse b := by
  rw [State.receive, config, charError_sendChar]
  rfl

/-- Bytes sent in the configured framing go to the parser. -/
theorem foldl_receive_sendChar {s : State} {c : LinkConfig} (config : s.link.config = c) (bytes : List Byte) :
    (bytes.map c.sendChar).foldl State.receive s = bytes.foldl State.parse s := by
  induction bytes generalizing s with
  | nil => rfl
  | cons b bytes ih =>
    rw [List.map_cons, List.foldl_cons, List.foldl_cons, receive_sendChar config]
    exact ih (by rw [(parse_receives s b).frame]; exact config)

theorem exec_kitPacket {s : State} (enabled : s.link.state = .enabled) (bytes : List Byte) :
    exec (.kitPacket (bytes.map s.link.config.sendChar)) s = .next (bytes.foldl State.parse s) := by
  rw [exec, execKitPacket, if_pos enabled, foldl_receive_sendChar rfl]

/-! ## The parser -/

/-- The part with its parser in a given state. -/
def State.parsing (s : State) (p : Parser) : State := { s with link := { s.link with parser := p } }

theorem State.parsing_self {s : State} {p : Parser} (h : s.link.parser = p) : s.parsing p = s := by
  subst h
  rfl

theorem parse_marker (s : State) : (s.parsing .hunt).parse 0xA7#8 = s.parsing .length := rfl

theorem parse_length {s : State} {n : Byte} (low : 1 ≤ n.toNat) (high : n.toNat ≤ 32) :
    (s.parsing .length).parse n = s.parsing (.payload n []) := if_pos ⟨low, high⟩

theorem parse_bad_length {s : State} {n : Byte} (bad : n = 0 ∨ 32 < n.toNat) :
    (s.parsing .length).parse n = (s.parsing .length).badPacket := by
  refine if_neg fun ⟨low, high⟩ => ?_
  rcases bad with rfl | long
  · exact absurd low (by decide)
  · exact absurd high (Nat.not_le.2 long)

/-- The payload is taken up to its length. -/
theorem parse_payload {s : State} {length : Byte} {got rest : List Byte} (some' : rest ≠ [])
    (whole : got.length + rest.length = length.toNat) :
    rest.foldl State.parse (s.parsing (.payload length got)) = s.parsing (.crc length (got ++ rest) none) := by
  induction rest generalizing got with
  | nil => exact absurd rfl some'
  | cons b rest ih =>
    rw [List.length_cons] at whole
    rw [List.foldl_cons]
    by_cases last : rest = []
    · subst last
      exact if_pos (by rw [List.length_append]; exact Nat.le_of_eq whole.symm)
    · have more : (s.parsing (.payload length got)).parse b = s.parsing (.payload length (got ++ [b])) := by
        refine if_neg (Nat.not_le.2 ?_)
        rw [List.length_append, List.length_singleton]
        have := List.length_pos_of_ne_nil last
        omega
      rw [more, ih last (by rw [List.length_append, List.length_singleton]; omega), List.append_assoc]
      rfl

theorem beBytes_two (v : BitVec 16) : ∃ hi lo : Byte, beBytes 2 v.toNat = [hi, lo] ∧ hi ++ lo = v := by
  refine ⟨_, _, rfl, ?_⟩
  apply BitVec.eq_of_toNat_eq
  rw [BitVec.toNat_append, Nat.shiftLeft_eq, ← Nat.shiftLeft_eq, ← Nat.shiftLeft_add_eq_or_of_lt (BitVec.isLt _)]
  simp only [BitVec.toNat_ofNat, Nat.shiftLeft_eq]
  have := v.isLt
  omega

/-- The completion of a packet returns the parser to HUNT, whatever it stood in. -/
theorem completePacket_parsing (s : State) (p : Parser) (length : Byte) (payload : List Byte)
    (received : BitVec 16) :
    (s.parsing p).completePacket length payload received = s.completePacket length payload received := rfl

/-- A packet whose length byte agrees with its payload comes to its completion. -/
theorem parse_packet {s : State} (hunt : s.link.parser = .hunt) {payload : List Byte} (low : 1 ≤ payload.length)
    (high : payload.length ≤ 32) (received : BitVec 16) :
    (0xA7#8 :: (BitVec.ofNat 8 payload.length :: payload ++ beBytes 2 received.toNat)).foldl State.parse s =
      s.completePacket (BitVec.ofNat 8 payload.length) payload received := by
  have length : (BitVec.ofNat 8 payload.length).toNat = payload.length := by
    rw [BitVec.toNat_ofNat]
    exact Nat.mod_eq_of_lt (Nat.lt_of_le_of_lt high (by decide))
  obtain ⟨hi, lo, bytes, whole⟩ := beBytes_two received
  have taken := parse_payload (s := s) (length := BitVec.ofNat 8 payload.length) (got := []) (rest := payload)
    (List.ne_nil_of_length_pos low) (by rw [length]; exact Nat.zero_add _)
  rw [bytes]
  simp only [List.cons_append, List.foldl_cons, List.foldl_append, List.foldl_nil]
  rw [← State.parsing_self hunt, parse_marker, parse_length (by rw [length]; exact low) (by rw [length]; exact high),
    taken, ← whole]
  rfl

theorem exec_packet {s : State} (enabled : s.link.state = .enabled) (hunt : s.link.parser = .hunt)
    {payload : List Byte} (low : 1 ≤ payload.length) (high : payload.length ≤ 32) (received : BitVec 16) :
    exec (.kitPacket ((0xA7#8 :: (BitVec.ofNat 8 payload.length :: payload ++ beBytes 2 received.toNat)).map
        s.link.config.sendChar)) s =
      .next (s.completePacket (BitVec.ofNat 8 payload.length) payload received) := by
  rw [exec_kitPacket enabled, parse_packet hunt low high]

/-! ## Packets -/

theorem State.badPacket_eq {s : State} (hunt : s.link.parser = .hunt) : s.badPacket = { s with link := { s.link with
    stamp := none, counters := { s.link.counters with bad := min (s.link.counters.bad + 1) 65535 } } } := by
  rw [State.badPacket]
  dsimp only [State.count]
  rw [← hunt]
  rfl

/-- The payload of a check-in. -/
def CheckIn.payload (c : CheckIn) : List Byte :=
  [0x01#8] ++ beBytes 4 c.kit.toNat ++ [c.serial] ++ beBytes 2 c.acknowledged.toNat
    ++ beBytes 3 c.remaining.toNat ++ [c.flags]

/-! ## Fields of a message -/

theorem fieldAt_cons_skip {offset : Nat} (h : 0 < offset) (n : Nat) (b : Byte) (rest : List Byte) :
    fieldAt offset n (b :: rest) = fieldAt (offset - 1) n rest := by
  obtain ⟨offset, rfl⟩ := Nat.exists_eq_succ_of_ne_zero (Nat.ne_of_gt h)
  rfl

theorem fieldAt_append_skip {offset : Nat} {bs : List Byte} (h : bs.length ≤ offset) (n : Nat) (rest : List Byte) :
    fieldAt offset n (bs ++ rest) = fieldAt (offset - bs.length) n rest := by
  rw [fieldAt, fieldAt, List.drop_append, List.drop_eq_nil_of_le h, List.nil_append]

theorem fieldAt_beBytes_skip {offset k : Nat} (h : k ≤ offset) (n x : Nat) (rest : List Byte) :
    fieldAt offset n (beBytes k x ++ rest) = fieldAt (offset - k) n rest := by
  rw [fieldAt_append_skip (by rw [beBytes_length]; exact h), beBytes_length]

theorem fieldAt_byte (b : Byte) (rest : List Byte) : fieldAt 0 1 (b :: rest) = b.toNat := by
  simp [fieldAt, ofBytes]

/-- A word at the head of a message that fits its field is read back. -/
theorem fieldAt_word {w n : Nat} (h : w ≤ 8 * n) (v : BitVec w) (rest : List Byte) :
    fieldAt 0 n (beBytes n v.toNat ++ rest) = v.toNat := by
  have fits : v.toNat < 256 ^ n := by
    rw [show 256 = 2 ^ 8 from rfl, ← pow_mul]
    exact Nat.lt_of_lt_of_le v.isLt (Nat.pow_le_pow_right (by decide) h)
  simpa using fieldAt_of_append [] rest n v.toNat fits

theorem fieldAt_word_last {w n : Nat} (h : w ≤ 8 * n) (v : BitVec w) :
    fieldAt 0 n (beBytes n v.toNat) = v.toNat := by
  simpa using fieldAt_word h v []

/-- A check-in is read back from its payload (R124, section 11.4). -/
theorem checkInOf_payload {c : CheckIn} (some' : c.kit ≠ 0) (broadcast : c.kit ≠ 0xFFFFFFFF#32) :
    checkInOf c.payload = some c := by
  obtain ⟨kit, serial, acknowledged, remaining, flags⟩ := c
  have some' : kit ≠ 0#32 := some'
  have broadcast : kit ≠ 0xFFFFFFFF#32 := broadcast
  simp [checkInOf, CheckIn.payload, beBytes_length, fieldAt_cons_skip, fieldAt_beBytes_skip, fieldAt_byte,
    fieldAt_word, some', broadcast]

/-- Bytes that are no check-in: of another kind or length, or with a kit id that no kit has (R124). -/
theorem checkInOf_eq_none {payload : List Byte} (h : payload.headD 0 ≠ 0x01 ∨ payload.length ≠ 12
    ∨ (payload.drop 1).take 4 = [0, 0, 0, 0] ∨ (payload.drop 1).take 4 = [0xFF, 0xFF, 0xFF, 0xFF]) :
    checkInOf payload = none := by
  refine if_neg fun ⟨length, kind, zero, broadcast⟩ => ?_
  rcases h with other | other | none | all
  · cases payload with
    | nil => cases length
    | cons b rest =>
      rw [fieldAt_byte] at kind
      exact other (BitVec.eq_of_toNat_eq kind)
  · exact other length
  · exact zero (by rw [fieldAt, none]; rfl)
  · exact broadcast (by rw [fieldAt, all]; rfl)

theorem State.offerCheckIn_eq {s : State} (hunt : s.link.parser = .hunt) (c : CheckIn) (stamp : Stamp) :
    s.offerCheckIn c stamp = if s.link.queue.length < 16 then
        { s with link := { s.link with
            stamp := none, queue := s.link.queue ++ [⟨c, stamp, false⟩]
            counters := { s.link.counters with accepted := min (s.link.counters.accepted + 1) 65535 } } }
      else { s with link := { s.link with
          stamp := none
          counters := { s.link.counters with queueFull := min (s.link.counters.queueFull + 1) 65535 } } } := by
  rw [State.offerCheckIn, ← hunt]
  rfl

/-- Settles O25: the good packet, the packet that is bad at its completion, and the bad length byte. -/
theorem kitPackets : Obligations.KitPackets := by
  refine ⟨fun s c stamp enabled hunt held some' broadcast => ?_, fun s payload received enabled hunt low high => ?_,
    fun s length enabled hunt bad => ?_⟩
  · have whole : c.payload.length = 12 := by simp [CheckIn.payload, beBytes_length]
    have row := exec_packet (payload := c.payload) enabled hunt (by omega) (by omega)
      (crc (BitVec.ofNat 8 c.payload.length :: c.payload))
    refine row.trans ?_
    rw [State.completePacket, if_neg (not_not_intro rfl), checkInOf_payload some' broadcast, held]
    dsimp only
    rw [State.offerCheckIn_eq hunt]
  · intro body wrong
    refine (exec_packet enabled hunt low high received).trans ?_
    rw [← State.badPacket_eq hunt, State.completePacket]
    split
    · rfl
    · next right =>
      rcases wrong with other | none | other
      · exact absurd other right
      · rw [none]
        split
        · next stamp => cases stamp
        · rfl
      · rw [checkInOf_eq_none other]
  · refine (exec_kitPacket enabled [0xA7#8, length]).trans ?_
    rw [← State.badPacket_eq hunt, List.foldl_cons, List.foldl_cons, List.foldl_nil, ← State.parsing_self hunt,
      parse_marker, parse_bad_length bad]
    rfl

end Sys2Proof.Machine
end

section
/-! PROOFS. Messages of the station port: their framing (R163, R164), the parameters read back (R165, R176), and the
record commands handed over (R80, R81, R92). -/

namespace Sys2Proof.Machine

set_option Elab.async false

/-! ## Sums and check bytes -/

theorem foldl_add_eq (bs : List Byte) (acc : Byte) : bs.foldl (· + ·) acc = acc + bs.foldl (· + ·) 0 := by
  induction bs generalizing acc with
  | nil => simp
  | cons b bs ih => rw [List.foldl_cons, List.foldl_cons, ih, ih (0 + b), zero_add, add_assoc]

/-- The bytes' sum, mod 256. -/
theorem foldl_add_toNat (bs : List Byte) : (bs.foldl (· + ·) (0 : Byte)).toNat = (bs.map BitVec.toNat).sum % 256 := by
  induction bs with
  | nil => rfl
  | cons b bs ih =>
    rw [List.foldl_cons, foldl_add_eq, zero_add, BitVec.toNat_add, ih, List.map_cons, List.sum_cons]
    omega

theorem foldl_add_eq_zero_iff (bs : List Byte) :
    bs.foldl (· + ·) (0 : Byte) = 0 ↔ (bs.map BitVec.toNat).sum % 256 = 0 := by
  rw [← foldl_add_toNat]
  exact ⟨fun zero => by rw [zero]; rfl, fun zero => BitVec.eq_of_toNat_eq zero⟩

/-- A body with its check byte sums to 0 (R163). -/
theorem foldl_add_checkByte (body : List Byte) : (body ++ [checkByte body]).foldl (· + ·) (0 : Byte) = 0 := by
  rw [List.foldl_append, List.foldl_cons, List.foldl_nil, checkByte]
  generalize body.foldl (· + ·) (0 : Byte) = x
  bv_omega

/-! ## Framing -/

theorem frame_eq (content : List Byte) : ∃ check : Byte,
    frame content = BitVec.ofNat 8 (content.length + 1) :: (content ++ [check])
      ∧ (BitVec.ofNat 8 (content.length + 1) :: (content ++ [check])).foldl (· + ·) (0 : Byte) = 0 :=
  ⟨_, rfl, foldl_add_checkByte (BitVec.ofNat 8 (content.length + 1) :: content)⟩

theorem frame_length (content : List Byte) : (frame content).length = content.length + 2 := by
  obtain ⟨check, eq, _⟩ := frame_eq content
  rw [eq, List.length_cons, List.length_append, List.length_singleton]

/-- A framed message, with what follows it in the same transaction (R164). -/
theorem judge_frame {code : Byte} {params more : List Byte} (whole : (frame (code :: params) ++ more).length ≤ 64) :
    judge (frame (code :: params) ++ more) = .framed code params (decide (more ≠ [])) := by
  obtain ⟨check, eq, sum⟩ := frame_eq (code :: params)
  rw [List.length_append, frame_length, List.length_cons] at whole
  have length : (BitVec.ofNat 8 ((code :: params).length + 1)).toNat = params.length + 2 := by
    rw [BitVec.toNat_ofNat, List.length_cons]
    exact Nat.mod_eq_of_lt (by omega)
  have taken : (code :: params ++ [check] ++ more).take (params.length + 2) = code :: params ++ [check] :=
    List.take_left' (by simp)
  have body : (code :: params ++ [check] ++ more).take (params.length + 2 - 1) = code :: params := by
    rw [List.append_assoc]
    exact List.take_left' (by simp)
  rw [eq, List.cons_append, judge, length, taken, body, if_neg, if_neg, if_neg]
  · have further : params.length + 2 < (code :: params ++ [check] ++ more).length ↔ more ≠ [] := by
      rw [← List.length_pos_iff]
      simp only [List.length_append, List.length_cons, List.length_nil]
      omega
    rw [decide_eq_decide.2 further]
    rfl
  · exact not_not_intro sum
  · simp only [List.length_append, List.length_cons, List.length_nil]
    omega
  · simp only [List.length_append, List.length_cons, List.length_nil]
    omega

/-! ## The parameters of a command -/

theorem imageOf_imageBytes (i : RecordImage) : imageOf (imageBytes i) = i := by
  obtain ⟨slot, lifecycle, tag, location, kit, cls, presence, marks, expiry, reserve, residue, outstanding, paidTotal,
    issued, acknowledged, awaiting, lastCheckIn, drift, frozen, prior, standing⟩ := i
  simp [imageOf, imageBytes, fieldAt_cons_skip, fieldAt_beBytes_skip, fieldAt_byte, fieldAt_word]

theorem classBlockOf_bytes (b : ClassBlock) : classBlockOf (classBlockBytes b) = b := by
  obtain ⟨cls, price, horizon, grace, silence, drift⟩ := b
  simp [classBlockOf, classBlockBytes, fieldAt_cons_skip, fieldAt_beBytes_skip, fieldAt_byte, fieldAt_word,
    fieldAt_word_last]

theorem linkBlockOf_bytes (b : LinkBlock) : linkBlockOf (linkBlockBytes b) = b := by
  obtain ⟨bitRate, parity, stopBits, openDelay, window, timeout, keyLevel⟩ := b
  simp [linkBlockOf, linkBlockBytes, fieldAt_cons_skip, fieldAt_beBytes_skip, fieldAt_byte, fieldAt_word]

theorem kitParam_word (kit : KitId) (rest : List Byte) : kitParam (beBytes 4 kit.toNat ++ rest) = kit := by
  simp [kitParam, fieldAt_word]

theorem kitParam_last (kit : KitId) : kitParam (beBytes 4 kit.toNat) = kit := by
  simp [kitParam, fieldAt_word_last]

theorem wordParam_word (word : BitVec 16) (rest : List Byte) : wordParam (beBytes 2 word.toNat ++ rest) = word := by
  simp [wordParam, fieldAt_word]

theorem wordParam_last (word : BitVec 16) : wordParam (beBytes 2 word.toNat) = word := by
  simp [wordParam, fieldAt_word_last]

theorem byteParam_head (b : Byte) (rest : List Byte) : byteParam 0 (b :: rest) = b := by
  simp [byteParam, fieldAt_byte]

theorem byteParam_skip {offset k : Nat} (h : k ≤ offset) (x : Nat) (rest : List Byte) :
    byteParam offset (beBytes k x ++ rest) = byteParam (offset - k) rest := by
  rw [byteParam, fieldAt_beBytes_skip h, byteParam]

theorem parseCommand_record (c : RecordCommand) : parseCommand c.code c.params = .command (.record c) := by
  cases c with
  | restore image =>
    have length : (imageBytes image).length = 47 := by simp [imageBytes, beBytes_length]
    simp [RecordCommand.code, RecordCommand.params, parseCommand, sized, length, imageOf_imageBytes]
  | enrol | topUp | adjust | suspend | resume | changeClass | retire | retireSlot | readRecord | readSlot | fetchMarked =>
    simp [RecordCommand.code, RecordCommand.params, parseCommand, sized, beBytes_length, kitParam_word, kitParam_last,
      wordParam_last, byteParam_skip, byteParam_head, fieldAt_cons_skip, fieldAt_beBytes_skip, fieldAt_word_last]

/-- Every parameter of every command survives its encoding (R165, R176). -/
theorem parseCommand_params (c : HostCommand) : parseCommand c.code c.params = .command c := by
  cases c with
  | record c => exact parseCommand_record c
  | setClass block =>
    have length : (classBlockBytes block).length = 12 := by simp [classBlockBytes, beBytes_length]
    simp [HostCommand.code, HostCommand.params, parseCommand, sized, length, classBlockOf_bytes]
  | setLink block =>
    have length : (linkBlockBytes block).length = 10 := by simp [linkBlockBytes, beBytes_length]
    simp [HostCommand.code, HostCommand.params, parseCommand, sized, length, linkBlockOf_bytes]
  | setTime | advanceTime | holdTime | readClass | setSweep | evacuateBank | returnBank | injectRecord | injectBucket
  | setAttention =>
    simp [HostCommand.code, HostCommand.params, parseCommand, sized, beBytes_length, kitParam_last, wordParam_word,
      wordParam_last, byteParam_skip, byteParam_head]
  | readTime | readSweep | readLink | linkEnable | linkDisable | readLinkCounters | cancelEvacuation | readErrorReport
  | clearErrorReport | identify | readStatus | clearCounters | restart => rfl

theorem HostCommand.params_length (c : HostCommand) : c.params.length ≤ 47 := by
  cases c with
  | record c =>
    cases c <;> simp [HostCommand.params, RecordCommand.params, imageBytes, beBytes_length]
  | _ => simp [HostCommand.params, classBlockBytes, linkBlockBytes, beBytes_length]

theorem HostCommand.message_length (c : HostCommand) : c.message.length = c.params.length + 3 := frame_length _

/-! ## Writes of messages -/

/-- The message of a command, and what follows it in the same transaction, is taken as the command (R164, R165). -/
theorem judgeWrite_message {s : State} {c : HostCommand} {more : List Byte}
    (whole : (c.message ++ more).length ≤ 64) : s.judgeWrite (c.message ++ more) =
      takeCommand c (if more ≠ [] then (s.openWrite (c.message ++ more)).discardExtra (c.message ++ more)
        else s.openWrite (c.message ++ more)) := by
  rw [State.judgeWrite, show judge (c.message ++ more) = _ from judge_frame whole]
  simp only [State.takeMessage, parseCommand_params, decide_eq_true_eq]

theorem judgeWrite_message_alone (s : State) (c : HostCommand) :
    s.judgeWrite c.message = takeCommand c (s.openWrite c.message) := by
  have := c.params_length
  have alone := judgeWrite_message (s := s) (c := c) (more := [])
    (by rw [List.append_nil, c.message_length]; omega)
  rwa [List.append_nil, if_neg (not_not_intro rfl)] at alone

theorem HostCommand.message_ne_nil (c : HostCommand) : c.message ≠ [] :=
  List.ne_nil_of_length_pos (by rw [c.message_length]; omega)

theorem State.writeTransaction_own (s : State) {bytes : List Byte} (some' : bytes ≠ []) :
    s.writeTransaction s.address bytes = if s.busy then s.collidingWrite bytes else s.judgeWrite bytes := by
  rw [State.writeTransaction, if_neg (not_not_intro rfl), if_neg some']

/-- Settles O22: the message is framed, its parameters are read back, and BUSY decides alike. -/
theorem messageIsCommand : Obligations.MessageIsCommand := by
  intro s i c row
  have write : s.writeTransaction s.address c.message = s.send c := by
    rw [State.writeTransaction_own s c.message_ne_nil, judgeWrite_message_alone]
    rfl
  rw [exec_hostCommand row, ← write]
  exact ⟨rfl, rfl⟩

/-! ## Record commands -/

theorem badKit_iff (kit : KitId) : badKit kit = true ↔ NoKit kit := by
  rw [badKit, Bool.or_eq_true, decide_eq_true_eq, decide_eq_true_eq]

/-- The frozen credit and the prior lifecycle of an image, against the rows of R92's table that name them. -/
theorem badFreeze_iff (i : RecordImage) : badFreeze i = true ↔
    i.presence.getLsbD 2 = true ∧ i.lifecycle ≠ 3 ∨ ¬i.presence.getLsbD 2 = true ∧ i.lifecycle = 3
      ∨ i.presence.getLsbD 2 = true ∧ 576000 < i.frozen.toNat
      ∨ i.presence.getLsbD 3 = true ∧ i.prior ≠ 1 ∧ i.prior ≠ 2
      ∨ i.presence.getLsbD 3 = true ∧ ¬i.presence.getLsbD 2 = true
      ∨ ¬i.presence.getLsbD 3 = true ∧ i.presence.getLsbD 2 = true := by
  unfold badFreeze imageFrozen imagePrior
  cases i.presence.getLsbD 2 <;> cases i.presence.getLsbD 3 <;> simp [Config.maxHorizon, or_assoc]

theorem badImage_iff (i : RecordImage) : badImage i = true ↔ (RecordCommand.restore i).OutOfRange := by
  have unborn : i.lifecycle.toNat < 1 ↔ i.lifecycle = 0 := by
    rw [Nat.lt_one_iff]
    exact ⟨fun zero => BitVec.eq_of_toNat_eq zero, fun zero => by rw [zero]; rfl⟩
  have heard : Config.maxMinute < (imageLastCheckIn i).getD 0 ↔
      i.presence.getLsbD 1 = true ∧ 4200000000 < i.lastCheckIn.toNat := by
    unfold imageLastCheckIn
    cases i.presence.getLsbD 1 <;> simp [Config.maxMinute]
  have owing : ¬i.outstanding = 0 ∧ i.lifecycle = 4 ↔ i.lifecycle = 4 ∧ ¬i.outstanding = 0 := and_comm
  simp only [badImage, RecordCommand.OutOfRange, Bool.or_eq_true, decide_eq_true_eq, badKit_iff, badFreeze_iff, unborn,
    heard, serial_distance, Config.maxReserve, or_assoc, ne_eq, owing]

theorem badValue_iff (c : RecordCommand) : c.badValue = true ↔ c.OutOfRange := by
  cases c with
  | restore image => exact badImage_iff image
  | adjust kit minutes =>
    have out : Config.maxHorizon < minutes.toInt.natAbs ↔ minutes.toInt < -576000 ∨ 576000 < minutes.toInt := by
      rw [Config.maxHorizon]
      omega
    simp only [RecordCommand.badValue, RecordCommand.OutOfRange, Bool.or_eq_true, decide_eq_true_eq, badKit_iff, out,
      or_assoc]
  | enrol | topUp | suspend | resume | changeClass | retire | retireSlot | readRecord | readSlot | fetchMarked =>
    simp only [RecordCommand.badValue, RecordCommand.OutOfRange, Bool.or_eq_true, decide_eq_true_eq, badKit_iff,
      or_assoc, Bool.false_eq_true]

/-- Settles O21: the two refusals in order, then the command is held. -/
theorem recordCommandsAreHandedOver : Obligations.RecordCommandsAreHandedOver := by
  refine ⟨fun s i c free row => ?_, badValue_iff⟩
  exact exec_hostCommand_of_free row free

end Sys2Proof.Machine
end

section
/-! PROOFS. The transactions of the station port: what taking a command leaves of the port, the course of a write, and
a read (R162 to R167). -/

namespace Sys2Proof.Machine

set_option Elab.async false

/-! ## What taking a command leaves of the port -/

/-- A command is answered at once, or a record command is held. -/
def Answers (c : HostCommand) (s t : State) : Prop :=
  (∃ rc, c = .record rc ∧ s.port.notReady = false ∧ rc.badValue = false
      ∧ t = { s with engine := { s.engine with held := some rc, commandSearch := none } })
    ∨ ∃ (u : State) (st : Status) (fields : List Byte), t = u.respond c.code st fields ∧ (s.engine.held = none → u.engine.held = none)
        ∧ (c ≠ .restart → u.port.rx = s.port.rx)

theorem Answers.respond {c : HostCommand} {s u : State} (st : Status) (fields : List Byte)
    (held : u.engine.held = s.engine.held := by rfl) (rx : u.port.rx = s.port.rx := by rfl) :
    Answers c s (u.respond c.code st fields) :=
  .inr ⟨u, st, fields, rfl, fun none => held.trans none, fun _ => rx⟩

theorem Answers.refuse {c : HostCommand} (s : State) (st : Status) : Answers c s (s.refuse c.code st) :=
  .respond st []

theorem takeCommand_answers (c : HostCommand) (s : State) : Answers c s (takeCommand c s) := by
  cases c with
  | record rc =>
    rw [takeCommand, takeRecordCommand]
    split
    · exact .refuse s _
    · next ready =>
      split
      · exact .refuse s _
      · next good => exact .inl ⟨rc, rfl, Bool.eq_false_iff.2 ready, Bool.eq_false_iff.2 good, rfl⟩
  | setTime minute =>
    rw [takeCommand, portSetTime]
    split
    · exact .refuse s _
    split
    · exact .refuse s _
    · exact .respond _ _
  | advanceTime minutes =>
    rw [takeCommand, portAdvanceTime]
    split
    · exact .refuse s _
    split
    · exact .refuse s _
    split
    · exact .refuse s _
    · exact .respond _ _
  | holdTime minutes =>
    rw [takeCommand, portHoldTime]
    split
    · exact .refuse s _
    split
    · exact .refuse s _
    · exact .respond _ _
  | setClass block =>
    rw [takeCommand, portSetClass]
    split
    · exact .refuse s _
    split
    · exact .refuse s _
    · exact .respond _ _
  | readClass cls =>
    rw [takeCommand, portReadClass]
    split
    · exact .refuse s _
    · exact .respond _ _
  | setSweep rate =>
    rw [takeCommand, portSetSweep]
    split
    · exact .refuse s _
    · exact .respond _ _
  | setLink block =>
    rw [takeCommand, portSetLink]
    split
    · exact .refuse s _
    split
    · exact .refuse s _
    · exact .respond _ _
  | linkEnable =>
    rw [takeCommand, portLinkEnable]
    split
    · exact .refuse s _
    split
    · exact .refuse s _
    · exact .respond _ _
  | linkDisable =>
    rw [takeCommand, portLinkDisable]
    have kept : (s.linkTo .disabled).engine.held = s.engine.held ∧ (s.linkTo .disabled).port = s.port := by
      unfold State.linkTo
      split <;> exact ⟨rfl, rfl⟩
    exact .respond _ _ kept.1 (by rw [kept.2])
  | evacuateBank bank =>
    rw [takeCommand, portEvacuateBank]
    split
    · exact .refuse s _
    split
    · exact .refuse s _
    split
    · exact .refuse s _
    split
    · exact .refuse s _
    · refine .respond _ _ ?_ ?_
      · rw [State.startEvacuation_eq, (State.checkEvacuation_frame _).1]
        rfl
      · rw [State.startEvacuation_eq, (State.checkEvacuation_frame _).1]
        rfl
  | cancelEvacuation =>
    rw [takeCommand, portCancelEvacuation]
    split
    · exact .refuse s _
    split
    · exact .refuse s _
    · exact .respond _ _
  | returnBank bank =>
    rw [takeCommand, portReturnBank]
    split
    · exact .refuse s _
    split
    · exact .refuse s _
    split
    · exact .refuse s _
    · exact .respond _ _
  | injectRecord slot mode =>
    rw [takeCommand, portInjectRecord]
    split
    · exact .refuse s _
    split
    · exact .refuse s _
    · exact .respond _ _
  | injectBucket bucket mode =>
    rw [takeCommand, portInjectBucket]
    split
    · exact .refuse s _
    split
    · exact .refuse s _
    · exact .respond _ _
  | setAttention mask =>
    rw [takeCommand, portSetAttention]
    split
    · exact .refuse s _
    · exact .respond _ _
  | restart => exact .inr ⟨_, _, _, rfl, fun _ => rfl, fun other => absurd rfl other⟩
  | readTime | readSweep | readLink | readLinkCounters | readErrorReport | clearErrorReport | identify | readStatus
  | clearCounters => exact .respond _ _

theorem ite_drives {p : Prop} [Decidable p] (t e : State) (acks : List Bool) :
    (if p then t else e).drives acks = if p then t.drives acks else e.drives acks := apply_ite (State.drives · acks) p t e

theorem checkEvacuation_drives (s : State) (acks : List Bool) :
    (s.drives acks).checkEvacuation = s.checkEvacuation.drives acks := by
  unfold State.checkEvacuation
  rw [show (s.drives acks).evacuatingBank = s.evacuatingBank from rfl]
  cases s.evacuatingBank with
  | none => rfl
  | some b =>
    simp only [ite_drives]
    rfl

/-- The acknowledgements a transaction has driven take no part in the command it carries. -/
theorem takeCommand_drives (c : HostCommand) (s : State) (acks : List Bool) :
    takeCommand c (s.drives acks) = (takeCommand c s).drives acks := by
  cases c with
  | record rc => simp only [takeCommand, takeRecordCommand, ite_drives]; rfl
  | setTime minute => simp only [takeCommand, portSetTime, ite_drives]; rfl
  | advanceTime minutes => simp only [takeCommand, portAdvanceTime, ite_drives]; rfl
  | holdTime minutes => simp only [takeCommand, portHoldTime, ite_drives]; rfl
  | setClass block => simp only [takeCommand, portSetClass, ite_drives]; rfl
  | readClass cls => simp only [takeCommand, portReadClass, ite_drives]; rfl
  | setSweep rate => simp only [takeCommand, portSetSweep, ite_drives]; rfl
  | linkEnable => simp only [takeCommand, portLinkEnable, ite_drives]; rfl
  | linkDisable =>
    simp only [takeCommand, portLinkDisable, State.linkTo]
    by_cases enabled : s.link.state = .enabled
    · rw [if_pos enabled, if_pos (show (s.drives acks).link.state = .enabled from enabled)]
      rfl
    · rw [if_neg enabled, if_neg (show ¬(s.drives acks).link.state = .enabled from enabled)]
      rfl
  | setLink block =>
    simp only [takeCommand, portSetLink]
    cases configOf block with
    | none => rfl
    | some c => simp only [ite_drives]; rfl
  | evacuateBank bank =>
    have started := checkEvacuation_drives (s.begunEvacuation (bankIndex bank.toNat)) acks
    simp only [takeCommand, portEvacuateBank, ite_drives, State.startEvacuation_eq]
    rw [show (s.drives acks).begunEvacuation _ = (s.begunEvacuation (bankIndex bank.toNat)).drives acks from rfl, started]
    rfl
  | cancelEvacuation =>
    simp only [takeCommand, portCancelEvacuation, ite_drives]
    rw [show (s.drives acks).evacuatingBank = s.evacuatingBank from rfl]
    cases s.evacuatingBank with
    | none => rfl
    | some b => rfl
  | returnBank bank => simp only [takeCommand, portReturnBank, ite_drives]; rfl
  | injectRecord slot mode =>
    simp only [takeCommand, portInjectRecord]
    cases injectModeOf mode with
    | none => rfl
    | some m => simp only [ite_drives]; rfl
  | injectBucket slot mode =>
    simp only [takeCommand, portInjectBucket]
    cases injectModeOf mode with
    | none => rfl
    | some m => simp only [ite_drives]; rfl
  | setAttention mask => simp only [takeCommand, portSetAttention, ite_drives]; rfl
  | restart =>
    simp only [takeCommand, portRestart, State.linkTo]
    by_cases enabled : s.link.state = .enabled
    · rw [if_pos enabled, if_pos (show (s.drives acks).link.state = .enabled from enabled)]
      rfl
    · rw [if_neg enabled, if_neg (show ¬(s.drives acks).link.state = .enabled from enabled)]
      rfl
  | readTime | readSweep | readLink | readLinkCounters | readErrorReport | clearErrorReport | identify | readStatus
  | clearCounters => rfl

/-! ## The course of a write -/

theorem exec_messageWrite_own {s : State} {bytes : List Byte} (some' : bytes ≠ []) (free : s.busy = false) :
    exec (.messageWrite s.address bytes) s = .next (s.judgeWrite bytes) := by
  rw [exec, execMessageWrite, State.writeTransaction_own s some', free]
  rfl

theorem judge_tooLong {bytes : List Byte} (h : 64 < bytes.length) : judge bytes = .tooLong := by
  cases bytes with
  | nil => cases h
  | cons len rest => exact if_pos h

/-- A message whose length byte or check byte is wrong, or that ends early, is echoed by its second byte (R164). -/
theorem judge_malformed {bytes : List Byte} (some' : 1 ≤ bytes.length) (short : bytes.length ≤ 64)
    (wrong : (bytes.headD 0).toNat < 2 ∨ 63 < (bytes.headD 0).toNat ∨ bytes.length < (bytes.headD 0).toNat + 1
      ∨ ((bytes.take ((bytes.headD 0).toNat + 1)).map BitVec.toNat).sum % 256 ≠ 0) :
    judge bytes = .malformed (bytes.getD 1 0) := by
  cases bytes with
  | nil => cases some'
  | cons len rest =>
    have second : (len :: rest).getD 1 0 = rest.headD 0 := by cases rest <;> rfl
    rw [judge, if_neg (Nat.not_lt.2 short), second]
    rw [List.headD_cons, List.length_cons, List.take_succ_cons, Ne, ← foldl_add_eq_zero_iff, Nat.add_lt_add_iff_right]
      at wrong
    split
    · rfl
    · next framed =>
      exact if_pos (by
        rcases wrong with low | high | early | sum
        · exact absurd (.inl low) framed
        · exact absurd (.inr (.inl high)) framed
        · exact absurd (.inr (.inr early)) framed
        · exact sum)

theorem restart_message : HostCommand.restart.message = [0x02, 0x54, 0xAA] := by decide

/-- A code is known with the length of its parameters, or unknown (R165). -/
theorem parseCommand_cases (code : Byte) (params : List Byte) :
    (∃ n c, commandLength code.toNat = some n ∧ parseCommand code params = sized n params c)
      ∨ commandLength code.toNat = none ∧ parseCommand code params = .unknown := by
  unfold parseCommand
  split
  case h_38 =>
    refine .inr ⟨?_, rfl⟩
    simp only [imp_false] at *
    simp only [commandLength, List.mem_cons, List.not_mem_nil, or_false, *, if_false]
  all_goals next known => exact .inl ⟨_, _, by rw [known]; rfl, rfl⟩

theorem parseCommand_of_unknown {code : Byte} (unknown : commandLength code.toNat = none) (params : List Byte) :
    parseCommand code params = .unknown := by
  rcases parseCommand_cases code params with ⟨n, c, known, _⟩ | ⟨_, parsed⟩
  · cases unknown.symm.trans known
  · exact parsed

theorem parseCommand_of_length {code : Byte} {n : Nat} (known : commandLength code.toNat = some n) {params : List Byte}
    (wrong : params.length ≠ n) : parseCommand code params = .badLength := by
  rcases parseCommand_cases code params with ⟨m, c, known', parsed⟩ | ⟨unknown, _⟩
  · cases known.symm.trans known'
    rw [parsed, sized, if_neg wrong]
  · cases unknown.symm.trans known

/-- A command's response echoes its code, and a held command shows no response yet. -/
theorem Answers.response {c : HostCommand} {s t : State} (h : Answers c s t) (free : s.busy = false)
    (none : s.port.responseReady = false) :
    (∃ rc, c = .record rc ∧ s.port.notReady = false ∧ rc.badValue = false ∧ t.engine.held = some rc
        ∧ t.port.responseReady = false)
      ∨ t.busy = false ∧ t.port.responseReady = true ∧ t.port.resp.getD 1 0 = c.code := by
  rcases h with ⟨rc, same, ready, good, rfl⟩ | ⟨u, st, fields, rfl, held, _⟩
  · exact .inl ⟨rc, same, ready, good, rfl, none⟩
  · have idle : s.engine.held = .none := Option.not_isSome_iff_eq_none.1 (Bool.eq_false_iff.1 free)
    refine .inr ⟨?_, rfl, rfl⟩
    exact show u.engine.held.isSome = false by rw [held idle]; rfl

theorem Answers.rx {c : HostCommand} {s t : State} (h : Answers c s t) (other : c ≠ .restart) :
    t.port.rx = s.port.rx := by
  rcases h with ⟨rc, _, _, _, rfl⟩ | ⟨u, st, fields, rfl, _, rx⟩
  · rfl
  · exact rx other

/-- The part as a message with further bytes after it is taken (R164). -/
def State.noted (s : State) (more : List Byte) : State :=
  if more = [] then s else { s with port := { s.port with overrun := true } }

theorem take_message (c : HostCommand) (more : List Byte) :
    (c.message ++ more).take (((c.message ++ more).headD 0).toNat + 1) = c.message := by
  obtain ⟨check, eq, _⟩ := frame_eq (c.code :: c.params)
  have bound := c.params_length
  have head : ((c.message ++ more).headD 0).toNat + 1 = c.message.length := by
    rw [c.message_length, show c.message = _ from eq, List.cons_append, List.headD_cons, BitVec.toNat_ofNat,
      List.length_cons]
    rw [Nat.mod_eq_of_lt (by omega)]
  rw [head]
  exact List.take_left' rfl

/-- However many bytes follow a message, the part takes it as it takes the message alone, but for the acknowledgements
and OVERRUN. -/
theorem opened_message (s : State) (c : HostCommand) (more : List Byte) (whole : (c.message ++ more).length ≤ 64) :
    (if more ≠ [] then (s.openWrite (c.message ++ more)).discardExtra (c.message ++ more)
        else s.openWrite (c.message ++ more)) =
      ((s.noted more).openWrite c.message).drives (acknowledged (c.message ++ more).length) := by
  have rx : (c.message).take Config.bufferBytes = c.message :=
    List.take_of_length_le (by
      rw [List.length_append] at whole
      exact Nat.le_trans (Nat.le_add_right _ _) whole)
  by_cases alone : more = []
  · subst alone
    rw [if_neg (not_not_intro rfl), List.append_nil]
    rfl
  · rw [if_pos alone, State.noted, if_neg alone, State.discardExtra, take_message]
    simp only [State.openWrite, State.drives, rx]

theorem frame_ne_nil (content : List Byte) : frame content ≠ [] :=
  List.ne_nil_of_length_pos (by rw [frame_length]; omega)

theorem judgeWrite_frame {s : State} {code : Byte} {params : List Byte} (short : params.length ≤ 61) :
    s.judgeWrite (frame (code :: params)) = (s.openWrite (frame (code :: params))).takeMessage code params := by
  have judged := judge_frame (code := code) (params := params) (more := [])
    (by rw [List.append_nil, frame_length, List.length_cons]; omega)
  rw [List.append_nil] at judged
  rw [State.judgeWrite, judged]
  rfl

theorem noted_port (s : State) (more : List Byte) :
    (s.noted more).port.notReady = s.port.notReady ∧ (s.noted more).busy = s.busy := by
  unfold State.noted
  split <;> exact ⟨rfl, rfl⟩

/-- The message of a command with further bytes: the command's row, but for the acknowledgements and OVERRUN. -/
theorem message_and_more {s : State} {i : Instr} {c : HostCommand} {more : List Byte} (row : hostCommandOf i = some c)
    (free : s.busy = false) (whole : (c.message ++ more).length ≤ 64) :
    ∃ t, exec (.messageWrite s.address (c.message ++ more)) s = .next t
      ∧ exec i (s.noted more) = .next { t with
          port := { t.port with acks := List.replicate (c.message.length + 1) true } }
      ∧ t.port.acks = List.replicate (c.message.length + more.length + 1) true
      ∧ (c ≠ .restart → t.port.rx = c.message)
      ∧ ((∃ rc, c = .record rc ∧ s.port.notReady = false ∧ rc.badValue = false ∧ t.engine.held = some rc
            ∧ t.port.responseReady = false)
          ∨ t.busy = false ∧ t.port.responseReady = true ∧ t.port.resp.getD 1 0 = c.code) := by
  obtain ⟨ready, busy⟩ := noted_port s more
  let u := (s.noted more).openWrite c.message
  have answers := takeCommand_answers c (u.drives (acknowledged (c.message ++ more).length))
  have write : exec (.messageWrite s.address (c.message ++ more)) s =
      .next (takeCommand c (u.drives (acknowledged (c.message ++ more).length))) := by
    rw [exec_messageWrite_own (List.append_ne_nil_of_left_ne_nil c.message_ne_nil _) free, judgeWrite_message whole,
      opened_message s c more whole]
  refine ⟨_, write, ?_, ?_, fun other => ?_, ?_⟩
  · rw [exec_hostCommand_of_free row (busy.trans free), takeCommand_drives]
    exact congrArg _ (takeCommand_drives c u (acknowledged c.message.length))
  · rw [takeCommand_drives, State.drives_port, List.length_append]
    rfl
  · rw [answers.rx other]
    exact List.take_of_length_le (by
      rw [List.length_append] at whole
      exact Nat.le_trans (Nat.le_add_right _ _) whole)
  · have response := answers.response (busy.trans free) rfl
    rw [show (u.drives (acknowledged (c.message ++ more).length)).port.notReady = _ from ready] at response
    exact response

/-- Settles O23: the course of a write by its address, its bytes and BUSY. -/
theorem writeTransactions : Obligations.WriteTransactions := by
  refine ⟨fun s address bytes => ⟨fun other => ?_, fun own none => ?_, rfl, fun own free long => ?_,
    fun own free some' short wrong => ?_, rfl⟩, fun s bytes busy some' => ?_, fun s i c more row free whole => ?_,
    fun s code params free short => ⟨fun unknown => ?_, fun n known wrong => ?_⟩⟩
  · exact congrArg _ (if_pos other)
  · subst own none
    exact congrArg _ ((if_neg (not_not_intro rfl)).trans (if_pos rfl))
  · subst own
    rw [exec_messageWrite_own (List.ne_nil_of_length_pos (Nat.lt_of_le_of_lt (Nat.zero_le _) long)) free,
      State.judgeWrite, judge_tooLong long]
    rfl
  · subst own
    rw [exec_messageWrite_own (List.ne_nil_of_length_pos some') free, State.judgeWrite,
      judge_malformed some' short wrong]
    rfl
  · rw [exec, execCollidingWrite, State.writeTransaction_own s some', if_pos busy, exec_hostCommand (c := .restart) rfl,
      State.send, if_pos busy, State.collidingWrite, State.collidingWrite, restart_message]
    by_cases alone : bytes = [0x02, 0x54, 0xAA]
    · subst alone
      rfl
    · simp only [if_neg alone]
      rfl
  · exact message_and_more row free whole
  · rw [exec_messageWrite_own (frame_ne_nil _) free, judgeWrite_frame short, State.takeMessage,
      parseCommand_of_unknown unknown]
    rfl
  · rw [exec_messageWrite_own (frame_ne_nil _) free, judgeWrite_frame short, State.takeMessage,
      parseCommand_of_length known wrong]
    rfl

end Sys2Proof.Machine
end

section
/-! PROOFS. What the host reads of the port (R167 to R170), and the reports of integrity and status (R151, R171, R172). -/

namespace Sys2Proof.Machine

set_option Elab.async false

/-! ## The status byte and the attention line -/

theorem status_bits : ∀ a b c d e f : Bool,
    let v := BitVec.ofNat 8 (oneIf a + 2 * oneIf b + 4 * oneIf c + 8 * oneIf d + 16 * oneIf e + 32 * oneIf f)
    v.getLsbD 0 = a ∧ v.getLsbD 1 = b ∧ v.getLsbD 2 = c ∧ v.getLsbD 3 = d ∧ v.getLsbD 4 = e ∧ v.getLsbD 5 = f
      ∧ v.toNat < 64 := by
  decide

theorem State.statusByte_bits (s : State) : s.statusByte.getLsbD 0 = s.port.responseReady
    ∧ s.statusByte.getLsbD 1 = s.engine.held.isSome ∧ s.statusByte.getLsbD 2 = s.port.collision
    ∧ s.statusByte.getLsbD 3 = s.port.overrun ∧ s.statusByte.getLsbD 4 = s.attention
    ∧ s.statusByte.getLsbD 5 = s.port.notReady ∧ s.statusByte.toNat < 64 :=
  status_bits _ _ _ _ _ _

/-- Two sets of sources meet in a source (R170). -/
theorem and_ne_zero_iff {a b : BitVec 6} :
    a &&& b ≠ 0 ↔ ∃ k, k < 6 ∧ a.getLsbD k = true ∧ b.getLsbD k = true := by
  constructor
  · intro meet
    by_contra none
    refine meet (BitVec.eq_of_getLsbD_eq fun k hk => ?_)
    have apart : ¬(a.getLsbD k = true ∧ b.getLsbD k = true) := fun both => none ⟨k, hk, both⟩
    rw [BitVec.getLsbD_and, Bool.eq_false_iff.2 (mt Bool.and_eq_true_iff.1 apart)]
    exact BitVec.getLsbD_zero.symm
  · rintro ⟨k, _, left, right⟩ none
    have here := congrArg (·.getLsbD k) none
    simp [left, right] at here

/-! ## Reads -/

/-- A read of at least one byte sends the status byte, the response offered, and then 00h (R167). -/
theorem readBytes_succ (s : State) (n : Nat) : (s.readBytes (n + 1)).length = n + 1
    ∧ (s.readBytes (n + 1)).head? = some s.statusByte
    ∧ ∀ k, k < n → (s.readBytes (n + 1)).getD (k + 1) 0 = s.offered.getD k 0 := by
  have bytes : s.readBytes (n + 1) = s.statusByte :: (s.offered ++ List.replicate (n + 1) 0).take n := rfl
  refine ⟨?_, by rw [bytes]; rfl, fun k hk => ?_⟩
  · rw [bytes, List.length_cons, List.length_take, List.length_append, List.length_replicate]
    omega
  · rw [bytes, List.getD_cons_succ, List.getD_eq_getElem?_getD, List.getD_eq_getElem?_getD, List.getElem?_take_of_lt hk,
      List.getElem?_append]
    split
    · rfl
    · next past =>
      rw [List.getElem?_eq_none (Nat.le_of_not_lt past), List.getElem?_replicate]
      split <;> rfl

/-- Settles O24: the bits, the addressing, and the bytes of a read. -/
theorem statusRead : Obligations.StatusRead := by
  refine ⟨fun s => ?_, fun s address n => ⟨fun other => ?_, ?_⟩, fun s n => ?_⟩
  · obtain ⟨b0, b1, b2, b3, b4, b5, low⟩ := s.statusByte_bits
    obtain ⟨s0, s1, s2, s3, s4, s5⟩ := s.sources_bits
    refine ⟨b0, b1, b2, b3, b4, b5, low, s0, s1, s2, s3, s4, s5, ?_⟩
    rw [State.attention, decide_eq_true_eq, and_ne_zero_iff]
  · exact congrArg _ (if_pos other)
  · exact congrArg _ ((if_neg (not_not_intro rfl)).trans (if_pos rfl))
  · obtain ⟨length, head, bytes⟩ := readBytes_succ s n
    have row : exec (.statusRead s.address (n + 1)) s = .next (s.readTransaction (n + 1)) :=
      congrArg _ ((if_neg (not_not_intro rfl)).trans (if_neg (Nat.succ_ne_zero n)))
    have toEnd : s.readsToEnd (n + 1) = true ↔ s.port.responseReady = true ∧ s.port.resp.length ≤ n := by
      simp [State.readsToEnd]
    refine ⟨_, row, length, head, bytes, fun whole => ?_, fun part => ?_, rfl⟩
    · rw [State.readTransaction, toEnd.2 whole]
      simp [acknowledged]
    · rw [State.readTransaction, Bool.eq_false_iff.2 (mt toEnd.1 part)]
      simp [acknowledged]

end Sys2Proof.Machine
end

section
/-! PROOFS. The integrity commands (R151, R152), the port's reports (R170 to R172) and the bank commands (R155, R159,
R160). -/

namespace Sys2Proof.Machine

set_option Elab.async false

/-! ## Integrity -/

theorem injectModeOf_eq (mode : Byte) : injectModeOf mode =
    if mode ≠ 1 ∧ mode ≠ 2 then none else some (if mode = 1 then InjectMode.single else InjectMode.double) := by
  unfold injectModeOf
  split
  · next one => rw [show mode = 1 from BitVec.eq_of_toNat_eq one]; rfl
  · next two => rw [show mode = 2 from BitVec.eq_of_toNat_eq two]; rfl
  · next one two =>
    refine (if_pos ⟨fun same => one ?_, fun same => two ?_⟩).symm
    · rw [same]; rfl
    · rw [same]; rfl

theorem exec_injectRecord {s : State} (free : s.busy = false) (number : BitVec 16) (mode : Byte) :
    exec (.injectRecord number mode) s = .next (
      if 4095 < number.toNat ∨ (mode ≠ 1 ∧ mode ≠ 2) then s.answered (.injectRecord number mode) .badValue []
      else { s.answered (.injectRecord number mode) .ok [] with integrity := { s.integrity with
        armed := some ⟨.record number.toNat, if mode = 1 then InjectMode.single else InjectMode.double⟩ } }) := by
  rw [exec_hostCommand_of_free (c := .injectRecord number mode) rfl free, takeCommand, portInjectRecord,
    injectModeOf_eq]
  by_cases bad : mode ≠ 1 ∧ mode ≠ 2
  · rw [if_pos bad, if_pos (.inr bad)]
    rfl
  · rw [if_neg bad]
    dsimp only
    by_cases high : 4095 < number.toNat
    · rw [if_pos (show Config.slots ≤ number.toNat from high), if_pos (.inl high)]
      rfl
    · rw [if_neg (show ¬Config.slots ≤ number.toNat from high), if_neg (not_or.2 ⟨high, bad⟩)]
      rfl

theorem exec_injectBucket {s : State} (free : s.busy = false) (number : BitVec 16) (mode : Byte) :
    exec (.injectBucket number mode) s = .next (
      if 2047 < number.toNat ∨ (mode ≠ 1 ∧ mode ≠ 2) then s.answered (.injectBucket number mode) .badValue []
      else { s.answered (.injectBucket number mode) .ok [] with integrity := { s.integrity with
        armed := some ⟨.bucket number.toNat, if mode = 1 then InjectMode.single else InjectMode.double⟩ } }) := by
  rw [exec_hostCommand_of_free (c := .injectBucket number mode) rfl free, takeCommand, portInjectBucket,
    injectModeOf_eq]
  by_cases bad : mode ≠ 1 ∧ mode ≠ 2
  · rw [if_pos bad, if_pos (.inr bad)]
    rfl
  · rw [if_neg bad]
    dsimp only
    by_cases high : 2047 < number.toNat
    · rw [if_pos (show Config.buckets ≤ number.toNat from high), if_pos (.inl high)]
      rfl
    · rw [if_neg (show ¬Config.buckets ≤ number.toNat from high), if_neg (not_or.2 ⟨high, bad⟩)]
      rfl

theorem Integrity.flagsByte_eq (i : Integrity) :
    i.flagsByte = (if i.recordAgain then 1 else 0) + (if i.directoryAgain then 2 else 0) := by
  unfold Integrity.flagsByte
  cases i.recordAgain <;> cases i.directoryAgain <;> rfl

theorem beBytes_one_eq (n : Nat) : beBytes 1 n = [BitVec.ofNat 8 n] := by simp [beBytes]

/-- Settles O18: the two reports' commands, the two injections, and the bytes of the blocks. -/
theorem integrityCommands : Obligations.IntegrityCommands := by
  refine ⟨fun s free => ⟨exec_hostCommand_of_free (c := .readErrorReport) rfl free,
      exec_hostCommand_of_free (c := .clearErrorReport) rfl free⟩,
    fun s number mode free => ⟨exec_injectRecord free number mode, exec_injectBucket free number mode⟩, fun i => ⟨?_, ?_⟩⟩
  · rw [Integrity.reportBlock, i.flagsByte_eq]
    cases i.report with
    | none => rfl
    | some e =>
      obtain ⟨place, metBy, minute⟩ := e
      simp only [beBytes_one_eq]
      cases place <;> cases metBy <;> cases minute <;> rfl
  · unfold Integrity.injectionBlock
    cases i.armed with
    | none => rfl
    | some a =>
      obtain ⟨target, mode⟩ := a
      cases target <;> cases mode <;> rfl

end Sys2Proof.Machine
end

section
/-! PROOFS. The bank commands (R155, R159, R160). -/

namespace Sys2Proof.Machine

set_option Elab.async false

/-! ## Banks -/

theorem Four.lowest_isSome_iff {α : Type} {f : Four α} {p : α → Bool} :
    (f.lowest p).isSome = true ↔ ∃ i, p (f.get i) = true := by
  rw [← not_iff_not, Bool.not_eq_true, Option.isSome_eq_false_iff, Option.isNone_iff_eq_none, Four.lowest_eq_none]
  simp

theorem State.otherInService_iff (s : State) (b : Fin 4) :
    s.otherInService b = true ↔ ∃ x, x ≠ b ∧ (s.bank x).state = .inService := by
  rw [State.otherInService, Four.lowest_isSome_iff]
  refine exists_congr fun x => ?_
  by_cases here : x = b
  · rw [here, Four.get_set_same]
    simp
  · rw [Four.get_set_other _ _ here, decide_eq_true_eq]
    exact ⟨fun k => ⟨here, k⟩, fun k => k.2⟩

theorem State.evacuatingBank_isSome_iff (s : State) :
    s.evacuatingBank.isSome = true ↔ ∃ x, (s.bank x).state = .evacuating := by
  rw [← not_iff_not, Bool.not_eq_true, Option.isSome_eq_false_iff, Option.isNone_iff_eq_none,
    State.evacuatingBank_eq_none_iff, not_exists]

/-- EVACUATE BANK's WRONG_STATE (R155 step 3). -/
theorem State.cannotEvacuate_iff (s : State) (b : Fin 4) : s.cannotEvacuate b = true ↔
    (s.bank b).state ≠ .inService ∨ (∃ x, (s.bank x).state = .evacuating)
      ∨ ∀ x, x ≠ b → (s.bank x).state ≠ .inService := by
  have others : (!s.otherInService b) = true ↔ ∀ x, x ≠ b → (s.bank x).state ≠ .inService := by
    rw [Bool.not_eq_true', Bool.eq_false_iff, Ne, s.otherInService_iff]
    simp only [not_exists, not_and]
  rw [State.cannotEvacuate, Bool.or_eq_true, Bool.or_eq_true, decide_eq_true_eq, s.evacuatingBank_isSome_iff, others,
    or_assoc]

theorem State.bank_begunEvacuation (s : State) (b x : Fin 4) : (s.begunEvacuation b).bank x =
    if x = b then { s.bank b with state := .evacuating } else s.bank x := s.bank_setBank b x _

/-- The bank whose evacuation has begun is the one being evacuated. -/
theorem State.evacuatingBank_begunEvacuation {s : State} {b : Fin 4} (h : s.evacuatingBank = none) :
    (s.begunEvacuation b).evacuatingBank = some b :=
  (State.begunEvacuation_oneEvacuates h b (by rw [State.bank_begunEvacuation, if_pos rfl])).1

/-- An evacuation begun at a bank that holds no live slot completes at once (R155, R158). -/
theorem State.startEvacuation_cases {s : State} {b : Fin 4} (h : s.evacuatingBank = none) : s.startEvacuation b =
    if s.liveIn b = 0 then (s.begunEvacuation b).completeEvacuation b else s.begunEvacuation b := by
  have live : (s.begunEvacuation b).liveIn b = s.liveIn b := by
    rw [State.liveIn, State.bank_begunEvacuation, if_pos rfl]
    rfl
  rw [State.startEvacuation_eq, State.checkEvacuation, State.evacuatingBank_begunEvacuation h]
  dsimp only
  rw [live]

theorem State.freeCount_eq (s : State) :
    s.freeCount = (s.bank 0).free + (s.bank 1).free + (s.bank 2).free + (s.bank 3).free := rfl

/-- A bank's state takes no part in the free count. -/
theorem State.freeCount_congr {s s' : State} (h : ∀ x, (s'.bank x).free = (s.bank x).free) :
    s'.freeCount = s.freeCount := by
  rw [State.freeCount_eq, State.freeCount_eq, h, h, h, h]

/-! ## EVACUATE BANK -/

/-- What an accepted EVACUATE BANK leaves (R155). -/
theorem startEvacuation_leaves {s : State} {b : Fin 4} (h : s.evacuatingBank = none) :
    let t := s.startEvacuation b
    t.engine = { s.engine with movesMade := 0 }
      ∧ (∀ x, x ≠ b → t.bank x = s.bank x)
      ∧ (0 < s.liveIn b → t.bank b = { s.bank b with state := .evacuating } ∧ t.evacuatingBank = some b
          ∧ t.memory.bankFlag = s.memory.bankFlag ∧ t.freeCount = s.freeCount ∧ t.memory.bodies = s.memory.bodies)
      ∧ (s.liveIn b = 0 → t.bank b = { s.bank b with state := .outOfService, free := 0 }
          ∧ t.evacuatingBank = none ∧ t.memory.bankFlag = true)
      ∧ t.memory.tags = s.memory.tags ∧ (∀ x, bankIndex x ≠ b → t.body x = s.body x)
      ∧ t = { s with memory := t.memory, engine := t.engine } := by
  dsimp only
  have bank := s.bank_begunEvacuation b
  rw [State.startEvacuation_cases h]
  split
  · next empty =>
    have complete (x : Fin 4) : ((s.begunEvacuation b).completeEvacuation b).bank x =
        if x = b then { s.bank b with state := .outOfService, free := 0 } else s.bank x := by
      rw [State.bank_completeEvacuation, bank, if_pos rfl, bank]
      split <;> rfl
    refine ⟨rfl, fun x other => by rw [complete, if_neg other], fun live => absurd empty (Nat.ne_of_gt live),
      fun _ => ⟨by rw [complete, if_pos rfl], ?_, rfl⟩, rfl, fun x other => ?_, rfl⟩
    · refine State.evacuatingBank_eq_none_iff.2 fun x => ?_
      rw [complete]
      split
      · exact nofun
      · exact State.evacuatingBank_eq_none_iff.1 h x
    · refine (cellRead_erase (d := StoredBody.cleared) (m := s.memory.bodies)
        (fun slot => decide (bankIndex slot = b)) x).trans (if_neg ?_)
      rw [decide_eq_true_eq]
      exact other
  · next live =>
    refine ⟨rfl, fun x other => by rw [bank, if_neg other], fun _ => ⟨by rw [bank, if_pos rfl],
      State.evacuatingBank_begunEvacuation h, rfl, State.freeCount_congr fun x => ?_, rfl⟩,
      fun empty => absurd empty live, rfl, fun _ _ => rfl, rfl⟩
    rw [bank]
    split
    · next same => rw [same]
    · rfl

/-- EVACUATE BANK: its four refusals in order, and its acceptance (R155). -/
theorem exec_evacuateBank {s : State} (free : s.busy = false) (bank : Byte) : exec (.evacuateBank bank) s = .next (
    if s.port.notReady then s.answered (.evacuateBank bank) .notReady []
    else if 3 < bank.toNat then s.answered (.evacuateBank bank) .badValue []
    else if s.cannotEvacuate (bankIndex bank.toNat) then s.answered (.evacuateBank bank) .wrongState []
    else if s.roomOutside (bankIndex bank.toNat) < s.liveIn (bankIndex bank.toNat) then
      s.answered (.evacuateBank bank) .noRoom []
    else ((s.openWrite (HostCommand.evacuateBank bank).message).startEvacuation (bankIndex bank.toNat)).respond 0x38 .ok
      ([bank] ++ beBytes 2 (s.liveIn (bankIndex bank.toNat))
        ++ [(((s.openWrite (HostCommand.evacuateBank bank).message).startEvacuation (bankIndex bank.toNat)).bank
          (bankIndex bank.toNat)).state.code])) :=
  exec_hostCommand_of_free (c := .evacuateBank bank) rfl free

theorem State.roomOutside_of_inService {s : State} {b : Fin 4} (h : (s.bank b).state = .inService) :
    s.roomOutside b = s.allocatable - (s.bank b).free := by
  rw [State.roomOutside, Bank.allocatable, if_pos h]

/-! ## CANCEL EVACUATION and RETURN BANK -/

/-- A response changes nothing of the memory or the engine. -/
theorem State.respond_of_frame {t u : State} (h : t = { u with memory := t.memory, engine := t.engine }) (code : Byte)
    (st : Status) (fields : List Byte) : t.respond code st fields =
      { u.respond code st fields with memory := t.memory, engine := t.engine } :=
  congrArg (fun s => s.respond code st fields) h

theorem exec_cancelEvacuation {s : State} (free : s.busy = false) (ready : s.port.notReady = false) :
    exec .cancelEvacuation s = .next (match s.evacuatingBank with
      | none => s.answered .cancelEvacuation .wrongState []
      | some b => ((s.openWrite HostCommand.cancelEvacuation.message).endEvacuation b).respond 0x39 .ok
          ([BitVec.ofNat 8 b.val] ++ beBytes 2 s.engine.movesMade
            ++ beBytes 2 (((s.openWrite HostCommand.cancelEvacuation.message).endEvacuation b).liveIn b))) :=
  (exec_hostCommand_of_free (i := .cancelEvacuation) (c := .cancelEvacuation) rfl free).trans
    (congrArg _ (if_neg (by rw [State.openWrite_port, ready]; exact nofun)))

theorem State.bank_endEvacuation (s : State) (b x : Fin 4) : (s.endEvacuation b).bank x =
    if x = b then { s.bank b with state := .inService } else s.bank x := s.bank_setBank b x _

theorem State.liveIn_endEvacuation (s : State) (b : Fin 4) : (s.endEvacuation b).liveIn b = s.liveIn b := by
  rw [State.liveIn, State.bank_endEvacuation, if_pos rfl]
  rfl

theorem State.settle_engine_of_waits {s : State} {w : Requester → Bool} (h : s.waits = w) :
    s.settle.engine = { s.engine with
      waits := s.engine.waits.kept w
      begun := s.engine.begun.map fun b => { b with waits := b.waits.kept w } } := by
  rw [State.settle_engine, h]

theorem exec_returnBank {s : State} (free : s.busy = false) (bank : Byte) : exec (.returnBank bank) s = .next (
    if s.port.notReady then s.answered (.returnBank bank) .notReady []
    else if 3 < bank.toNat then s.answered (.returnBank bank) .badValue []
    else if (s.bank (bankIndex bank.toNat)).state ≠ .outOfService then s.answered (.returnBank bank) .wrongState []
    else ((s.openWrite (HostCommand.returnBank bank).message).setBank (bankIndex bank.toNat)
      { s.bank (bankIndex bank.toNat) with state := .initialising }).respond 0x3A .ok [bank,
        (((s.openWrite (HostCommand.returnBank bank).message).setBank (bankIndex bank.toNat)
          { s.bank (bankIndex bank.toNat) with state := .initialising }).bank (bankIndex bank.toNat)).state.code]) :=
  exec_hostCommand_of_free (i := .returnBank bank) (c := .returnBank bank) rfl free

/-- Settles O17: the refusals of each command, and what an accepted one leaves. -/
theorem bankCommands : Obligations.BankCommands := by
  refine ⟨fun s bank free => ⟨fun notReady => ?_, fun ready high => ?_, fun ready low wrong => ?_,
      fun ready low right full => ?_, fun ready low right room => ?_⟩,
    fun s free => ⟨fun notReady => ?_, fun ready none => ?_, fun b ready evacuating => ?_⟩, fun s bank free => ?_⟩
  · rw [exec_evacuateBank free, if_pos notReady]
  · rw [exec_evacuateBank free, ready, if_neg nofun, if_pos high]
  · rw [exec_evacuateBank free, ready, if_neg nofun, if_neg (Nat.not_lt.2 low),
      if_pos ((s.cannotEvacuate_iff _).2 wrong)]
  · have inService := Decidable.not_not.1 (not_or.1 right).1
    rw [exec_evacuateBank free, ready, if_neg nofun, if_neg (Nat.not_lt.2 low),
      if_neg (mt (s.cannotEvacuate_iff _).1 right), State.roomOutside_of_inService inService, if_pos full]
  · have inService := Decidable.not_not.1 (not_or.1 right).1
    have row := exec_evacuateBank free bank
    rw [ready, if_neg nofun, if_neg (Nat.not_lt.2 low), if_neg (mt (s.cannotEvacuate_iff _).1 right),
      State.roomOutside_of_inService inService, if_neg (Nat.not_lt.2 room)] at row
    have none : s.evacuatingBank = none :=
      State.evacuatingBank_of_canEvacuate (mt (s.cannotEvacuate_iff _).1 right)
    obtain ⟨engine, others, live, empty, tags, bodies, frame⟩ :=
      startEvacuation_leaves (s := s.openWrite (HostCommand.evacuateBank bank).message) (b := bankIndex bank.toNat) none
    exact ⟨_, row, engine, others, live, empty, tags, bodies, State.respond_of_frame frame _ _ _⟩
  · exact (exec_hostCommand_of_free (i := .cancelEvacuation) (c := .cancelEvacuation) rfl free).trans
      (congrArg _ (if_pos notReady))
  · rw [exec_cancelEvacuation free ready, none]
  · have row := exec_cancelEvacuation free ready
    rw [evacuating] at row
    dsimp only at row
    rw [State.liveIn_endEvacuation] at row
    refine ⟨_, row, rfl, State.freeCount_congr fun x => ?_, ?_, fun r => ?_, ?_⟩
    · refine (congrArg Bank.free (State.bank_endEvacuation _ b x)).trans ?_
      split
      · next same => exact congrArg (fun y => (s.bank y).free) same.symm
      · rfl
    all_goals
      have waits := State.waits_congr (s := (s.openWrite HostCommand.cancelEvacuation.message).setBank b
          { s.bank b with state := .inService })
        (s' := ((s.openWrite HostCommand.cancelEvacuation.message).endEvacuation b).respond 0x39 .ok
          ([BitVec.ofNat 8 b.val] ++ beBytes 2 s.engine.movesMade ++ beBytes 2 (s.liveIn b))) rfl rfl rfl rfl rfl rfl
    · exact State.settle_engine_of_waits waits.symm
    · exact (congrArg (fun e : RecordEngine => e.waits.get r) (State.settle_engine_of_waits waits.symm)).trans
        (s.engine.waits.kept_get _ r)
    · rfl
  · rw [exec_returnBank free]
    dsimp only
    rw [State.bank_setBank, if_pos rfl]
    rfl

end Sys2Proof.Machine
end

section
/-! PROOFS. The link's configuration and the line (R118, R119, R123). -/

namespace Sys2Proof.Machine

set_option Elab.async false

/-! ## Stores listed in order -/

theorem mem_of_cellRead_ne {α : Type} {d : α} {m : List (Nat × α)} {a : Nat} (listed : cellRead d m a ≠ d) :
    (a, cellRead d m a) ∈ m := by
  induction m with
  | nil => exact absurd rfl listed
  | cons e m ih =>
    obtain ⟨k, v⟩ := e
    rw [cellRead] at listed ⊢
    split at listed
    · next here => rw [if_pos here, here]; exact List.mem_cons_self
    · next other => rw [if_neg other]; exact List.mem_cons_of_mem _ (ih listed)

/-- The numbers a store lists under a test that its unlisted numbers fail, in the order of the numbers. -/
theorem cells_filter_eq {α : Type} {d : α} {m : List (Nat × α)} (wf : cellsWf d m) {q : α → Bool} (unlisted : q d = false)
    {n : Nat} (beyond : ∀ a, n ≤ a → q (cellRead d m a) = false) :
    (m.filter fun e => q e.2).map (·.1) = (List.range n).filter fun a => q (cellRead d m a) := by
  have rising : ((m.filter fun e => q e.2).map (·.1)).Pairwise (· < ·) :=
    List.pairwise_map.2 (wf.1.sublist List.filter_sublist)
  refine List.Pairwise.eq_of_mem_iff rising (List.pairwise_lt_range.sublist List.filter_sublist) fun a => ?_
  rw [List.mem_filter, List.mem_range, List.mem_map]
  constructor
  · rintro ⟨e, mem, rfl⟩
    obtain ⟨entry, test⟩ := List.mem_filter.1 mem
    have read : cellRead d m e.1 = e.2 := cellRead_of_mem wf.1 entry
    refine ⟨Nat.lt_of_not_le fun far => ?_, read ▸ test⟩
    have fails := beyond _ far
    rw [read, test] at fails
    cases fails
  · rintro ⟨_, test⟩
    have listed : cellRead d m a ≠ d := fun same => by
      rw [same, unlisted] at test
      cases test
    exact ⟨(a, cellRead d m a), List.mem_filter.2 ⟨mem_of_cellRead_ne listed, test⟩, rfl⟩

/-- The reply channels in use are the channels listed (R119). -/
theorem State.channelsInUse_eq {s : State} (wf : Memory.wf s) (free : ∀ n, 8 ≤ n → s.channel n = none) :
    s.link.channelsInUse = ((List.range 8).filter fun n => decide (s.channel n ≠ none)).length := by
  have wf : cellsWf none s.link.channels := wf.2.2.2.2.2
  have all : s.link.channels.filter (fun e => decide (e.2 ≠ none)) = s.link.channels :=
    List.filter_eq_self.2 fun e entry => decide_eq_true (wf.2 e entry)
  have numbers := cells_filter_eq (q := fun v => decide (v ≠ none)) wf rfl (n := 8) fun a far => by
    rw [decide_eq_false_iff_not, Ne, Decidable.not_not]
    exact free a far
  rw [all] at numbers
  exact (List.length_map ..).symm.trans (congrArg List.length numbers)

/-! ## The link block's codes -/

theorem bitRateOf_eq_none_iff (b : Byte) : bitRateOf b = none ↔ 3 < b.toNat := by
  unfold bitRateOf
  split <;> simp_all
  omega

theorem code_of_bitRateOf {b : Byte} {r : BitRate} (h : bitRateOf b = some r) : r.code = b := by
  refine BitVec.eq_of_toNat_eq ?_
  unfold bitRateOf at h
  split at h <;> cases h <;> simp_all [BitRate.code]

theorem parityOf_eq_none_iff (b : Byte) : parityOf b = none ↔ 2 < b.toNat := by
  unfold parityOf
  split <;> simp_all
  omega

theorem code_of_parityOf {b : Byte} {p : Parity} (h : parityOf b = some p) : p.code = b := by
  refine BitVec.eq_of_toNat_eq ?_
  unfold parityOf at h
  split at h <;> cases h <;> simp_all [Parity.code]

theorem twoStopBitsOf_eq_none_iff (b : Byte) : twoStopBitsOf b = none ↔ b ≠ 1 ∧ b ≠ 2 := by
  simp only [Ne, ← BitVec.toNat_inj]
  unfold twoStopBitsOf
  split <;> simp_all

theorem two_of_twoStopBitsOf {b : Byte} {two : Bool} (h : twoStopBitsOf b = some two) : two = true ↔ b = 2 := by
  rw [← BitVec.toNat_inj]
  unfold twoStopBitsOf at h
  split at h <;> cases h <;> simp_all

theorem keyLevelOf_eq_none_iff (b : Byte) : keyLevelOf b = none ↔ 1 < b.toNat := by
  unfold keyLevelOf
  split <;> simp_all
  omega

theorem high_of_keyLevelOf {b : Byte} {high : Bool} (h : keyLevelOf b = some high) : high = true ↔ b = 1 := by
  rw [← BitVec.toNat_inj]
  unfold keyLevelOf at h
  split at h <;> cases h <;> simp_all

/-- A link block with an item outside its values (R118). -/
def linkBlockBad (b : LinkBlock) : Prop :=
  3 < b.bitRate.toNat ∨ 2 < b.parity.toNat ∨ (b.stopBits ≠ 1 ∧ b.stopBits ≠ 2) ∨ 1 < b.keyLevel.toNat
    ∨ b.openDelay.toNat < 1 ∨ 32000 < b.openDelay.toNat ∨ b.window.toNat < 1 ∨ 32000 < b.window.toNat
    ∨ b.timeout.toNat < 1 ∨ 32000 < b.timeout.toNat ∨ 32000 < b.openDelay.toNat + b.window.toNat

theorem goodDelays_iff (b : LinkBlock) :
    (goodDelay b.openDelay && goodDelay b.window && goodDelay b.timeout
      && decide (b.openDelay.toNat + b.window.toNat ≤ Config.maxDelay)) = true ↔
    ¬(b.openDelay.toNat < 1 ∨ 32000 < b.openDelay.toNat ∨ b.window.toNat < 1 ∨ 32000 < b.window.toNat
      ∨ b.timeout.toNat < 1 ∨ 32000 < b.timeout.toNat ∨ 32000 < b.openDelay.toNat + b.window.toNat) := by
  simp only [goodDelay, Bool.and_eq_true, decide_eq_true_eq, show Config.maxDelay = 32000 from rfl]
  omega

/-- A block has no configuration exactly when an item is outside its values (R118). -/
theorem configOf_of_bad {b : LinkBlock} (bad : linkBlockBad b) : configOf b = none := by
  unfold configOf
  split
  · next rate parity two high isRate isParity isTwo isHigh =>
    refine if_neg fun good => (goodDelays_iff b).1 good ?_
    rcases bad with bad | bad | bad | bad | bad
    · rw [(bitRateOf_eq_none_iff _).2 bad] at isRate
      cases isRate
    · rw [(parityOf_eq_none_iff _).2 bad] at isParity
      cases isParity
    · rw [(twoStopBitsOf_eq_none_iff _).2 bad] at isTwo
      cases isTwo
    · rw [(keyLevelOf_eq_none_iff _).2 bad] at isHigh
      cases isHigh
    · exact bad
  · rfl

theorem configOf_of_not_bad {b : LinkBlock} (good : ¬linkBlockBad b) : ∃ c, configOf b = some c
    ∧ c.bitRate.code = b.bitRate ∧ c.parity.code = b.parity ∧ (c.twoStopBits = true ↔ b.stopBits = 2)
    ∧ c.openDelay = b.openDelay.toNat ∧ c.window = b.window.toNat ∧ c.timeout = b.timeout.toNat
    ∧ (c.keyActiveHigh = true ↔ b.keyLevel = 1) := by
  simp only [linkBlockBad, not_or] at good
  obtain ⟨rateIn, parityIn, twoIn, highIn, delays⟩ := good
  obtain ⟨rate, isRate⟩ := Option.ne_none_iff_exists'.1 (mt (bitRateOf_eq_none_iff _).1 rateIn)
  obtain ⟨parity, isParity⟩ := Option.ne_none_iff_exists'.1 (mt (parityOf_eq_none_iff _).1 parityIn)
  obtain ⟨two, isTwo⟩ := Option.ne_none_iff_exists'.1 (mt (twoStopBitsOf_eq_none_iff _).1 twoIn)
  obtain ⟨high, isHigh⟩ := Option.ne_none_iff_exists'.1 (mt (keyLevelOf_eq_none_iff _).1 highIn)
  refine ⟨⟨rate, parity, two, b.openDelay.toNat, b.window.toNat, b.timeout.toNat, high⟩, ?_,
    code_of_bitRateOf isRate, code_of_parityOf isParity, two_of_twoStopBitsOf isTwo, rfl, rfl, rfl,
    high_of_keyLevelOf isHigh⟩
  rw [configOf, isRate, isParity, isTwo, isHigh]
  exact if_pos ((goodDelays_iff b).2 (by simpa only [not_or] using delays))

theorem flagByte_isSome {α : Type} (o : Option α) [Decidable (o = none)] :
    flagByte o.isSome = if o = none then 0#8 else 1 := by
  cases o <;> simp [flagByte]

/-- Length byte and payload of a GRANT packet (R125). -/
def grantBody (g : Grant) : List Byte :=
  [14#8, 0x02] ++ beBytes 4 g.kit.toNat ++ beBytes 2 g.serial.toNat ++ [standingCode (some g.standing)]
    ++ beBytes 3 g.minutes ++ beBytes 2 g.grace ++ [g.echo]

theorem grantPayload_length (g : Grant) : (grantPayload g).length = 14 := rfl

theorem grantBody_eq (g : Grant) : BitVec.ofNat 8 (grantPayload g).length :: grantPayload g = grantBody g := by
  rw [grantPayload_length]
  rfl

theorem packet_grantPayload (g : Grant) :
    packet (grantPayload g) = 0xA7#8 :: (grantBody g ++ beBytes 2 (crc (grantBody g)).toNat) := by
  rw [packet, grantBody_eq]

theorem packet_grantPayload_length (g : Grant) : (packet (grantPayload g)).length = 18 := by
  rw [packet_grantPayload, List.length_cons, List.length_append, show (grantBody g).length = 15 from rfl,
    show ∀ n, (beBytes 2 n).length = 2 from fun _ => rfl]

/-! ## SET LINK, READ LINK and the line -/

theorem exec_setLink {s : State} (free : s.busy = false) (b : LinkBlock) : exec (.setLink b) s = .next (
    match configOf b with
    | none => s.answered (.setLink b) .badValue []
    | some c =>
      if s.link.state ≠ .disabled then s.answered (.setLink b) .wrongState []
      else { s.answered (.setLink b) .ok ({ s.link with config := c }).report with
        link := { s.link with config := c } }) :=
  exec_hostCommand_of_free (i := .setLink b) (c := .setLink b) rfl free

theorem LinkConfig.bitsOf_length (c : LinkConfig) (ch : LineChar) : (c.bitsOf ch).length =
    10 + (if c.parity = .without then 0 else 1) + (if c.twoStopBits then 1 else 0) := by
  unfold LinkConfig.bitsOf dataBits
  split <;> split <;> rfl

theorem LinkConfig.sendBits_length (c : LinkConfig) (bytes : List Byte) : (c.sendBits bytes).length =
    bytes.length * (10 + (if c.parity = .without then 0 else 1) + (if c.twoStopBits then 1 else 0)) := by
  have each : (List.length ∘ fun b => c.bitsOf (c.sendChar b)) = fun _ =>
      10 + (if c.parity = .without then 0 else 1) + (if c.twoStopBits then 1 else 0) :=
    funext fun b => c.bitsOf_length (c.sendChar b)
  rw [LinkConfig.sendBits, List.length_flatten, List.map_map, each, List.map_const', List.sum_replicate, smul_eq_mul]

/-- Settles O14, by the block's codes, the channels listed in order and the bits of one character. -/
theorem linkConfiguration : Obligations.LinkConfiguration := by
  refine ⟨fun s b free => ⟨fun bad => ?_, fun good other => ?_, fun good disabled => ?_, ?_⟩, fun s wf beyond => ?_,
    ⟨rfl, rfl, rfl, rfl⟩, fun c b => ?_, fun s => ⟨fun idle => ?_, fun n k ch sending used => ?_⟩⟩
  · rw [exec_setLink free, configOf_of_bad bad]
  · obtain ⟨c, block, _⟩ := configOf_of_not_bad good
    rw [exec_setLink free, block]
    exact congrArg _ (if_pos other)
  · obtain ⟨c, block, rate, parity, two, openDelay, window, timeout, high⟩ := configOf_of_not_bad good
    refine ⟨c, rate, parity, two, openDelay, window, timeout, high, ?_, fun idle => ?_⟩
    · rw [exec_setLink free, block]
      exact congrArg _ (if_neg (not_not.2 disabled))
    · rw [State.keyLine]
      dsimp only
      rw [idle]
  · exact exec_hostCommand_of_free (i := .readLink) (c := .readLink) rfl free
  · dsimp only
    rw [← State.channelsInUse_eq wf beyond, KitLink.report, flagByte_isSome]
    rfl
  · dsimp only
    unfold LinkConfig.bitsOf LinkConfig.sendChar
    rw [← even_iff_not_odd, ← oddOnes_eq]
    cases c.parity <;> cases c.twoStopBits <;> rfl
  · rw [State.packetOnLine, idle]
  · have line : s.packetOnLine = some (s.link.config.sendBits (packet (grantPayload ch.grant))) := by
      rw [State.packetOnLine, sending]
      dsimp only
      rw [used, Option.map_some]
    refine ⟨?_, ?_⟩
    · rw [line, packet_grantPayload, LinkConfig.sendBits]
      rfl
    · rw [line, Option.getD_some, LinkConfig.sendBits_length, packet_grantPayload_length]

end Sys2Proof.Machine
end

section
/-! PROOFS. The port's reports and the attention mask (R169 to R172). -/

namespace Sys2Proof.Machine

set_option Elab.async false

/-! ## IDENTIFY -/

/-- The lowest part of four with a property is the first such part of the four in order. -/
theorem Four.lowest_eq_find? {α : Type} (f : Four α) (p : α → Bool) :
    f.lowest p = (List.finRange 4).find? fun i => p (f.get i) := by
  rw [show List.finRange 4 = [0, 1, 2, 3] from rfl]
  simp only [find?_cons_ite, List.find?_nil]
  rfl

/-- The parts of four with a property, counted. -/
theorem length_filter_finRange_four (q : Fin 4 → Bool) :
    ((List.finRange 4).filter q).length = oneIf (q 0) + oneIf (q 1) + oneIf (q 2) + oneIf (q 3) := by
  have add_bit (n : Nat) (b : Bool) : (if b = true then n + 1 else n) = n + oneIf b := by cases b <;> rfl
  rw [show List.finRange 4 = [0, 1, 2, 3] from rfl, ← List.countP_eq_length_filter]
  simp only [List.countP_cons, List.countP_nil, oneIf]
  omega

theorem State.slotsInService_eq (s : State) : s.slotsInService = 1024 * ((List.finRange 4).filter fun b =>
    decide ((s.bank b).state = .inService) || decide ((s.bank b).state = .evacuating)).length := by
  rw [length_filter_finRange_four]
  rfl

/-! ## READ STATUS -/

theorem State.rebuilding_eq {s : State} (wf : Memory.wf s) (beyond : ∀ b, 2048 ≤ b → (s.bucket b).state = .normal) :
    s.dir.rebuilding = (List.range 2048).filter fun b => decide ((s.bucket b).state ≠ .normal) := by
  refine cells_filter_eq (q := Bucket.isRebuilding) wf.2.2.1 rfl fun a far => ?_
  exact decide_eq_false (not_not.2 (beyond a far))

theorem beBytes_two_headD (l : List Nat) : beBytes 2 (l.headD 0xFFFF) =
    match l.head? with
    | none => [0xFF#8, 0xFF]
    | some b => beBytes 2 b := by
  cases l <;> rfl

theorem State.evacuatingCode_eq (s : State) : [s.evacuatingCode] =
    match (List.finRange 4).find? fun b => decide ((s.bank b).state = .evacuating) with
    | none => [0xFF#8]
    | some b => beBytes 1 b.val := by
  have find : s.evacuatingBank = (List.finRange 4).find? fun b => decide ((s.bank b).state = .evacuating) :=
    Four.lowest_eq_find? _ _
  rw [State.evacuatingCode, ← find]
  cases s.evacuatingBank with
  | none => rfl
  | some b => exact (beBytes_one_eq b.val).symm

/-- The status block's 32 bytes (R172). -/
theorem State.statusBlock_length (s : State) : s.statusBlock.length = 32 := by
  have two (n : Nat) : (beBytes 2 n).length = 2 := rfl
  simp only [State.statusBlock, List.length_append, two, List.length_cons, List.length_nil]

theorem beBytes_one_of_six (x : BitVec 6) : [x.zeroExtend 8] = beBytes 1 x.toNat := by
  rw [beBytes_one_eq, BitVec.ofNat_toNat]

theorem ClockState.code_eq (c : ClockState) : c.code = if c = .running then 1#8 else 0#8 := by
  cases c <;> rfl

/-- The status block item by item (R172). -/
theorem State.statusBlock_eq (s : State) : s.statusBlock =
    beBytes 2 s.engine.enrolled ++ beBytes 2 s.engine.running ++ beBytes 2 s.engine.suspended
      ++ beBytes 2 s.engine.owned ++ beBytes 2 s.freeCount ++ beBytes 2 s.engine.damaged ++ beBytes 2 s.engine.marked
      ++ [(s.bank 0).state.code, (s.bank 1).state.code, (s.bank 2).state.code, (s.bank 3).state.code]
      ++ [s.evacuatingCode] ++ beBytes 2 s.engine.movesMade
      ++ beBytes 2 s.dir.rebuilding.length ++ beBytes 2 (s.dir.rebuilding.headD 0xFFFF)
      ++ [s.time.clock.code, flagByte s.time.inputLost, s.link.state.code]
      ++ beBytes 2 s.sweep.pass.toNat ++ beBytes 1 s.port.mask.toNat ++ beBytes 1 s.sources.toNat := by
  rw [← beBytes_one_of_six, ← beBytes_one_of_six, State.statusBlock]
  simp only [List.append_assoc]
  rfl

/-! ## SET ATTENTION -/

/-- The state of an accepted SET ATTENTION before its response is formed (R170). -/
def State.masked (s : State) (mask : Byte) : State :=
  { s with port := { s.port with mask := mask.truncate 6, responseReady := true } }

theorem exec_setAttention {s : State} (free : s.busy = false) (mask : Byte) : exec (.setAttention mask) s = .next (
    if 63 < mask.toNat then s.answered (.setAttention mask) .badValue []
    else ((s.openWrite (HostCommand.setAttention mask).message).masked mask).respond 0x52 .ok
      [mask, ((s.openWrite (HostCommand.setAttention mask).message).masked mask).sources.zeroExtend 8]) :=
  exec_hostCommand_of_free (i := .setAttention mask) (c := .setAttention mask) rfl free

/-- A response that is ready already adds no source. -/
theorem State.sources_respond {s : State} (ready : s.port.responseReady = true) (code : Byte) (st : Status)
    (fields : List Byte) : (s.respond code st fields).sources = s.sources := by
  unfold State.sources
  rw [ready]
  rfl

/-- Settles O19: each report byte by byte, and the mask with the line that follows it. -/
theorem portReports : Obligations.PortReports := by
  refine ⟨fun s free => ?_, fun s free => ⟨?_, State.statusBlock_length _⟩, fun s mask free => ⟨fun high => ?_,
    fun low => ?_⟩, fun s wf beyond => ?_⟩
  · rw [← s.slotsInService_eq]
    exact exec_hostCommand_of_free (i := .identify) (c := .identify) rfl free
  · exact exec_hostCommand_of_free (i := .readStatus) (c := .readStatus) rfl free
  · rw [exec_setAttention free, if_pos high]
  · have row := exec_setAttention free mask
    rw [if_neg (Nat.not_lt.2 low)] at row
    have sources := State.sources_respond (s := (s.openWrite (HostCommand.setAttention mask).message).masked mask) rfl
    refine ⟨_, row, rfl, ?_, ?_, rfl, ?_⟩
    · rw [(State.sources_bits _).1]
      rfl
    · rw [sources]
      rfl
    · rw [sources]
      rfl
  · dsimp only
    rw [← s.rebuilding_eq wf beyond, s.statusBlock_eq, s.evacuatingCode_eq, beBytes_two_headD, ClockState.code_eq]
    rfl

end Sys2Proof.Machine
end

section
/-! PROOFS. Release, standing and the evaluation of a visit (R39, R54, R55, R142), and the end of a pass (R144). -/

namespace Sys2Proof.Machine

set_option Elab.async false

/-! ## Release -/

theorem releaseMove_le (lc : Lifecycle) (r : Record) (now horizon : Nat) :
    releaseMove lc r now horizon ≤ r.reserve := by
  rw [releaseMove]
  split
  · exact Nat.min_le_left _ _
  · exact Nat.zero_le _

/-- A release changes the expiry and the reserve alone (R39). -/
theorem releaseRecord_frame (lc : Lifecycle) (r : Record) (now horizon : Nat) :
    ∃ expiry reserve, releaseRecord lc r now horizon = { r with expiry := expiry, reserve := reserve } := by
  unfold releaseRecord
  dsimp only
  split
  · exact ⟨r.expiry, r.reserve, rfl⟩
  · exact ⟨_, _, rfl⟩

theorem releaseRecord_reserve (lc : Lifecycle) (r : Record) (now horizon : Nat) :
    (releaseRecord lc r now horizon).reserve = r.reserve - releaseMove lc r now horizon := by
  rw [releaseRecord]
  split
  · next still => rw [still, Nat.sub_zero]
  · rfl

/-- A release moves minutes exactly when the reserve falls. -/
theorem reserve_lt_iff_moves (lc : Lifecycle) (r : Record) (now horizon : Nat) :
    (releaseRecord lc r now horizon).reserve < r.reserve ↔ releaseMove lc r now horizon ≠ 0 := by
  have within := releaseMove_le lc r now horizon
  rw [releaseRecord_reserve]
  omega

/-- Settles O53: minutes move only in a RUNNING record with a reserve and room. -/
theorem release : Obligations.Release := by
  intro lc r now horizon
  rw [releaseRecord, releaseMove, roomFor]
  by_cases running : lc = .running
  · rw [if_pos running]
    dsimp only
    split
    · next still => rw [if_neg fun moves => by omega]
    · next moves => rw [if_pos ⟨running, Nat.pos_of_ne_zero moves⟩]
  · rw [if_neg running]
    exact (if_pos rfl).trans (if_neg fun moves => running moves.1).symm

/-! ## Standing -/

/-- Of the record, the standing reads the expiry alone (R54). -/
theorem standingOf_congr {r r' : Record} (expiry : r'.expiry = r.expiry) (damaged : Bool) (lc : Lifecycle) (grace : Nat)
    (clock : Option Nat) : standingOf damaged lc r' grace clock = standingOf damaged lc r grace clock := by
  unfold standingOf
  rw [expiry]

theorem standingOf_running (r : Record) (grace now : Nat) : standingOf false .running r grace (some now) =
    some (if now < r.expiry then .credit else if now < r.expiry + grace then .grace else .locked) := rfl

theorem standingOf_keep {damaged : Bool} {lc : Lifecycle} {clock : Option Nat} (live : lc ≠ .free)
    (keep : damaged = true ∨ clock = none) (r : Record) (grace : Nat) :
    standingOf damaged lc r grace clock = some .keep := by
  rcases keep with rfl | rfl
  · cases clock <;> cases lc <;> first | rfl | exact absurd rfl live
  · cases lc <;> first | rfl | exact absurd rfl live

theorem grantMinutes_eq (st : Standing) (expiry now : Nat) :
    grantMinutes st expiry now = if st = .credit then expiry - now else 0 := by
  cases st <;> rfl

theorem grantGrace_eq (st : Standing) (expiry grace now : Nat) : grantGrace st expiry grace now =
    if st = .credit then grace else if st = .grace then expiry + grace - now else 0 := by
  cases st <;> rfl

theorem standingOf_isSome {lc : Lifecycle} (live : lc ≠ .free) (damaged : Bool) (r : Record) (grace : Nat)
    (clock : Option Nat) : ∃ st, standingOf damaged lc r grace clock = some st := by
  cases clock <;> cases lc <;> first | exact ⟨_, rfl⟩ | exact absurd rfl live

/-- Settles O56: the rows of R54's table and R55's figures. -/
theorem standingAndGrant : Obligations.StandingAndGrant := by
  intro damaged lc r grace clock live
  refine ⟨?_, fun keep => ?_, ?_⟩
  · obtain ⟨st, known⟩ := standingOf_isSome live damaged r grace clock
    rw [known, Option.getD_some]
  · rw [standingOf_keep live keep, Option.getD_some]
  · rintro now rfl rfl
    refine ⟨?_, ?_, ?_, ?_, grantMinutes_eq .., grantGrace_eq ..⟩ <;> (rintro rfl; rfl)

/-! ## The evaluation of a visit -/

/-- A credit change arms the record and clears lapse noted when the standing is CREDIT (R37). -/
theorem creditChange_eq (lc : Lifecycle) (r : Record) (grace now : Nat) : (Account.mk lc r).creditChange grace now =
    ⟨lc, { r with
      awaiting := some (r.issued + 1)
      lapseNoted := (Account.mk lc r).lapseLeft r.lapseNoted grace now
      marks := { r.marks with changed := true } }⟩ := by
  rw [Account.creditChange, Account.lapseLeft]
  dsimp only
  split
  · next credit => rw [credit]; simp [Record.arm]
  · next other => simp [other, Record.arm]

theorem Record.noteLapse_eq (r : Record) (st : Option Standing) : r.noteLapse st = { r with
    lapseNoted := r.lapseNoted || decide (st = some .locked ∧ r.lapseNoted = false)
    marks := { r.marks with lapsed := r.marks.lapsed || decide (st = some .locked ∧ r.lapseNoted = false) } } := by
  rw [Record.noteLapse]
  split
  · next lapses => simp [lapses]
  · next stays => rw [decide_eq_false stays, Bool.or_false, Bool.or_false]

theorem Record.noteSilence_eq (r : Record) (c : TariffClass) (now : Nat) : r.noteSilence c now = { r with
    silenceNoted := r.silenceNoted || r.silentAt c now
    marks := { r.marks with silent := r.marks.silent || r.silentAt c now } } := by
  rw [Record.noteSilence]
  split
  · next silent => rw [silent, Bool.or_true, Bool.or_true]
  · next heard => rw [Bool.eq_false_iff.2 heard, Bool.or_false, Bool.or_false]

theorem Record.silentAt_eq (r : Record) (c : TariffClass) (now : Nat) : r.silentAt c now =
    (decide (c.silence ≠ 0) && !r.silenceNoted && (r.lastCheckIn.any fun last => decide (c.silence ≤ now - last))) := by
  rw [Record.silentAt]
  cases r.lastCheckIn with
  | none => simp
  | some last => simp only [Option.any_some]; rw [Bool.and_right_comm]

/-- The release of a visit, with the credit change of one that moves minutes (R142). -/
theorem releaseVisited_eq (lc : Lifecycle) (r : Record) (c : TariffClass) (now : Nat) :
    let r1 := releaseRecord lc r now c.horizon
    let moved := r1.reserve < r.reserve
    releaseVisited lc r c now = { r1 with
      awaiting := if moved then some (r.issued + 1) else r.awaiting
      lapseNoted := if moved ∧ standingOf false lc r1 c.grace (some now) = some .credit then false else r.lapseNoted
      marks := { r.marks with changed := r.marks.changed || decide moved } } := by
  dsimp only
  rw [releaseVisited]
  by_cases still : releaseMove lc r now c.horizon = 0
  · have stays : ¬(releaseRecord lc r now c.horizon).reserve < r.reserve := fun moved =>
      (reserve_lt_iff_moves ..).1 moved still
    have same : releaseRecord lc r now c.horizon = r := if_pos still
    rw [if_pos still, if_neg stays, if_neg fun moved => stays moved.1, decide_eq_false stays, Bool.or_false, same]
  · have moved := (reserve_lt_iff_moves ..).2 still
    rw [if_neg still, if_pos moved, decide_eq_true moved, Bool.or_true, creditChange_eq, Account.lapseLeft,
      Account.standing]
    obtain ⟨expiry, reserve, released⟩ := releaseRecord_frame lc r now c.horizon
    rw [released] at moved ⊢
    by_cases credit : standingOf false lc { r with expiry := expiry, reserve := reserve } c.grace (some now) = some .credit
    · rw [if_pos ⟨moved, credit⟩, credit, decide_eq_false (not_not.2 rfl), Bool.and_false]
    · rw [if_neg fun both => credit both.2, decide_eq_true credit, Bool.and_true]

/-- Settles O50, step by step of R142. -/
theorem visitEvaluation : Obligations.VisitEvaluation := by
  intro lc r c now
  obtain ⟨expiry, reserve, released⟩ := releaseRecord_frame lc r now c.horizon
  have visited : releaseVisited lc r c now = _ := releaseVisited_eq lc r c now
  unfold visitedRecord
  rw [visited, released]
  dsimp only
  rw [Record.noteSilence_eq, Record.silentAt_eq, Record.noteLapse_eq]
  rfl

/-! ## The end of a pass -/

theorem Bucket.endPass_eq (ending : BitVec 16) (k : Bucket) : k.endPass ending =
    { k with state := match k.state with
        | .normal => .normal
        | .rebuilding pass => if pass = ending then .rebuilding pass else .normal } := by
  obtain ⟨ways, state⟩ := k
  cases state with
  | normal => rfl
  | rebuilding pass =>
    rw [Bucket.endPass]
    dsimp only
    split <;> rfl

theorem State.bucket_endPass {s : State} (wf : cellsWf Bucket.cleared s.dir.buckets) (b : Nat) :
    s.endPass.bucket b = (s.bucket b).endPass s.sweep.pass :=
  cellRead_map wf.1 _ rfl b

/-- Settles O51: each bucket at the end of the pass. -/
theorem passEnd : Obligations.PassEnd := by
  intro s b wf
  refine ⟨?_, ?_, rfl⟩
  · rw [State.bucket_endPass wf.2.2.1, Bucket.endPass_eq]
  · exact (congrArg Bucket.state ((State.bucket_endPass wf.2.2.1 b).trans (Bucket.endPass_eq _ _))).trans rfl

end Sys2Proof.Machine
end

section
/-! PROOFS. The credit computations (R37, R41 to R53). -/

namespace Sys2Proof.Machine

set_option Elab.async false

/-! ## Placing minutes -/

/-- Placing minutes changes the expiry, the frozen credit and the prior lifecycle alone (R44, R45). -/
theorem placeMinutes_frame (a : Account) (applied now : Nat) : ∃ expiry frozen prior,
    placeMinutes a applied now = { a.r with expiry := expiry, frozen := frozen, prior := prior } := by
  unfold placeMinutes
  split
  · exact ⟨a.r.expiry, _, _, rfl⟩
  · exact ⟨_, a.r.frozen, a.r.prior, rfl⟩

theorem appliedMinutes_suspended (r : Record) (m now horizon : Nat) :
    appliedMinutes ⟨.suspended, r⟩ m now horizon = min m (horizon - r.frozen.getD 0) := rfl

theorem appliedMinutes_of_ne {lc : Lifecycle} (other : lc ≠ .suspended) (r : Record) (m now horizon : Nat) :
    appliedMinutes ⟨lc, r⟩ m now horizon = min m (now + horizon - max r.expiry now) := by
  cases lc <;> first | rfl | exact absurd rfl other

theorem placeMinutes_of_ne {lc : Lifecycle} (other : lc ≠ .suspended) (r : Record) (applied now : Nat) :
    placeMinutes ⟨lc, r⟩ applied now = { r with expiry := max r.expiry now + applied } := by
  cases lc <;> first | rfl | exact absurd rfl other

theorem appliedMinutes_le (a : Account) (m now horizon : Nat) : appliedMinutes a m now horizon ≤ m := by
  obtain ⟨lc, r⟩ := a
  by_cases suspended : lc = .suspended
  · rw [suspended, appliedMinutes_suspended]
    exact Nat.min_le_left _ _
  · rw [appliedMinutes_of_ne suspended]
    exact Nat.min_le_left _ _

/-- The record as placed holds the minutes applied (R44, R45). -/
theorem placesMinutes_placeMinutes (lc : Lifecycle) (r : Record) (m now horizon : Nat) :
    PlacesMinutes lc r (placeMinutes ⟨lc, r⟩ (appliedMinutes ⟨lc, r⟩ m now horizon) now) m
      (appliedMinutes ⟨lc, r⟩ m now horizon) now horizon := by
  constructor
  · intro other
    rw [placeMinutes_of_ne other]
    exact ⟨appliedMinutes_of_ne other .., rfl, rfl, rfl⟩
  · rintro rfl
    exact ⟨rfl, rfl, rfl, rfl⟩

/-- Lapse noted after a credit change reads, of the record, the expiry alone. -/
theorem lapseLeft_congr {lc : Lifecycle} {r r' : Record} (expiry : r'.expiry = r.expiry) (noted : Bool)
    (grace now : Nat) : (Account.mk lc r').lapseLeft noted grace now = (Account.mk lc r).lapseLeft noted grace now := by
  rw [Account.lapseLeft, Account.standing, standingOf_congr expiry]
  rfl

/-! ## Top-up -/

/-- The account of a top-up that is no pay-off (R43 to R47), from the record left by the release. -/
def boughtAccount (lc : Lifecycle) (r : Record) (c : TariffClass) (amount now : Nat) : Account :=
  let bought := (amount * 1440 + r.residue) / c.price
  let applied := appliedMinutes ⟨lc, r⟩ bought now c.horizon
  ⟨startRunning lc, { placeBought ⟨lc, r⟩ bought applied now with
    outstanding := r.outstanding - amount
    paidTotal := paidAfter r.paidTotal amount
    residue := (amount * 1440 + r.residue) % c.price
    reserve := r.reserve + (bought - applied) }⟩

/-- A top-up that is no pay-off is refused when the reserve's bound would be passed (R46). -/
theorem buyMinutes_eq (lc : Lifecycle) (r : Record) (c : TariffClass) (amount now : Nat) :
    let bought := (amount * 1440 + r.residue) / c.price
    let applied := appliedMinutes ⟨lc, r⟩ bought now c.horizon
    buyMinutes ⟨lc, r⟩ c amount now =
      if 1048575 < r.reserve + (bought - applied) then none
      else some ⟨(boughtAccount lc r c amount now).creditChange c.grace now, applied, (bought - applied : Nat), 0, 0⟩ := rfl

theorem placeBought_frame (a : Account) (bought applied now : Nat) : ∃ expiry frozen prior,
    placeBought a bought applied now = { a.r with expiry := expiry, frozen := frozen, prior := prior } := by
  rw [placeBought]
  split
  · exact ⟨a.r.expiry, a.r.frozen, a.r.prior, rfl⟩
  · exact placeMinutes_frame a applied now

/-- The lifecycle, the money and the reserve of a purchase (R43, R46, R47). -/
theorem boughtAccount_figures (lc : Lifecycle) (r : Record) (c : TariffClass) (amount now grace : Nat) :
    let account := (boughtAccount lc r c amount now).creditChange grace now
    let bought := (amount * 1440 + r.residue) / c.price
    account.lc = (if lc = .enrolled then .running else lc) ∧ account.r.outstanding = r.outstanding - amount
      ∧ account.r.paidTotal = min (r.paidTotal + amount) 4294967295
      ∧ account.r.residue = (amount * 1440 + r.residue) % c.price
      ∧ account.r.reserve = r.reserve + (bought - appliedMinutes ⟨lc, r⟩ bought now c.horizon) := by
  dsimp only
  rw [boughtAccount, creditChange_eq]
  exact ⟨rfl, rfl, rfl, rfl, rfl⟩

/-- A purchase is a credit change (R37). -/
theorem creditChanged_boughtAccount (lc : Lifecycle) (r : Record) (c : TariffClass) (amount now grace : Nat) :
    CreditChanged r ((boughtAccount lc r c amount now).creditChange grace now).r := by
  obtain ⟨expiry, frozen, prior, placed⟩ := placeBought_frame ⟨lc, r⟩ ((amount * 1440 + r.residue) / c.price)
    (appliedMinutes ⟨lc, r⟩ ((amount * 1440 + r.residue) / c.price) now c.horizon) now
  rw [boughtAccount, creditChange_eq]
  dsimp only
  rw [placed]
  exact ⟨rfl, rfl, rfl, rfl, rfl, rfl, rfl, rfl, rfl⟩

theorem lapseNoted_boughtAccount (lc : Lifecycle) (r : Record) (c : TariffClass) (amount now grace : Nat) :
    let account := (boughtAccount lc r c amount now).creditChange grace now
    account.r.lapseNoted = account.lapseLeft r.lapseNoted grace now := by
  obtain ⟨expiry, frozen, prior, placed⟩ := placeBought_frame ⟨lc, r⟩ ((amount * 1440 + r.residue) / c.price)
    (appliedMinutes ⟨lc, r⟩ ((amount * 1440 + r.residue) / c.price) now c.horizon) now
  rw [boughtAccount, creditChange_eq]
  dsimp only
  rw [placed]
  exact (lapseLeft_congr rfl _ _ _).symm

/-- Where the minutes bought are placed (R44, R45, R47). -/
theorem boughtAccount_places (lc : Lifecycle) (r : Record) (c : TariffClass) (amount now grace : Nat) :
    let bought := (amount * 1440 + r.residue) / c.price
    let applied := appliedMinutes ⟨lc, r⟩ bought now c.horizon
    let after := ((boughtAccount lc r c amount now).creditChange grace now).r
    (¬(lc = .enrolled ∧ bought = 0) → PlacesMinutes lc r after bought applied now c.horizon)
      ∧ (lc = .enrolled ∧ bought = 0 → applied = 0 ∧ after.expiry = r.expiry ∧ after.frozen = r.frozen
        ∧ after.prior = r.prior) := by
  dsimp only
  rw [boughtAccount, creditChange_eq]
  dsimp only
  constructor
  · intro placed
    rw [placeBought, if_neg placed]
    exact placesMinutes_placeMinutes lc r _ now c.horizon
  · intro none
    rw [placeBought, if_pos none, none.2]
    exact ⟨Nat.le_zero.1 (appliedMinutes_le _ _ _ _), rfl, rfl, rfl⟩

/-- Amount and residue make exactly the minutes bought and the new residue (R43). -/
theorem money_kept {n price applied : Nat} (within : applied ≤ n / price) :
    ((applied : Int) + (n / price - applied : Nat)) * price + (n % price : Nat) = n := by
  have parts : (applied + (n / price - applied)) * price + n % price = n := by
    rw [Nat.add_sub_of_le within, Nat.div_add_mod']
  exact_mod_cast parts

/-- Settles O54: the pay-off, and the purchase with its division of the money-minutes. -/
theorem topUpKeepsMoney : Obligations.TopUpKeepsMoney := by
  intro a c amount now priced
  dsimp only
  obtain ⟨expiry, reserve, released⟩ := releaseRecord_frame a.lc a.r now c.horizon
  rw [topUp, released]
  by_cases paysOff : a.r.outstanding ≤ amount
  · rw [if_pos paysOff]
    dsimp only
    rw [if_pos paysOff]
    exact ⟨Nat.sub_add_cancel paysOff, rfl, rfl, rfl, rfl, rfl, rfl, rfl, rfl, rfl, rfl,
      ⟨rfl, rfl, rfl, rfl, rfl, rfl, rfl, rfl, rfl⟩, rfl, rfl⟩
  · rw [if_neg paysOff, buyMinutes_eq]
    dsimp only
    by_cases full : 1048575 < reserve + ((amount * 1440 + a.r.residue) / c.price
        - appliedMinutes ⟨a.lc, { a.r with expiry := expiry, reserve := reserve }⟩
            ((amount * 1440 + a.r.residue) / c.price) now c.horizon)
    · rw [if_pos full]
      exact ⟨Nat.lt_of_not_le paysOff, full⟩
    · rw [if_neg full]
      dsimp only
      rw [if_neg paysOff]
      obtain ⟨lifecycle, outstanding, paid, residue, left⟩ := boughtAccount_figures a.lc
        { a.r with expiry := expiry, reserve := reserve } c amount now c.grace
      have places := boughtAccount_places a.lc { a.r with expiry := expiry, reserve := reserve } c amount now c.grace
      rw [lifecycle, outstanding, paid, residue, left]
      refine ⟨Nat.sub_add_cancel (Nat.le_of_not_le paysOff), Nat.sub_pos_of_lt (Nat.lt_of_not_le paysOff), rfl,
        (money_kept (appliedMinutes_le ..)).trans (by push_cast; rfl), Nat.mod_lt _ (Nat.pos_of_ne_zero priced),
        Int.natCast_add _ _, Nat.le_of_not_lt full, rfl, rfl,
        creditChanged_boughtAccount .., rfl, places, ?_⟩
      exact lapseNoted_boughtAccount ..

end Sys2Proof.Machine
end

section
/-! PROOFS. Adjusts, suspension and resumption (R48 to R53). -/

namespace Sys2Proof.Machine

set_option Elab.async false

/-! ## Positive adjusts -/

/-- The account of a positive adjust (R48), from the record left by the release. -/
def raisedAccount (lc : Lifecycle) (r : Record) (m now horizon : Nat) : Account :=
  let applied := appliedMinutes ⟨lc, r⟩ m now horizon
  ⟨startRunning lc, { placeMinutes ⟨lc, r⟩ applied now with reserve := r.reserve + (m - applied) }⟩

theorem adjustUp_eq (a : Account) (c : TariffClass) (m now : Nat) :
    let r1 := releaseRecord a.lc a.r now c.horizon
    let applied := appliedMinutes ⟨a.lc, r1⟩ m now c.horizon
    adjustUp a c m now = if 1048575 < r1.reserve + (m - applied) then none
      else some ⟨(raisedAccount a.lc r1 m now c.horizon).creditChange c.grace now, applied, (m - applied : Nat), 0, 0⟩ :=
  rfl

/-- What a positive adjust leaves of the account (R48). -/
theorem raisedAccount_leaves (lc : Lifecycle) (r : Record) (m now horizon grace : Nat) :
    let account := (raisedAccount lc r m now horizon).creditChange grace now
    let applied := appliedMinutes ⟨lc, r⟩ m now horizon
    PlacesMinutes lc r account.r m applied now horizon ∧ account.r.reserve = r.reserve + (m - applied)
      ∧ account.lc = (if lc = .enrolled then .running else lc)
      ∧ account.r.outstanding = r.outstanding ∧ account.r.paidTotal = r.paidTotal ∧ account.r.residue = r.residue
      ∧ CreditChanged r account.r ∧ account.r.lapseNoted = account.lapseLeft r.lapseNoted grace now := by
  have places := placesMinutes_placeMinutes lc r m now horizon
  obtain ⟨expiry, frozen, prior, placed⟩ := placeMinutes_frame ⟨lc, r⟩ (appliedMinutes ⟨lc, r⟩ m now horizon) now
  rw [placed] at places
  dsimp only
  rw [raisedAccount, placed, creditChange_eq]
  exact ⟨places, rfl, rfl, rfl, rfl, rfl, ⟨rfl, rfl, rfl, rfl, rfl, rfl, rfl, rfl, rfl⟩, (lapseLeft_congr rfl _ _ _).symm⟩

/-! ## Negative adjusts -/

/-- The account of a negative adjust that takes `back` from the reserve and `taken` from the credit (R49). -/
def loweredAccount (lc : Lifecycle) (r : Record) (back taken : Nat) : Account :=
  ⟨lc, { takeMinutes ⟨lc, r⟩ taken with reserve := r.reserve - back }⟩

theorem adjustDown_eq (a : Account) (c : TariffClass) (m now : Nat) :
    let r1 := releaseRecord a.lc a.r now c.horizon
    let back := min m r1.reserve
    let taken := min (m - back) (takeable ⟨a.lc, r1⟩ now)
    adjustDown a c m now = ⟨(loweredAccount a.lc r1 back taken).creditChange c.grace now, taken, -(back : Int),
      m - back - taken, 0⟩ := rfl

theorem takeMinutes_of_ne {lc : Lifecycle} (other : lc ≠ .suspended) (r : Record) (taken : Nat) :
    takeMinutes ⟨lc, r⟩ taken = { r with expiry := r.expiry - taken } := by
  cases lc <;> first | rfl | exact absurd rfl other

theorem takeable_of_ne {lc : Lifecycle} (other : lc ≠ .suspended) (r : Record) (now : Nat) :
    takeable ⟨lc, r⟩ now = r.expiry - now := by
  cases lc <;> first | rfl | exact absurd rfl other

/-- A negative adjust changes the expiry, the frozen credit and the reserve, and else only what a credit change does. -/
theorem loweredAccount_leaves (lc : Lifecycle) (r : Record) (back taken grace now : Nat) :
    let account := (loweredAccount lc r back taken).creditChange grace now
    account.lc = lc ∧ account.r.expiry = (if lc = .suspended then r.expiry else r.expiry - taken)
      ∧ account.r.frozen = (if lc = .suspended then r.frozen.map (· - taken) else r.frozen)
      ∧ account.r.reserve = r.reserve - back ∧ account.r.outstanding = r.outstanding
      ∧ account.r.residue = r.residue ∧ account.r.paidTotal = r.paidTotal ∧ account.r.prior = r.prior
      ∧ CreditChanged r account.r ∧ account.r.lapseNoted = account.lapseLeft r.lapseNoted grace now := by
  dsimp only
  rw [loweredAccount, creditChange_eq]
  by_cases suspended : lc = .suspended
  · rw [if_pos suspended, if_pos suspended, suspended]
    exact ⟨rfl, rfl, rfl, rfl, rfl, rfl, rfl, rfl, ⟨rfl, rfl, rfl, rfl, rfl, rfl, rfl, rfl, rfl⟩,
      (lapseLeft_congr rfl _ _ _).symm⟩
  · rw [if_neg suspended, if_neg suspended, takeMinutes_of_ne suspended]
    exact ⟨rfl, rfl, rfl, rfl, rfl, rfl, rfl, rfl, ⟨rfl, rfl, rfl, rfl, rfl, rfl, rfl, rfl, rfl⟩,
      (lapseLeft_congr rfl _ _ _).symm⟩

/-! ## Suspension and resumption -/

theorem suspendAccount_eq (a : Account) (c : TariffClass) (now : Nat) :
    let r1 := releaseRecord a.lc a.r now c.horizon
    suspendAccount a c now = ⟨.suspended, { a.r with
      expiry := r1.expiry
      reserve := r1.reserve
      frozen := some (r1.expiry - now)
      prior := some a.lc
      awaiting := some (a.r.issued + 1)
      marks := { a.r.marks with changed := true } }⟩ := by
  obtain ⟨expiry, reserve, released⟩ := releaseRecord_frame a.lc a.r now c.horizon
  rw [suspendAccount, released]
  rfl

theorem resumeAccount_eq {a : Account} {f : Nat} {lc : Lifecycle} (frozen : a.r.frozen = some f)
    (prior : a.r.prior = some lc) (c : TariffClass) (now : Nat) :
    let laid := { a.r with expiry := now + f, frozen := none, prior := none }
    let r1 := releaseRecord lc laid now c.horizon
    resumeAccount a c now = ⟨lc, { laid with
      expiry := r1.expiry
      reserve := r1.reserve
      awaiting := some (a.r.issued + 1)
      lapseNoted := (Account.mk lc r1).lapseLeft a.r.lapseNoted c.grace now
      marks := { a.r.marks with changed := true } }⟩ := by
  dsimp only
  obtain ⟨expiry, reserve, released⟩ :=
    releaseRecord_frame lc { a.r with expiry := now + f, frozen := none, prior := none } now c.horizon
  rw [resumeAccount, frozen, prior, Option.getD_some, Option.getD_some, creditChange_eq, released]

/-- The release of a record whose credit lies `f` minutes ahead (R39, R53). -/
theorem releaseRecord_ahead (lc : Lifecycle) (r : Record) (now horizon f : Nat) (ahead : r.expiry = now + f) :
    let move := if lc = .running then min r.reserve (horizon - f) else 0
    (releaseRecord lc r now horizon).expiry = now + f + move
      ∧ (releaseRecord lc r now horizon).reserve = r.reserve - move := by
  have base : max r.expiry now = now + f := by omega
  have released : releaseRecord lc r now horizon = _ := release lc r now horizon
  rw [released, base, Nat.add_sub_add_left]
  by_cases running : lc = .running
  · rw [if_pos running]
    split
    · exact ⟨rfl, rfl⟩
    · next still =>
      have none : min r.reserve (horizon - f) = 0 := Nat.eq_zero_of_not_pos fun moves => still ⟨running, moves⟩
      rw [none]
      exact ⟨ahead, rfl⟩
  · rw [if_neg running, if_neg fun moves => running moves.1]
    exact ⟨ahead, rfl⟩

/-- The minutes asked of a negative adjust are those taken from the reserve, those taken from the credit, and those
unapplied, and each is used up before the next (R49). -/
theorem lowered_parts (m reserve credit : Nat) :
    let back := min m reserve
    let taken := min (m - back) credit
    (taken : Int) - -(back : Int) + (m - back - taken : Nat) = m ∧ ((reserve - back : Nat) : Int) = reserve + -(back : Int)
      ∧ taken ≤ credit ∧ (0 < taken → reserve - back = 0)
      ∧ (0 < m - back - taken → reserve - back = 0 ∧ taken = credit) := by
  dsimp only
  omega

/-- Settles O55: each computation on the record its release leaves. -/
theorem adjustAndSuspendKeepMinutes : Obligations.AdjustAndSuspendKeepMinutes := by
  refine ⟨fun a c m now live => ?_, fun a c m now live frozen => ?_, fun a c now live => suspendAccount_eq a c now,
    fun a c now f lc frozen prior => resumeAccount_eq frozen prior c now, fun a c now later live => ?_⟩
  · dsimp only
    obtain ⟨expiry, reserve, released⟩ := releaseRecord_frame a.lc a.r now c.horizon
    rw [adjustUp_eq, released]
    by_cases full : 1048575 < reserve
        + (m - appliedMinutes ⟨a.lc, { a.r with expiry := expiry, reserve := reserve }⟩ m now c.horizon)
    · rw [if_pos full]
      by_cases suspended : a.lc = .suspended
      · rw [suspended, appliedMinutes_suspended] at full
        dsimp only
        rw [if_pos suspended]
        exact full
      · rw [appliedMinutes_of_ne suspended] at full
        dsimp only
        rw [if_neg suspended]
        exact full
    · rw [if_neg full]
      obtain ⟨places, left, lifecycle, outstanding, paid, residue, changed, lapse⟩ := raisedAccount_leaves a.lc
        { a.r with expiry := expiry, reserve := reserve } m now c.horizon c.grace
      have within := appliedMinutes_le ⟨a.lc, { a.r with expiry := expiry, reserve := reserve }⟩ m now c.horizon
      refine ⟨places, ?_, rfl, rfl, ?_, ?_, lifecycle, outstanding, paid, residue, changed, lapse⟩
      · dsimp only at within ⊢
        omega
      · rw [left]
        exact Int.natCast_add _ _
      · rw [left]
        exact Nat.le_of_not_lt full
  · dsimp only
    obtain ⟨expiry, reserve, released⟩ := releaseRecord_frame a.lc a.r now c.horizon
    rw [adjustDown_eq, released]
    obtain ⟨lifecycle, runs, frozenLeft, left, outstanding, residue, paid, prior, changed, lapse⟩ :=
      loweredAccount_leaves a.lc { a.r with expiry := expiry, reserve := reserve } (min m reserve)
        (min (m - min m reserve) (takeable ⟨a.lc, { a.r with expiry := expiry, reserve := reserve }⟩ now)) c.grace now
    obtain ⟨asked, fall, within, emptied, short⟩ := lowered_parts m reserve
      (takeable ⟨a.lc, { a.r with expiry := expiry, reserve := reserve }⟩ now)
    refine ⟨lifecycle, asked, rfl, ?_, ?_, ?_, ?_, fun other => ?_, fun suspended => ?_, outstanding, residue, paid, prior,
      changed, lapse⟩
    · rw [left]
      exact fall
    · exact Int.neg_nonpos_of_nonneg (Int.natCast_nonneg _)
    · rw [left]
      exact emptied
    · rw [left]
      exact fun unapplied => (short unapplied).1
    · rw [runs, frozenLeft, if_neg other, if_neg other]
      rw [takeable_of_ne other] at within short ⊢
      refine ⟨?_, ?_, fun unapplied => ?_, rfl⟩
      · dsimp only at within ⊢
        omega
      · dsimp only at within ⊢
        omega
      · have all := (short unapplied).2
        dsimp only at all ⊢
        omega
    · rw [runs, frozenLeft, if_pos suspended, if_pos suspended]
      obtain ⟨f, held⟩ := Option.ne_none_iff_exists'.1 (frozen suspended)
      have credit : takeable ⟨a.lc, { a.r with expiry := expiry, reserve := reserve }⟩ now = f := by
        rw [suspended, takeable]
        exact congrArg (·.getD 0) held
      rw [credit] at within short ⊢
      dsimp only
      rw [held]
      refine ⟨rfl, Nat.sub_add_cancel within, nofun, fun unapplied => congrArg some ?_⟩
      rw [(short unapplied).2]
      exact Nat.sub_self f
  · dsimp only
    obtain ⟨expiry, reserve, released⟩ := releaseRecord_frame a.lc a.r now c.horizon
    rw [suspendAccount_eq, released]
    dsimp only
    rw [resumeAccount_eq (f := expiry - now) (lc := a.lc) rfl rfl]
    obtain ⟨runs, left⟩ := releaseRecord_ahead a.lc
      { a.r with
        expiry := later + (expiry - now), reserve := reserve, frozen := none, prior := none
        awaiting := some (a.r.issued + 1), marks := { a.r.marks with changed := true } }
      later c.horizon (expiry - now) rfl
    refine ⟨rfl, rfl, rfl, runs, ?_, ⟨rfl, rfl, rfl, rfl, rfl, rfl, rfl, rfl, rfl⟩⟩
    dsimp only at left ⊢
    rw [left]
    refine Nat.sub_add_cancel ?_
    split
    · exact Nat.min_le_left _ _
    · exact Nat.zero_le _

end Sys2Proof.Machine
end

section
/-! PROOFS. The record of an ordinary check-in turn (R107 to R112). -/

namespace Sys2Proof.Machine

set_option Elab.async false

/-! ## The steps -/

theorem Record.driftAt_eq (r : Record) (lc : Lifecycle) (ci : CheckIn) (c : TariffClass) (now : Nat) :
    let d := driftOf r ci.remaining.toNat now
    r.driftAt lc ci c now = { r with
      drift := if lc = .running then d else r.drift
      marks := { r.marks with
        drift := r.marks.drift || decide (lc = .running ∧ c.drift ≠ 0 ∧ c.drift < d.natAbs) } } := by
  dsimp only
  rw [Record.driftAt]
  by_cases running : lc = .running
  · rw [if_pos running, if_pos running, Record.noteDrift]
    simp only [running, true_and]
  · rw [if_neg running, if_neg running, decide_eq_false fun exceeds => running exceeds.1, Bool.or_false]

/-- The acknowledged serial once a kit's acknowledgement `s` is taken (R109). -/
def ackedSerial (r : Record) (s : Serial) : Serial :=
  if newer s r.issued then r.acknowledged else if newer s r.acknowledged then s else r.acknowledged

/-- The kit's acknowledgement `s` passes the delivery test (R109, R110). -/
def delivers (r : Record) (s : Serial) : Bool :=
  !newer s r.issued && r.awaiting.any fun x => decide (s = x ∨ newer s x = true)

theorem Record.deliver_eq (r : Record) (s : Serial) :
    let passes := r.awaiting.any fun x => decide (s = x ∨ newer s x = true)
    r.deliver s = { r with
      awaiting := if passes then none else r.awaiting
      marks := { r.marks with delivered := r.marks.delivered || passes } } := by
  dsimp only
  unfold Record.deliver
  split
  · next none => rw [none, Option.any_none, if_neg Bool.false_ne_true, Bool.or_false, ← none]
  · next x awaits =>
    simp only [awaits, Option.any_some, decide_eq_true_eq]
    split
    · next passes => rw [decide_eq_true passes, Bool.or_true]
    · next fails => rw [decide_eq_false fails, Bool.or_false, ← awaits]

theorem Record.acknowledge_eq (r : Record) (s : Serial) : r.acknowledge s = { r with
    acknowledged := ackedSerial r s
    awaiting := if delivers r s then none else r.awaiting
    marks := { r.marks with delivered := r.marks.delivered || delivers r s } } := by
  rw [Record.acknowledge, ackedSerial, delivers]
  split
  · next ahead => rw [ahead, Bool.not_true, Bool.false_and, if_neg Bool.false_ne_true, Bool.or_false]
  · next behind =>
    rw [Bool.eq_false_iff.2 behind, Bool.not_false, Bool.true_and, Record.deliver_eq]
    split <;> rfl

/-- Of the record, a release reads the expiry and the reserve (R39). -/
theorem releaseRecord_congr {r r' : Record} (expiry : r'.expiry = r.expiry) (reserve : r'.reserve = r.reserve)
    (lc : Lifecycle) (now horizon : Nat) : releaseRecord lc r' now horizon = { r' with
      expiry := (releaseRecord lc r now horizon).expiry
      reserve := (releaseRecord lc r now horizon).reserve } := by
  have move : releaseMove lc r' now horizon = releaseMove lc r now horizon := by
    rw [releaseMove, releaseMove, expiry, reserve]
  unfold releaseRecord
  dsimp only
  rw [move]
  split
  · rw [← expiry, ← reserve]
  · rw [expiry, reserve]

theorem standing_eq_locked_iff (lc : Lifecycle) (r : Record) (grace now : Nat) :
    (Account.mk lc r).standing grace now = some .locked ↔ lc = .running ∧ r.expiry + grace ≤ now := by
  rw [Account.standing]
  cases lc with
  | running =>
    rw [standingOf_running]
    dsimp only
    split
    · exact iff_of_false nofun fun locked => by omega
    · split
      · exact iff_of_false nofun fun locked => by omega
      · exact iff_of_true rfl ⟨rfl, by omega⟩
  | _ => simp [standingOf]

theorem standing_eq_credit_iff (lc : Lifecycle) (r : Record) (grace now : Nat) :
    (Account.mk lc r).standing grace now = some .credit ↔ lc = .running ∧ now < r.expiry := by
  rw [Account.standing]
  cases lc with
  | running =>
    rw [standingOf_running]
    dsimp only
    split
    · next credit => exact iff_of_true rfl ⟨rfl, credit⟩
    · next spent =>
      refine iff_of_false ?_ fun credit => spent credit.2
      split <;> exact nofun
  | _ => simp [standingOf]

/-- The release of a check-in turn clears lapse noted when it moved minutes and left the standing CREDIT (R111). -/
theorem Record.releaseHeard_eq (r : Record) (lc : Lifecycle) (c : TariffClass) (now : Nat) :
    let r1 := releaseRecord lc r now c.horizon
    r.releaseHeard lc c now = { r1 with
      lapseNoted := r.lapseNoted && !(decide (r1.reserve < r.reserve) && decide (lc = .running ∧ now < r1.expiry)) } := by
  dsimp only
  have clears : releaseMove lc r now c.horizon ≠ 0
      ∧ (Account.mk lc (releaseRecord lc r now c.horizon)).standing c.grace now = some .credit ↔ _ :=
    and_congr (reserve_lt_iff_moves ..).symm (standing_eq_credit_iff ..)
  obtain ⟨expiry, reserve, released⟩ := releaseRecord_frame lc r now c.horizon
  rw [Record.releaseHeard, ← Bool.decide_and, ← decide_eq_decide.2 clears]
  split
  · next both => rw [decide_eq_true both, Bool.not_true, Bool.and_false]
  · next stays => rw [decide_eq_false stays, Bool.not_false, Bool.and_true, released]

/-! ## The record written -/

/-- Lapse noted as the release of a check-in turn leaves it (R111). -/
def notedHeard (lc : Lifecycle) (r : Record) (c : TariffClass) (now : Nat) : Bool :=
  let r1 := releaseRecord lc r now c.horizon
  r.lapseNoted && !(decide (r1.reserve < r.reserve) && decide (lc = .running ∧ now < r1.expiry))

/-- The kit is LOCKED once its check-in turn has released (R56). -/
def lockedHeard (lc : Lifecycle) (r : Record) (c : TariffClass) (now : Nat) : Bool :=
  decide (lc = .running ∧ (releaseRecord lc r now c.horizon).expiry + c.grace ≤ now)

theorem releaseHeard_congr {r r' : Record} (expiry : r'.expiry = r.expiry) (reserve : r'.reserve = r.reserve)
    (lapse : r'.lapseNoted = r.lapseNoted) (lc : Lifecycle) (c : TariffClass) (now : Nat) :
    r'.releaseHeard lc c now = { r' with
      expiry := (releaseRecord lc r now c.horizon).expiry
      reserve := (releaseRecord lc r now c.horizon).reserve
      lapseNoted := notedHeard lc r c now } := by
  rw [Record.releaseHeard_eq, releaseRecord_congr expiry reserve, notedHeard, reserve, lapse]

theorem Record.noteLapse_standing (r : Record) (lc : Lifecycle) (grace now : Nat) :
    let locked := decide (lc = .running ∧ r.expiry + grace ≤ now)
    r.noteLapse ((Account.mk lc r).standing grace now) = { r with
      lapseNoted := r.lapseNoted || locked
      marks := { r.marks with lapsed := r.marks.lapsed || (locked && !r.lapseNoted) } } := by
  dsimp only
  have locked : decide ((Account.mk lc r).standing grace now = some .locked)
      = decide (lc = .running ∧ r.expiry + grace ≤ now) :=
    decide_eq_decide.2 (standing_eq_locked_iff lc r grace now)
  rw [Record.noteLapse_eq, Bool.decide_and, locked]
  cases r.lapseNoted <;> simp

theorem driftAt_hear (r : Record) (lc : Lifecycle) (ci : CheckIn) (c : TariffClass) (now : Nat) :
    let d := driftOf r ci.remaining.toNat now
    (r.hear ci now).driftAt lc ci c now = { r with
      lastCheckIn := some now
      silenceNoted := false
      drift := if lc = .running then d else r.drift
      marks := { r.marks with
        tamper := r.marks.tamper || ci.tamper
        drift := r.marks.drift || decide (lc = .running ∧ c.drift ≠ 0 ∧ c.drift < d.natAbs) } } := by
  dsimp only
  rw [Record.driftAt_eq]
  rfl

theorem acknowledge_driftAt_hear (r : Record) (lc : Lifecycle) (ci : CheckIn) (c : TariffClass) (now : Nat) :
    let d := driftOf r ci.remaining.toNat now
    ((r.hear ci now).driftAt lc ci c now).acknowledge ci.acknowledged = { r with
      acknowledged := ackedSerial r ci.acknowledged
      awaiting := if delivers r ci.acknowledged then none else r.awaiting
      lastCheckIn := some now
      silenceNoted := false
      drift := if lc = .running then d else r.drift
      marks := { r.marks with
        delivered := r.marks.delivered || delivers r ci.acknowledged
        tamper := r.marks.tamper || ci.tamper
        drift := r.marks.drift || decide (lc = .running ∧ c.drift ≠ 0 ∧ c.drift < d.natAbs) } } := by
  dsimp only
  rw [driftAt_hear, Record.acknowledge_eq]
  rfl

theorem heardRecord_eq (lc : Lifecycle) (r : Record) (ci : CheckIn) (c : TariffClass) (now : Nat) :
    let r1 := releaseRecord lc r now c.horizon
    let d := driftOf r ci.remaining.toNat now
    heardRecord lc r ci c now = { r with
      expiry := r1.expiry
      reserve := r1.reserve
      acknowledged := ackedSerial r ci.acknowledged
      awaiting := if delivers r ci.acknowledged then none else r.awaiting
      lastCheckIn := some now
      drift := if lc = .running then d else r.drift
      lapseNoted := notedHeard lc r c now || lockedHeard lc r c now
      silenceNoted := false
      marks := { r.marks with
        delivered := r.marks.delivered || delivers r ci.acknowledged
        lapsed := r.marks.lapsed || (lockedHeard lc r c now && !notedHeard lc r c now)
        tamper := r.marks.tamper || ci.tamper
        drift := r.marks.drift || decide (lc = .running ∧ c.drift ≠ 0 ∧ c.drift < d.natAbs) } } := by
  dsimp only
  have heard : ((r.hear ci now).driftAt lc ci c now).acknowledge ci.acknowledged = _ :=
    acknowledge_driftAt_hear r lc ci c now
  rw [heardRecord]
  generalize ((r.hear ci now).driftAt lc ci c now).acknowledge ci.acknowledged = r' at heard ⊢
  rw [releaseHeard_congr (r := r) (r' := r') (by rw [heard]) (by rw [heard]) (by rw [heard]), Record.noteLapse_standing,
    heard]
  rfl

/-- The record the ordinary check-in turn writes, field by field (R107 to R112). -/
theorem checkedInRecord_eq (lc : Lifecycle) (r : Record) (ci : CheckIn) (c : TariffClass) (now : Nat) :
    let r1 := releaseRecord lc r now c.horizon
    let acked := ackedSerial r ci.acknowledged
    let d := driftOf r ci.remaining.toNat now
    checkedInRecord lc r ci c now = { r with
      expiry := r1.expiry
      reserve := r1.reserve
      issued := r.issued + 1
      acknowledged := if r.issued + 1 - acked = 32768#16 then acked + 1 else acked
      awaiting := if delivers r ci.acknowledged then none else r.awaiting
      lastCheckIn := some now
      drift := if lc = .running then d else r.drift
      lapseNoted := notedHeard lc r c now || lockedHeard lc r c now
      silenceNoted := false
      marks := { r.marks with
        delivered := r.marks.delivered || delivers r ci.acknowledged
        lapsed := r.marks.lapsed || (lockedHeard lc r c now && !notedHeard lc r c now)
        tamper := r.marks.tamper || ci.tamper
        drift := r.marks.drift || decide (lc = .running ∧ c.drift ≠ 0 ∧ c.drift < d.natAbs) } } := by
  dsimp only
  rw [checkedInRecord, heardRecord_eq]
  rfl

/-! ## The serials -/

/-- The acknowledged serial taken lies at most 32,767 behind the issued one (R109, R110). -/
theorem ackedSerial_behind {r : Record} (window : (r.issued - r.acknowledged).toNat ≤ 32767) (s : Serial) :
    (r.issued - ackedSerial r s).toNat ≤ 32767 := by
  rw [ackedSerial]
  split
  · exact window
  · next notAhead =>
    split
    · next ahead =>
      rw [newer_iff] at notAhead ahead
      bv_omega
    · exact window

/-- A serial issued leaves the acknowledged one at most 32,767 behind, drawing it forward where needed (R112). -/
theorem issued_behind {issued acked : Serial} (window : (issued - acked).toNat ≤ 32767) :
    (issued + 1 - (if issued + 1 - acked = 32768#16 then acked + 1 else acked)).toNat ≤ 32767 := by
  split
  · bv_omega
  · next other => bv_omega

/-- Settles O47, reading each field off the record written. -/
theorem checkInRecord : Obligations.CheckInRecord := by
  refine ⟨fun lc r ci c now window => ?_, fun lc r ci c now => ?_⟩
  · dsimp only
    rw [checkedInRecord_eq]
    dsimp only
    simp only [← newer_iff]
    refine ⟨trivial, issued_behind (ackedSerial_behind window _), rfl, fun ahead => ?_, fun behind x awaits => ?_,
      fun none => ?_⟩
    · have fails : delivers r ci.acknowledged = false := by rw [delivers, ahead]; rfl
      rw [fails]
      exact ⟨rfl, Bool.or_false _⟩
    · have passes : delivers r ci.acknowledged = decide (ci.acknowledged = x ∨ newer ci.acknowledged x = true) := by
        rw [delivers, Bool.eq_false_iff.2 behind, awaits]
        rfl
      rw [passes]
      split
      · next delivered =>
        rw [decide_eq_true delivered]
        exact ⟨rfl, Bool.or_true _⟩
      · next kept =>
        rw [decide_eq_false kept]
        exact ⟨awaits, Bool.or_false _⟩
    · have fails : delivers r ci.acknowledged = false := by rw [delivers, none, Option.any_none, Bool.and_false]
      rw [fails]
      exact ⟨none, Bool.or_false _⟩
  · dsimp only
    rw [checkedInRecord_eq]
    dsimp only
    refine ⟨rfl, rfl, rfl, rfl, rfl, fun other => ?_, fun running => ?_, rfl, rfl, rfl, rfl, rfl, rfl, rfl, rfl, rfl⟩
    · have still : releaseRecord lc r now c.horizon = r := by
        rw [releaseRecord, releaseMove, if_neg other]
        rfl
      have unlocked : lockedHeard lc r c now = false := decide_eq_false fun locked => other locked.1
      have noted : notedHeard lc r c now = r.lapseNoted := by
        rw [notedHeard, decide_eq_false fun (credit : lc = .running ∧ _) => other credit.1, Bool.and_false, Bool.not_false,
          Bool.and_true]
      rw [still, unlocked, noted, Bool.false_and]
      exact ⟨rfl, rfl, Bool.or_false _, Bool.or_false _⟩
    · rw [lockedHeard, notedHeard]
      simp only [running, true_and]

end Sys2Proof.Machine
end

section
/-! PROOFS. Scans in rising order, and the hand-over of a grant (R12, R128). -/

namespace Sys2Proof.Machine

set_option Elab.async false

/-! ## Scans -/

theorem scan_eq_none_iff {size : Nat} {p : Nat → Bool} {n a : Nat} (start : a < size) :
    scan size p n a = none ↔ ∀ k, k < n → p ((a + k) % size) = false := by
  induction n generalizing a with
  | zero => exact iff_of_true rfl fun k hk => absurd hk (Nat.not_lt_zero k)
  | succ n ih =>
    have here : (a + 0) % size = a := Nat.mod_eq_of_lt start
    have next (k : Nat) : ((a + 1) % size + k) % size = (a + (k + 1)) % size := by
      rw [Nat.mod_add_mod, Nat.add_assoc, Nat.add_comm 1]
    rw [scan]
    split
    · next found => exact iff_of_false nofun fun none => by rw [← here, none 0 n.succ_pos] at found; cases found
    · next fails =>
      rw [ih (Nat.mod_lt _ (Nat.zero_lt_of_lt start))]
      constructor
      · intro none k hk
        cases k with
        | zero => rw [here]; exact Bool.eq_false_iff.2 fails
        | succ k => rw [← next]; exact none k (Nat.lt_of_succ_lt_succ hk)
      · intro none k hk
        rw [next]
        exact none (k + 1) (Nat.succ_lt_succ hk)

theorem scan_eq_some_iff {size : Nat} {p : Nat → Bool} {n a x : Nat} (start : a < size) :
    scan size p n a = some x ↔
      ∃ k, k < n ∧ x = (a + k) % size ∧ p x = true ∧ ∀ j, j < k → p ((a + j) % size) = false := by
  induction n generalizing a with
  | zero => exact iff_of_false nofun fun ⟨k, hk, _⟩ => absurd hk (Nat.not_lt_zero k)
  | succ n ih =>
    have here : (a + 0) % size = a := Nat.mod_eq_of_lt start
    have next (k : Nat) : ((a + 1) % size + k) % size = (a + (k + 1)) % size := by
      rw [Nat.mod_add_mod, Nat.add_assoc, Nat.add_comm 1]
    rw [scan]
    split
    · next found =>
      constructor
      · rintro ⟨rfl⟩
        exact ⟨0, n.succ_pos, here.symm, found, fun j hj => absurd hj (Nat.not_lt_zero j)⟩
      · rintro ⟨k, _, rfl, _, before⟩
        cases k with
        | zero => rw [here]
        | succ k =>
          have first := before 0 k.succ_pos
          rw [here, found] at first
          cases first
    · next fails =>
      rw [ih (Nat.mod_lt _ (Nat.zero_lt_of_lt start))]
      simp only [next]
      constructor
      · rintro ⟨k, hk, rfl, holds, before⟩
        refine ⟨k + 1, Nat.succ_lt_succ hk, rfl, holds, fun j hj => ?_⟩
        cases j with
        | zero => rw [here]; exact Bool.eq_false_iff.2 fails
        | succ j => exact before j (Nat.lt_of_succ_lt_succ hj)
      · rintro ⟨k, hk, rfl, holds, before⟩
        cases k with
        | zero => rw [here] at holds; exact absurd holds fails
        | succ k =>
          exact ⟨k, Nat.lt_of_succ_lt_succ hk, rfl, holds, fun j hj => before (j + 1) (Nat.succ_lt_succ hj)⟩

/-- A scan of all numbers from 0 finds none when none will do. -/
theorem scan_zero_eq_none_iff {size : Nat} {p : Nat → Bool} (some' : 0 < size) :
    scan size p size 0 = none ↔ ∀ k, k < size → p k = false := by
  rw [scan_eq_none_iff some']
  refine forall₂_congr fun k hk => ?_
  rw [Nat.zero_add, Nat.mod_eq_of_lt hk]

/-- A scan of all numbers from 0 finds the lowest that will do. -/
theorem scan_zero_eq_some_iff {size : Nat} {p : Nat → Bool} {x : Nat} (some' : 0 < size) :
    scan size p size 0 = some x ↔ x < size ∧ p x = true ∧ ∀ j, j < x → p j = false := by
  rw [scan_eq_some_iff some']
  constructor
  · rintro ⟨k, hk, rfl, holds, before⟩
    have self (j : Nat) (hj : j < size) : (0 + j) % size = j := by rw [Nat.zero_add, Nat.mod_eq_of_lt hj]
    rw [self k hk] at holds ⊢
    exact ⟨hk, holds, fun j hj => self j (Nat.lt_trans hj hk) ▸ before j hj⟩
  · rintro ⟨hx, holds, before⟩
    have self (j : Nat) (hj : j < size) : (0 + j) % size = j := by rw [Nat.zero_add, Nat.mod_eq_of_lt hj]
    exact ⟨x, hx, (self x hx).symm, holds, fun j hj => (self j (Nat.lt_trans hj hx)).symm ▸ before j hj⟩

/-- A scan of all slots from `start`, wrapping, finds the first slot that will do. -/
theorem scan_slots_eq_some_iff {p : Nat → Bool} {start x : Nat} (inRange : start < 4096) :
    scan 4096 p 4096 start = some x ↔ FirstFrom start (fun y => p y = true) x := by
  rw [scan_eq_some_iff inRange]
  constructor
  · rintro ⟨k, hk, rfl, holds, before⟩
    refine ⟨Nat.mod_lt _ (by decide), holds, fun y hy found => Nat.le_of_not_lt fun earlier => ?_⟩
    have fails := before ((y + 4096 - start) % 4096) (by omega)
    rw [show (start + (y + 4096 - start) % 4096) % 4096 = y by omega, found] at fails
    cases fails
  · rintro ⟨hx, holds, first⟩
    refine ⟨(x + 4096 - start) % 4096, Nat.mod_lt _ (by decide), by omega, holds, fun j hj => ?_⟩
    refine Bool.eq_false_iff.2 fun found => ?_
    have := first ((start + j) % 4096) (Nat.mod_lt _ (by decide)) found
    omega

theorem scan_slots_eq_none_iff {p : Nat → Bool} {start : Nat} (inRange : start < 4096) :
    scan 4096 p 4096 start = none ↔ ∀ x, x < 4096 → p x = false := by
  rw [scan_eq_none_iff inRange]
  constructor
  · intro none x hx
    have fails := none ((x + 4096 - start) % 4096) (Nat.mod_lt _ (by decide))
    rwa [show (start + (x + 4096 - start) % 4096) % 4096 = x by omega] at fails
  · exact fun none k _ => none _ (Nat.mod_lt _ (by decide))

/-! ## The hand-over -/

theorem State.freeChannel_eq_none_iff {s : State} : s.freeChannel = none ↔ ∀ c, c < 8 → s.channel c ≠ none := by
  rw [State.freeChannel]
  refine (scan_zero_eq_none_iff (by decide)).trans (forall₂_congr fun c _ => ?_)
  rw [Option.isNone_eq_false_iff, Option.isSome_iff_ne_none]

theorem State.freeChannel_eq_some_iff {s : State} {c : Nat} : s.freeChannel = some c ↔
    c < 8 ∧ s.channel c = none ∧ ∀ x, x < c → s.channel x ≠ none := by
  rw [State.freeChannel]
  refine (scan_zero_eq_some_iff (by decide)).trans (and_congr_right fun _ => and_congr ?_ (forall₂_congr fun x _ => ?_))
  · rw [Option.isNone_iff_eq_none]
  · rw [Option.isNone_eq_false_iff, Option.isSome_iff_ne_none]

/-- A channel that is not READY stays as the others are offered. -/
theorem Sends.stays {f : Nat → Option Channel} {timer : Stamp} {t : State} (h : Sends f timer t) {c : Nat}
    {ch : Channel} (hc : c < 8) (used : f c = some ch) (notReady : ch.phase ≠ .ready) : t.channel c = some ch := by
  by_cases someReady : ∃ n ch, n < 8 ∧ f n = some ch ∧ ch.phase = .ready
  · obtain ⟨m, k, hm, usedm, ready⟩ := someReady
    obtain ⟨n, chosen⟩ := exists_chosen timer hm usedm ready
    obtain ⟨_, k', usedn, readyn, _⟩ := id chosen
    have other : c ≠ n := fun same => by
      rw [same, usedn] at used
      exact notReady (Option.some.inj used ▸ readyn)
    exact ((h.1 n k' chosen usedn).2.2 c hc other).trans used
  · have noneReady : ∀ n ch, n < 8 → f n = some ch → ch.phase ≠ .ready :=
      fun n ch hn used ready => someReady ⟨n, ch, hn, used, ready⟩
    exact ((h.2 noneReady).2 c hc).trans used

/-- The hand-over at a link that is not ENABLED, of a LATE grant, of one that finds no channel, and of one that takes
a channel (R128). -/
theorem State.handOver_eq (s : State) (g : Grant) (a : Arrival) : s.handOver g a =
    if s.link.state = .enabled then
      if a.overdue ∨ s.link.config.openDelay + s.link.config.window < s.elapsed a.stamp then
        (s.count fun c => { c with late := bump c.late }).giveUp
      else
        match s.freeChannel with
        | none => (s.count fun c => { c with noChannel := bump c.noChannel }).giveUp
        | some n => (s.putChannel n (some (s.newChannel g a.stamp))).offer.giveUp
    else (s.count fun c => { c with suppressed := bump c.suppressed }).giveUp := by
  rw [State.handOver, State.scheduleGrant]
  split
  · split
    · rfl
    · cases s.freeChannel <;> rfl
  · rfl

/-- A hand-over changes the link alone. -/
theorem State.handOver_frame (s : State) (g : Grant) (a : Arrival) :
    s.handOver g a = { s with link := (s.handOver g a).link } := by
  have offered (n : Nat) (v : Option Channel) : (s.putChannel n v).offer = { s with link := (s.putChannel n v).offer.link } := by
    have moves := offer_channelsMove (s.putChannel n v)
    rw [moves.frame]
    rfl
  rw [State.handOver_eq]
  split
  · split
    · rfl
    · split
      · rfl
      · next n _ => exact congrArg State.giveUp (offered n _)
  · rfl

/-- The channel a grant takes is SCHEDULED before the reply opens, and READY from then on (R128). -/
theorem State.scheduled_or_ready (s : State) (g : Grant) (stamp : Stamp) : s.newChannel g stamp = Channel.mk
    (if (s.time.timer - stamp).toNat < s.link.config.openDelay then .scheduled else .ready) g stamp
    (stamp + BitVec.ofNat 16 s.link.config.openDelay)
    (stamp + BitVec.ofNat 16 (s.link.config.openDelay + s.link.config.window)) := by
  rw [State.newChannel, State.elapsed]
  by_cases before : (s.time.timer - stamp).toNat < s.link.config.openDelay
  · rw [if_neg (Nat.not_le.2 before), if_pos before]
  · rw [if_pos (Nat.not_lt.1 before), if_neg before]

/-- Settles O46: each outcome of the hand-over, and the offer to the transmitter after it. -/
theorem grantHandOver : Obligations.GrantHandOver := by
  intro s g a wf
  dsimp only
  have eq := s.handOver_eq g a
  refine ⟨?_, s.handOver_frame g a, fun off => ?_, fun on late => ?_, fun on early full => ?_,
    fun c on early hc free lowest => ?_⟩
  · rw [State.handOver]
    rfl
  · rw [eq, if_neg off]
    rfl
  · have late : a.overdue = true ∨ s.link.config.openDelay + s.link.config.window < s.elapsed a.stamp := late
    rw [eq, if_pos on, if_pos late]
    rfl
  · have early : ¬(a.overdue = true ∨ s.link.config.openDelay + s.link.config.window < s.elapsed a.stamp) := early
    rw [eq, if_pos on, if_neg early, State.freeChannel_eq_none_iff.2 full]
    rfl
  · have early : ¬(a.overdue = true ∨ s.link.config.openDelay + s.link.config.window < s.elapsed a.stamp) := early
    rw [if_pos on, if_neg early, State.freeChannel_eq_some_iff.2 ⟨hc, free, lowest⟩] at eq
    dsimp only at eq
    have wf : cellsWf none s.link.channels := wf.2.2.2.2.2
    have put (n : Nat) := State.channel_putChannel wf c (some (s.newChannel g a.stamp)) n
    have placed := State.scheduled_or_ready s g a.stamp
    have wf' : cellsWf none (s.putChannel c (some (s.newChannel g a.stamp))).link.channels := cellsWf_write wf c _
    have idles (idle : s.link.tx = .idle) : Sends (fun n => if n = c then some (s.newChannel g a.stamp) else s.channel n)
        s.time.timer (s.handOver g a) := by
      rw [eq]
      exact (offer_sends wf' idle).congr fun n _ => put n
    have stays (busy : s.link.tx ≠ .idle) : (s.handOver g a).link.tx = s.link.tx
        ∧ ∀ n, (s.handOver g a).channel n = if n = c then some (s.newChannel g a.stamp) else s.channel n := by
      rw [eq, offer_of_sending (s := s.putChannel c (some (s.newChannel g a.stamp))) busy]
      exact ⟨rfl, put⟩
    rw [← placed]
    refine ⟨by rw [eq]; exact offer_counters _, fun before => ?_, fun reached busy => ?_, fun reached idle => ?_, idles,
      stays⟩
    · rw [if_pos before] at placed
      rw [← placed]
      by_cases idle : s.link.tx = .idle
      · exact (idles idle).stays hc (if_pos rfl) (by rw [placed]; exact nofun)
      · exact ((stays idle).2 c).trans (if_pos rfl)
    · rw [if_neg (Nat.not_lt.2 reached)] at placed
      rw [← placed]
      exact ⟨((stays busy).2 c).trans (if_pos rfl), (stays busy).1⟩
    · rw [if_neg (Nat.not_lt.2 reached)] at placed
      obtain ⟨sending, channel⟩ := (idles idle).ready hc (if_pos rfl) (by rw [placed])
      rw [placed] at channel
      exact ⟨sending, channel.imp_right And.left⟩

end Sys2Proof.Machine
end

section
/-! PROOFS. The one write of a turn, and the injection it takes (R75, R152). -/

namespace Sys2Proof.Machine

set_option Elab.async false

/-! ## The bodies, ways and states a piece of a turn writes -/

theorem Turn.body_putBody {t : Turn} (wf : Memory.wf t.s) (slot : Nat) (r : Record) (x : Nat) :
    (t.putBody slot r).s.body x = if x = slot then ⟨r, r, []⟩ else t.s.body x := by
  split
  · next same => rw [same]; exact t.putBody_body_same wf.1 slot r
  · next other => exact t.putBody_body_other wf.1 r other

theorem State.tag_putTag {s : State} (wf : Memory.wf s) (slot : Nat) (tag : Tag) (x : Nat) :
    (s.putTag slot tag).tag x = if x = slot then tag else s.tag x := by
  split
  · next same => rw [same]; exact cellRead_write_same wf.2.1 slot tag
  · next other => exact cellRead_write_other wf.2.1 tag other

theorem Turn.bucket_putBucket {t : Turn} (wf : Memory.wf t.s) (b : Nat) (v : Bucket) (written : List (Fin 4)) (x : Nat) :
    (t.putBucket b v written).s.bucket x = if x = b then v else t.s.bucket x := by
  split
  · next same => rw [same]; exact cellRead_write_same wf.2.2.1 b v
  · next other => exact cellRead_write_other wf.2.2.1 v other

theorem Turn.bucket_putWay {t : Turn} (wf : Memory.wf t.s) (b : Nat) (w : Fin 4) (e : Option Entry) (x : Nat) :
    (t.putWay b w e).s.bucket x =
      if x = b then { t.s.bucket b with ways := (t.s.bucket b).ways.set w ⟨e, e, .good⟩ } else t.s.bucket x :=
  t.bucket_putBucket wf b _ [w] x

theorem Four.get_set {α : Type} (f : Four α) (i j : Fin 4) (v : α) :
    (f.set i v).get j = if j = i then v else f.get j := by
  split
  · next same => rw [same, Four.get_set_same]
  · next other => rw [Four.get_set_other _ _ other]

/-- A way after one way is written (R62, R147). -/
theorem Turn.way_putWay {t : Turn} (wf : Memory.wf t.s) (b : Nat) (w : Fin 4) (e : Option Entry) (x : Nat) (v : Fin 4) :
    ((t.putWay b w e).s.bucket x).ways.get v =
      if x = b ∧ v = w then ⟨e, e, .good⟩ else (t.s.bucket x).ways.get v := by
  rw [Turn.bucket_putWay wf]
  by_cases here : x = b
  · rw [if_pos here, Four.get_set]
    simp only [here, true_and]
  · rw [if_neg here, if_neg fun both => here both.1]

theorem Turn.bucketState_putWay {t : Turn} (wf : Memory.wf t.s) (b : Nat) (w : Fin 4) (e : Option Entry) (x : Nat) :
    ((t.putWay b w e).s.bucket x).state = (t.s.bucket x).state := by
  rw [Turn.bucket_putWay wf]
  split
  · next same => rw [same]
  · rfl

theorem Turn.spillEntry_putSpill {t : Turn} (wf : Memory.wf t.s) (i : Nat) (e : Option SpillEntry) (x : Nat) :
    (t.putSpill i e).s.spillEntry x = if x = i then e else t.s.spillEntry x := by
  split
  · next same => rw [same]; exact cellRead_write_same wf.2.2.2.1 i e
  · next other => exact cellRead_write_other wf.2.2.2.1 e other

/-! ## The write -/

theorem Turn.write_of_unarmed {t : Turn} (h : t.s.integrity.armed = none) : t.write = t.s := by
  unfold Turn.write
  rw [h]

theorem Turn.write_of_record {t : Turn} {slot : Nat} {m : InjectMode} (h : t.s.integrity.armed = some ⟨.record slot, m⟩) :
    t.write = if slot ∈ t.bodies then t.s.spoilBody slot m else t.s := by
  unfold Turn.write
  rw [h]

theorem lowestWritten_eq_none_iff {b : Nat} {ways : List (Nat × Fin 4)} :
    lowestWritten b ways = none ↔ ∀ w, (b, w) ∉ ways := by
  have all : (∀ w : Fin 4, (b, w) ∉ ways) ↔ (b, 0) ∉ ways ∧ (b, 1) ∉ ways ∧ (b, 2) ∉ ways ∧ (b, 3) ∉ ways :=
    ⟨fun h => ⟨h 0, h 1, h 2, h 3⟩, fun ⟨h0, h1, h2, h3⟩ w => by fin_cases w <;> assumption⟩
  rw [all, lowestWritten]
  split_ifs <;> simp_all

theorem lowestWritten_eq_some {b : Nat} {ways : List (Nat × Fin 4)} {w : Fin 4} (here : (b, w) ∈ ways)
    (lowest : ∀ v, v < w → (b, v) ∉ ways) : lowestWritten b ways = some w := by
  have none (v : Fin 4) (below : v < w) : ¬(b, v) ∈ ways := lowest v below
  fin_cases w <;> simp_all [lowestWritten]

theorem lowestWritten_mem {b : Nat} {ways : List (Nat × Fin 4)} {w : Fin 4} (h : lowestWritten b ways = some w) :
    (b, w) ∈ ways ∧ ∀ v, v < w → (b, v) ∉ ways := by
  rw [lowestWritten] at h
  split_ifs at h <;> (injection h with h; subst h)
  · exact ⟨by assumption, fun v below => absurd below (Fin.not_lt_zero v)⟩
  · refine ⟨by assumption, fun v below => ?_⟩
    have : v = 0 := by omega
    rw [this]; assumption
  · refine ⟨by assumption, fun v below => ?_⟩
    have : v = 0 ∨ v = 1 := by omega
    rcases this with rfl | rfl <;> assumption
  · refine ⟨by assumption, fun v below => ?_⟩
    have : v = 0 ∨ v = 1 ∨ v = 2 := by omega
    rcases this with rfl | rfl | rfl <;> assumption

theorem Turn.write_of_bucket {t : Turn} {b : Nat} {m : InjectMode} (h : t.s.integrity.armed = some ⟨.bucket b, m⟩) :
    t.write = match lowestWritten b t.ways with
      | none => t.s
      | some w => t.s.spoilWay b w m := by
  unfold Turn.write
  rw [h] <;> rfl

theorem State.bucket_spoilWay {s : State} (wf : Memory.wf s) (b : Nat) (w : Fin 4) (m : InjectMode) (x : Nat) :
    (s.spoilWay b w m).bucket x = if x = b then
      { s.bucket b with ways := (s.bucket b).ways.set w { (s.bucket b).ways.get w with check := m.check } }
      else s.bucket x := by
  split
  · next same => rw [same]; exact cellRead_write_same wf.2.2.1 b _
  · next other => exact cellRead_write_other wf.2.2.1 _ other

/-- Settles O43: the write spoils the target it carries, and is the turn's state otherwise. -/
theorem injectionTaken : Obligations.InjectionTaken := by
  refine ⟨fun t slot m wf armed => ⟨fun absent => ?_, fun carried => ?_⟩,
    fun t b m wf armed => ⟨fun absent => ?_, fun w carried lowest => ?_⟩⟩
  · rw [Turn.write_of_record armed, if_neg absent]
  · rw [Turn.write_of_record armed, if_pos carried]
    refine ⟨fun w => ?_, ?_, fun x other => spoilBody_body_other wf.1 m other, rfl, rfl⟩
    · rw [spoilBody_body_same wf.1]
      split
      · next first => rw [first]; exact cellRead_write_same (body_wordsWf wf.1 slot) 0 _
      · next other => exact cellRead_write_other (body_wordsWf wf.1 slot) _ other
    · rw [spoilBody_body_same wf.1]
  · rw [Turn.write_of_bucket armed, lowestWritten_eq_none_iff.2 absent]
  · rw [Turn.write_of_bucket armed, lowestWritten_eq_some carried lowest]
    have bucket := t.s.bucket_spoilWay wf b w m
    have here := bucket b
    rw [if_pos rfl] at here
    have ways := congrArg Bucket.ways here
    have state := congrArg Bucket.state here
    exact ⟨ways, state, fun x other => (bucket x).trans (if_neg other), rfl⟩

end Sys2Proof.Machine
end

section
/-! PROOFS. The reading of a bucket in a turn, and what a turn's write leaves of bodies and ways (R62, R147, R152). -/

namespace Sys2Proof.Machine

set_option Elab.async false

/-! ## What the write leaves -/

/-- A turn's write spoils a body or a way and disarms the injection, and else leaves the turn's state as it is. -/
theorem Turn.write_frame (t : Turn) : t.write = { t.s with
    memory := { t.s.memory with bodies := t.write.memory.bodies }
    dir := { t.s.dir with buckets := t.write.dir.buckets }
    integrity := { t.s.integrity with armed := t.write.integrity.armed } } := by
  unfold Turn.write
  split
  · rfl
  · split <;> rfl
  · split <;> rfl

theorem Turn.write_wf {t : Turn} (wf : Memory.wf t.s) : Memory.wf t.write := (Turn.write_keeps t).wf wf

theorem Turn.write_body_other {t : Turn} (wf : Memory.wf t.s) {x : Nat} (absent : x ∉ t.bodies) :
    t.write.body x = t.s.body x := by
  cases armed : t.s.integrity.armed with
  | none => rw [Turn.write_of_unarmed armed]
  | some i =>
    obtain ⟨target, m⟩ := i
    cases target with
    | record slot =>
      rw [Turn.write_of_record armed]
      split
      · next carried => exact spoilBody_body_other wf.1 m fun same => absent (same ▸ carried)
      · rfl
    | bucket b =>
      rw [Turn.write_of_bucket armed]
      split <;> rfl

/-- A body the write carries lies as written, but for an injection armed for it (R147, R152). -/
theorem Turn.write_body_carried {t : Turn} (wf : Memory.wf t.s) {x : Nat} {r : Record} (carried : x ∈ t.bodies)
    (clean : t.s.body x = ⟨r, r, []⟩) : t.write.body x = t.s.bodyWritten x r := by
  have spoiled (m : InjectMode) (armed : t.s.integrity.armed = some ⟨.record x, m⟩) :
      t.write.body x = ⟨r, r, [(0, m.check)]⟩ := by
    rw [Turn.write_of_record armed, if_pos carried, spoilBody_body_same wf.1, clean]
    cases m <;> rfl
  unfold State.bodyWritten
  split
  · next y armed =>
    split
    · next same => exact spoiled .single (same ▸ armed)
    · next other =>
      rw [Turn.write_of_record armed]
      split
      · exact (spoilBody_body_other wf.1 _ (Ne.symm other)).trans clean
      · exact clean
  · next y armed =>
    split
    · next same => exact spoiled .double (same ▸ armed)
    · next other =>
      rw [Turn.write_of_record armed]
      split
      · exact (spoilBody_body_other wf.1 _ (Ne.symm other)).trans clean
      · exact clean
  · next notSingle notDouble =>
    cases armed : t.s.integrity.armed with
    | none => rw [Turn.write_of_unarmed armed, clean]
    | some i =>
      obtain ⟨target, m⟩ := i
      cases target with
      | record y =>
        cases m
        · exact absurd armed (notSingle y)
        · exact absurd armed (notDouble y)
      | bucket b =>
        rw [Turn.write_of_bucket armed, ← clean]
        split <;> rfl

/-- The armed injection after the write (R152). -/
theorem Turn.write_armed {t : Turn} {slots buckets : List Nat} (bodies : ∀ x, x ∈ t.bodies ↔ x ∈ slots)
    (ways : ∀ b, (∃ w, (b, w) ∈ t.ways) ↔ b ∈ buckets) :
    t.write.integrity.armed = t.s.armedLeft slots buckets := by
  unfold State.armedLeft
  cases armed : t.s.integrity.armed with
  | none => rw [Turn.write_of_unarmed armed, armed]
  | some i =>
    obtain ⟨target, m⟩ := i
    cases target with
    | record y =>
      rw [Turn.write_of_record armed]
      dsimp only
      by_cases carried : y ∈ t.bodies
      · rw [if_pos carried, if_pos ((bodies y).1 carried)]
        rfl
      · rw [if_neg carried, if_neg (mt (bodies y).2 carried), armed]
    | bucket b =>
      rw [Turn.write_of_bucket armed]
      dsimp only
      by_cases carried : ∃ w, (b, w) ∈ t.ways
      · rw [if_pos ((ways b).1 carried)]
        split
        · next none =>
          obtain ⟨w, carried⟩ := carried
          exact absurd carried (lowestWritten_eq_none_iff.1 none w)
        · rfl
      · rw [if_neg (mt (ways b).2 carried), lowestWritten_eq_none_iff.2 fun w here => carried ⟨w, here⟩, armed]

/-- A bucket no injection is armed for lies as the turn leaves it. -/
theorem Turn.write_bucket_of_unarmed {t : Turn} (wf : Memory.wf t.s) {b : Nat}
    (other : t.s.integrity.armed.map (·.target) ≠ some (.bucket b)) : t.write.bucket b = t.s.bucket b := by
  cases armed : t.s.integrity.armed with
  | none => rw [Turn.write_of_unarmed armed]
  | some i =>
    obtain ⟨target, m⟩ := i
    cases target with
    | record y =>
      rw [Turn.write_of_record armed]
      split <;> rfl
    | bucket d =>
      rw [Turn.write_of_bucket armed]
      split
      · rfl
      · refine (State.bucket_spoilWay wf _ _ _ b).trans (if_neg fun same => other ?_)
        rw [armed, same]
        rfl

/-- The ways a turn has written lie as written. -/
def Turn.waysClean (t : Turn) : Prop :=
  ∀ b w, (b, w) ∈ t.ways → ∃ e, (t.s.bucket b).ways.get w = ⟨e, e, .good⟩

/-- A bucket after the write differs at most in the check of one way, whose data lies as written (R152). -/
theorem Turn.write_bucket {t : Turn} (wf : Memory.wf t.s) (b : Nat) : t.write.bucket b = t.s.bucket b
    ∨ ∃ w m, (b, w) ∈ t.ways ∧ t.write.bucket b = { t.s.bucket b with
        ways := (t.s.bucket b).ways.set w { (t.s.bucket b).ways.get w with check := m } } := by
  by_cases here : t.s.integrity.armed.map (·.target) = some (.bucket b)
  · obtain ⟨⟨_, m⟩, armed, rfl⟩ := Option.map_eq_some_iff.1 here
    rw [Turn.write_of_bucket armed]
    split
    · exact .inl rfl
    · next w lowest =>
      exact .inr ⟨w, m.check, (lowestWritten_mem lowest).1, (State.bucket_spoilWay wf b w m b).trans (if_pos rfl)⟩
  · exact .inl (Turn.write_bucket_of_unarmed wf here)

theorem Turn.write_bucketState {t : Turn} (wf : Memory.wf t.s) (b : Nat) :
    (t.write.bucket b).state = (t.s.bucket b).state := by
  rcases Turn.write_bucket wf b with same | ⟨w, m, _, spoiled⟩
  · rw [same]
  · rw [spoiled]

theorem Bucket.values_get (k : Bucket) (w : Fin 4) : k.values.get w = (k.ways.get w).value := by
  fin_cases w <;> rfl

theorem Four.ext_get {α : Type} {f g : Four α} (h : ∀ i, f.get i = g.get i) : f = g := by
  obtain ⟨f0, f1, f2, f3⟩ := f
  obtain ⟨g0, g1, g2, g3⟩ := g
  have h0 : f0 = g0 := h 0
  have h1 : f1 = g1 := h 1
  have h2 : f2 = g2 := h 2
  have h3 : f3 = g3 := h 3
  rw [h0, h1, h2, h3]

/-- What every way reads as is as the turn leaves it. -/
theorem Turn.write_value {t : Turn} (wf : Memory.wf t.s) (clean : t.waysClean) (b : Nat) (v : Fin 4) :
    ((t.write.bucket b).ways.get v).value = ((t.s.bucket b).ways.get v).value := by
  rcases Turn.write_bucket wf b with same | ⟨w, m, carried, spoiled⟩
  · rw [same]
  · obtain ⟨e, written⟩ := clean b w carried
    rw [spoiled]
    dsimp only
    rw [Four.get_set]
    split
    · next here =>
      rw [here, written]
      cases m <;> rfl
    · rfl

theorem Turn.write_values {t : Turn} (wf : Memory.wf t.s) (clean : t.waysClean) (b : Nat) :
    (t.write.bucket b).values = (t.s.bucket b).values :=
  Four.ext_get fun v => by rw [Bucket.values_get, Bucket.values_get, Turn.write_value wf clean]

/-! ## Reading a bucket -/

theorem Turn.correctWay_eq (b : Nat) (t : Turn) (w : Fin 4) : Turn.correctWay b t w =
    if ((t.s.bucket b).ways.get w).check = .single then
      (t.putWay b w ((t.s.bucket b).ways.get w).written).countWay
    else t := by
  unfold Turn.correctWay
  dsimp only
  cases ((t.s.bucket b).ways.get w).check <;> rfl

theorem Turn.mem_ways_putWay (t : Turn) (b : Nat) (w : Fin 4) (e : Option Entry) (x : Nat) (v : Fin 4) :
    (x, v) ∈ (t.putWay b w e).ways ↔ (x = b ∧ v = w) ∨ (x, v) ∈ t.ways := by
  refine (List.mem_cons (a := (x, v)) (b := (b, w)) (l := t.ways)).trans ?_
  rw [Prod.mk.injEq]

/-- The corrections of `n` ways counted on `c` (R63). -/
def countedOn (c n : Nat) : Nat := if n = 0 then c else min (c + n) 65535

theorem bump_countedOn (c n : Nat) : bump (countedOn c n) = countedOn c (n + 1) := by
  have top : Config.maxCount = 65535 := rfl
  unfold bump countedOn
  split <;> simp only [top, Nat.add_eq_zero_iff, one_ne_zero, and_false, if_false] <;> omega

/-- Some ways of a bucket have been read: the corrected ones are written back and counted, and nothing else is changed
(R62, R63). -/
structure WaysRead (t : Turn) (b : Nat) (ws : List (Fin 4)) (t' : Turn) : Prop where
  frame : t' = { t with
    s := { t.s with
      dir := { t.s.dir with buckets := t'.s.dir.buckets }
      integrity := { t.s.integrity with dirCorrected := t'.s.integrity.dirCorrected } }
    ways := t'.ways }
  wf : Memory.wf t'.s
  way : ∀ x v, (t'.s.bucket x).ways.get v =
    if x = b ∧ v ∈ ws then ((t.s.bucket x).ways.get v).afterRead else (t.s.bucket x).ways.get v
  state : ∀ x, (t'.s.bucket x).state = (t.s.bucket x).state
  counted : t'.s.integrity.dirCorrected = countedOn t.s.integrity.dirCorrected
    (ws.filter fun w => decide (((t.s.bucket b).ways.get w).check = .single)).length
  ways : ∀ x v, (x, v) ∈ t'.ways ↔
    x = b ∧ v ∈ ws ∧ ((t.s.bucket b).ways.get v).check = .single ∨ (x, v) ∈ t.ways

theorem StoredWay.afterRead_of_single {w : StoredWay} (h : w.check = .single) :
    w.afterRead = ⟨w.written, w.written, .good⟩ := if_pos h

theorem StoredWay.afterRead_of_ne {w : StoredWay} (h : w.check ≠ .single) : w.afterRead = w := if_neg h

theorem foldl_correctWay {t : Turn} (wf : Memory.wf t.s) (b : Nat) (ws : List (Fin 4)) (distinct : ws.Nodup) :
    WaysRead t b ws (ws.foldl (Turn.correctWay b) t) := by
  induction ws using List.reverseRecOn with
  | nil =>
    exact ⟨rfl, wf, fun x v => by rw [if_neg fun both => absurd both.2 List.not_mem_nil]; rfl, fun _ => rfl, rfl,
      fun x v => ⟨.inr, fun h => h.resolve_left fun both => absurd both.2.1 List.not_mem_nil⟩⟩
  | append_singleton ws w ih =>
    obtain ⟨distinct, _, fresh⟩ := List.nodup_append.1 distinct
    have fresh : w ∉ ws := fun mem => fresh w mem w List.mem_cons_self rfl
    rw [List.foldl_append, List.foldl_cons, List.foldl_nil]
    obtain ⟨frame, wf', way, state, counted, ways⟩ := ih distinct
    generalize ws.foldl (Turn.correctWay b) t = t' at frame wf' way state counted ways ⊢
    have here : (t'.s.bucket b).ways.get w = (t.s.bucket b).ways.get w := by rw [way, if_neg fun both => fresh both.2]
    rw [Turn.correctWay_eq, here]
    by_cases single : ((t.s.bucket b).ways.get w).check = .single
    · rw [if_pos single]
      refine ⟨?_, (Turn.countWay_keeps _).wf ((Turn.putWay_keeps t' b w _).wf wf'), fun x v => ?_, fun x => ?_, ?_,
        fun x v => ?_⟩
      · rw [frame]
        rfl
      · refine (Turn.way_putWay wf' b w _ x v).trans ?_
        rw [way]
        by_cases same : x = b ∧ v = w
        · rw [if_pos same, if_pos ⟨same.1, List.mem_append_right _ (same.2 ▸ List.mem_cons_self)⟩, same.1, same.2,
            StoredWay.afterRead_of_single single]
        · rw [if_neg same]
          have member : (x = b ∧ v ∈ ws ++ [w]) = (x = b ∧ v ∈ ws) := by
            rw [List.mem_append, List.mem_singleton]
            exact propext ⟨fun h => ⟨h.1, h.2.resolve_right fun last => same ⟨h.1, last⟩⟩, fun h => ⟨h.1, .inl h.2⟩⟩
          simp only [member]
      · exact (Turn.bucketState_putWay wf' b w _ x).trans (state x)
      · refine (congrArg bump counted).trans ?_
        rw [bump_countedOn, List.filter_append, List.length_append, List.filter_cons, if_pos (decide_eq_true single)]
        rfl
      · refine (t'.mem_ways_putWay b w ((t.s.bucket b).ways.get w).written x v).trans ?_
        rw [ways, List.mem_append, List.mem_singleton]
        constructor
        · rintro (⟨rfl, rfl⟩ | ⟨rfl, mem, check⟩ | old)
          · exact .inl ⟨rfl, .inr rfl, single⟩
          · exact .inl ⟨rfl, .inl mem, check⟩
          · exact .inr old
        · rintro (⟨rfl, mem | rfl, check⟩ | old)
          · exact .inr (.inl ⟨rfl, mem, check⟩)
          · exact .inl ⟨rfl, rfl⟩
          · exact .inr (.inr old)
    · rw [if_neg single]
      refine ⟨frame, wf', fun x v => ?_, state, ?_, fun x v => ?_⟩
      · rw [way]
        by_cases same : x = b ∧ v = w
        · rw [if_neg fun both => fresh (same.2 ▸ both.2), if_pos ⟨same.1, List.mem_append_right _ (same.2 ▸ List.mem_cons_self)⟩,
            same.1, same.2, StoredWay.afterRead_of_ne single]
        · have member : (x = b ∧ v ∈ ws ++ [w]) = (x = b ∧ v ∈ ws) := by
            rw [List.mem_append, List.mem_singleton]
            exact propext ⟨fun h => ⟨h.1, h.2.resolve_right fun last => same ⟨h.1, last⟩⟩, fun h => ⟨h.1, .inl h.2⟩⟩
          simp only [member]
      · rw [counted, List.filter_append, List.filter_cons, if_neg (by rw [decide_eq_false single]; exact nofun),
          List.filter_nil, List.append_nil]
      · rw [ways, List.mem_append, List.mem_singleton]
        constructor
        · rintro (⟨rfl, mem, check⟩ | old)
          · exact .inl ⟨rfl, .inl mem, check⟩
          · exact .inr old
        · rintro (⟨rfl, mem | rfl, check⟩ | old)
          · exact .inl ⟨rfl, mem, check⟩
          · exact absurd check single
          · exact .inr old

/-- The read of a bucket without an uncorrectable way (R62). -/
theorem Turn.readBucket_of_sound {t : Turn} (wf : Memory.wf t.s) {b : Nat} (sound : (t.s.bucket b).broken = false) :
    ∃ t', t.readBucket b = (t', (t.s.bucket b).values) ∧ WaysRead t b (List.finRange 4) t' := by
  refine ⟨_, ?_, foldl_correctWay wf b (List.finRange 4) (List.nodup_finRange 4)⟩
  rw [Turn.readBucket, sound]
  rfl

/-- The read of a bucket with an uncorrectable way wipes it (R62, R71). -/
theorem Turn.readBucket_of_broken {t : Turn} {b : Nat} (broken : (t.s.bucket b).broken = true) :
    t.readBucket b = (t.wipe b, ⟨none, none, none, none⟩) := by
  rw [Turn.readBucket, broken]
  rfl

end Sys2Proof.Machine
end

section
/-! PROOFS. What a turn has read of the directory so far, and what it has done on one slot (R62, R75, R147 to R150). -/

namespace Sys2Proof.Machine

set_option Elab.async false

/-! ## What the write and the end of a turn leave alone -/

@[simp] theorem Turn.write_tag (t : Turn) (x : Nat) : t.write.tag x = t.s.tag x := by rw [Turn.write_frame]; rfl

@[simp] theorem Turn.write_bank (t : Turn) (b : Fin 4) : t.write.bank b = t.s.bank b := by rw [Turn.write_frame]; rfl

@[simp] theorem Turn.write_bankFlag (t : Turn) : t.write.memory.bankFlag = t.s.memory.bankFlag := by rw [Turn.write_frame]

@[simp] theorem Turn.write_spill (t : Turn) : t.write.dir.spill = t.s.dir.spill := by rw [Turn.write_frame]

@[simp] theorem Turn.write_engine (t : Turn) : t.write.engine = t.s.engine := by rw [Turn.write_frame]

@[simp] theorem Turn.write_link (t : Turn) : t.write.link = t.s.link := by rw [Turn.write_frame]

@[simp] theorem Turn.write_port (t : Turn) : t.write.port = t.s.port := by rw [Turn.write_frame]

@[simp] theorem Turn.write_sweep (t : Turn) : t.write.sweep = t.s.sweep := by rw [Turn.write_frame]

@[simp] theorem Turn.write_dirCorrected (t : Turn) : t.write.integrity.dirCorrected = t.s.integrity.dirCorrected := by
  rw [Turn.write_frame]

/-- The write of a turn that carries no body leaves the memory as the turn does. -/
theorem Turn.write_memory_of_none {t : Turn} (none : t.bodies = []) : t.write.memory = t.s.memory := by
  unfold Turn.write
  split
  · rfl
  · rw [none, if_neg List.not_mem_nil]
  · split <;> rfl

/-! ## Errors fed to the report -/

theorem feedsErrors_nil {s t : State} (same : t.integrity.report = s.integrity.report
    ∧ t.integrity.recordAgain = s.integrity.recordAgain ∧ t.integrity.directoryAgain = s.integrity.directoryAgain)
    (who : Requester) (minute : Option Nat) : FeedsErrors s t [] who minute := by
  obtain ⟨report, records, directory⟩ := same
  refine ⟨?_, ?_, ?_⟩
  · rw [report]
    cases s.integrity.report <;> rfl
  · rw [records]
    split <;> exact (Bool.or_false _).symm
  · rw [directory]
    split <;> exact (Bool.or_false _).symm

theorem feedError_feeds (s : State) (place : ErrorPlace) (who : Requester) :
    FeedsErrors s (s.feedError place who) [place] who s.now := by
  unfold State.feedError
  cases report : s.integrity.report with
  | none => exact ⟨by simp [report], by simp [report], by simp [report]⟩
  | some e => cases place <;> exact ⟨by simp [report], by simp [report, ErrorPlace.isRecord], by simp [report, ErrorPlace.isRecord]⟩

/-- Errors fed one after the other. -/
theorem FeedsErrors.append {a b c : State} {es fs : List ErrorPlace} {who : Requester} {minute : Option Nat}
    (h : FeedsErrors a b es who minute) (k : FeedsErrors b c fs who minute) : FeedsErrors a c (es ++ fs) who minute := by
  obtain ⟨reportb, recordsb, directoryb⟩ := h
  obtain ⟨reportc, recordsc, directoryc⟩ := k
  cases report : a.integrity.report with
  | some e =>
    rw [report] at reportb recordsb directoryb
    rw [reportb] at reportc recordsc directoryc
    refine ⟨by rw [report, reportc], ?_, ?_⟩
    · rw [report, recordsc, recordsb]
      simp [Bool.or_assoc]
    · rw [report, directoryc, directoryb]
      simp [Bool.or_assoc]
  | none =>
    rw [report] at reportb recordsb directoryb
    cases es with
    | nil =>
      dsimp only [List.head?, Option.map] at reportb
      rw [reportb] at reportc recordsc directoryc
      refine ⟨by rw [report, reportc]; rfl, ?_, ?_⟩
      · rw [report, recordsc, recordsb]
        simp
      · rw [report, directoryc, directoryb]
        simp
    | cons e es =>
      dsimp only [List.head?, Option.map] at reportb
      rw [reportb] at reportc recordsc directoryc
      refine ⟨by rw [report, reportc]; rfl, ?_, ?_⟩
      · rw [report, recordsc, recordsb]
        simp [Bool.or_assoc]
      · rw [report, directoryc, directoryb]
        simp [Bool.or_assoc]

theorem feedError_frame (s : State) (place : ErrorPlace) (who : Requester) : s.feedError place who = { s with
    integrity := { s.integrity with
      report := (s.feedError place who).integrity.report
      recordAgain := (s.feedError place who).integrity.recordAgain
      directoryAgain := (s.feedError place who).integrity.directoryAgain } } := by
  unfold State.feedError
  split
  · rfl
  · split <;> rfl

/-! ## The directory as read so far -/

/-- A turn of `s` has read the bucket `looked`, if any, without an uncorrectable way, and has else left every way, every
bucket's state and the directory corrected count as they were (R62, R63). -/
structure DirRead (s : State) (t : Turn) (looked : Option Nat) : Prop where
  sound : ∀ b, looked = some b → (s.bucket b).broken = false
  way : ∀ b w, (t.s.bucket b).ways.get w =
    if looked = some b then ((s.bucket b).ways.get w).afterRead else (s.bucket b).ways.get w
  state : ∀ b, (t.s.bucket b).state = (s.bucket b).state
  spill : t.s.dir.spill = s.dir.spill
  counted : t.s.integrity.dirCorrected = s.dirCorrectedLeft looked
  ways : ∀ b w, (b, w) ∈ t.ways ↔ looked = some b ∧ ((s.bucket b).ways.get w).check = .single

theorem DirRead.congr {s : State} {t t' : Turn} {looked : Option Nat} (h : DirRead s t looked)
    (dir : t'.s.dir = t.s.dir)
    (counted : t'.s.integrity.dirCorrected = t.s.integrity.dirCorrected) (ways : t'.ways = t.ways) : DirRead s t' looked := by
  have bucket (b : Nat) : t'.s.bucket b = t.s.bucket b := congrArg (fun d : Directory => cellRead Bucket.cleared d.buckets b) dir
  exact ⟨h.sound, fun b w => by rw [bucket, h.way], fun b => by rw [bucket, h.state],
    (congrArg Directory.spill dir).trans h.spill, by rw [counted, h.counted],
    fun b w => by rw [ways, h.ways]⟩

theorem DirRead.start (who : Requester) (s : State) : DirRead s (Turn.start who s) none :=
  ⟨nofun, fun b w => by rw [if_neg nofun]; rfl, fun _ => rfl, rfl, rfl, fun b w => ⟨nofun, nofun⟩⟩

theorem StoredWay.value_afterRead (w : StoredWay) : w.afterRead.value = w.value := by
  rw [StoredWay.afterRead]
  split
  · next single => rw [StoredWay.value, StoredWay.value, single]
  · rfl

theorem DirRead.clean {s : State} {t : Turn} {looked : Option Nat} (h : DirRead s t looked) : t.waysClean := by
  intro b w carried
  obtain ⟨here, single⟩ := (h.ways b w).1 carried
  rw [h.way, if_pos here, StoredWay.afterRead_of_single single]
  exact ⟨_, rfl⟩

theorem DirRead.values {s : State} {t : Turn} {looked : Option Nat} (h : DirRead s t looked) (b : Nat) :
    (t.s.bucket b).values = (s.bucket b).values := by
  refine Four.ext_get fun w => ?_
  rw [Bucket.values_get, Bucket.values_get, h.way]
  split
  · exact StoredWay.value_afterRead _
  · rfl

theorem Bucket.corrections_ne_zero_iff (k : Bucket) : k.corrections ≠ 0 ↔ ∃ w, (k.ways.get w).check = .single := by
  rw [Bucket.corrections, Ne, List.length_eq_zero_iff, List.filter_eq_nil_iff]
  simp

/-- The buckets whose ways a turn that has read one writes (R62). -/
theorem DirRead.writes {s : State} {t : Turn} {looked : Option Nat} (h : DirRead s t looked) (b : Nat) :
    (∃ w, (b, w) ∈ t.ways) ↔ b ∈ s.readWrites looked := by
  simp only [h.ways, exists_and_left, State.readWrites, List.mem_filter, Option.mem_toList, Bool.or_eq_true,
    decide_eq_true_eq, ← Bucket.corrections_ne_zero_iff]
  refine ⟨fun ⟨here, some'⟩ => ⟨here, .inr some'⟩, fun ⟨here, some'⟩ => ⟨here, some'.resolve_left fun broken => ?_⟩⟩
  rw [h.sound b here] at broken
  cases broken

/-- The directory after the write of a turn that has written none of its entries. -/
theorem DirRead.stays {s : State} {t : Turn} {looked : Option Nat} (h : DirRead s t looked) (wf : Memory.wf t.s)
    (armed : t.s.integrity.armed = s.integrity.armed) :
    DirectoryStays s t.write.settle looked := by
  refine ⟨⟨fun b => (Turn.write_values wf h.clean b).trans (h.values b), fun i => ?_, fun b w other => ?_,
    (Turn.write_dirCorrected t).trans h.counted⟩, fun b => (Turn.write_bucketState wf b).trans (h.state b)⟩
  · exact congrArg (cellRead none · i) ((Turn.write_spill t).trans h.spill)
  · rw [← armed] at other
    exact (congrArg (fun k : Bucket => k.ways.get w) (Turn.write_bucket_of_unarmed wf other)).trans (h.way b w)

/-! ## A turn that has done no more than read a bucket -/

/-- A turn of `s` has read the bucket `looked`, if any, and has done nothing else. -/
structure Looked (s : State) (t : Turn) (who : Requester) (looked : Option Nat) : Prop where
  who : t.who = who
  bodies : t.bodies = []
  wf : Memory.wf t.s
  frame : t.s = { s with
    dir := { s.dir with buckets := t.s.dir.buckets }
    integrity := { s.integrity with dirCorrected := t.s.integrity.dirCorrected } }
  read : DirRead s t looked

theorem Looked.start {s : State} (wf : Memory.wf s) (who : Requester) : Looked s (Turn.start who s) who none :=
  ⟨rfl, rfl, wf, rfl, DirRead.start who s⟩

theorem State.dirCorrectedLeft_of_sound {s : State} {b : Nat} (sound : (s.bucket b).broken = false) :
    s.dirCorrectedLeft (some b) = countedOn s.integrity.dirCorrected (s.bucket b).corrections := by
  rw [State.dirCorrectedLeft]
  simp only [sound]
  rfl

theorem WaysRead.looked {s : State} {who : Requester} {b : Nat} {t : Turn} (sound : (s.bucket b).broken = false)
    (h : WaysRead (Turn.start who s) b (List.finRange 4) t) : Looked s t who (some b) := by
  obtain ⟨frame, wf, way, state, counted, ways⟩ := h
  refine ⟨by rw [frame]; rfl, by rw [frame]; rfl, wf, congrArg Turn.s frame, ?_, fun x w => ?_, state, by rw [frame]; rfl, ?_,
    fun x w => ?_⟩
  · rintro x ⟨rfl⟩
    exact sound
  · rw [way]
    simp only [List.mem_finRange, and_true, Option.some.injEq, eq_comm (a := b)]
    rfl
  · rw [State.dirCorrectedLeft_of_sound sound]
    exact counted
  · rw [ways]
    simp only [List.mem_finRange, true_and, Option.some.injEq]
    constructor
    · rintro (⟨rfl, single⟩ | none)
      · exact ⟨rfl, single⟩
      · cases none
    · rintro ⟨rfl, single⟩
      exact .inl ⟨rfl, single⟩

/-- The end of a lookup reads the spill list and the state of the home bucket (R64). -/
theorem State.lookupEnd_congr {s s' : State} {kit : KitId} (spill : s'.dir.spill = s.dir.spill)
    (state : (s'.bucket (homeBucket kit)).state = (s.bucket (homeBucket kit)).state) (ways : Four (Option Entry)) :
    s'.lookupEnd ways kit = s.lookupEnd ways kit := by
  have entry : s'.spillEntry = s.spillEntry := funext fun i => congrArg (cellRead none · i) spill
  have holding : s'.spillHolding (homeBucket kit) kit = s.spillHolding (homeBucket kit) kit := by
    unfold State.spillHolding State.spillHolds
    rw [entry]
  unfold State.lookupEnd
  rw [holding, state]

/-- The lookup of a turn in a bucket without an uncorrectable way (R64). -/
theorem Turn.lookup_of_sound {s : State} (wf : Memory.wf s) (who : Requester) {kit : KitId}
    (sound : (s.bucket (homeBucket kit)).broken = false) : ∃ t,
    (Turn.start who s).lookup kit = (t, (s.bucket (homeBucket kit)).values,
        s.lookupEnd (s.bucket (homeBucket kit)).values kit)
      ∧ Looked s t who (some (homeBucket kit)) := by
  obtain ⟨t, read, h⟩ := Turn.readBucket_of_sound (t := Turn.start who s) wf sound
  have looked := h.looked sound
  refine ⟨t, ?_, looked⟩
  rw [Turn.lookup, read]
  dsimp only
  rw [State.lookupEnd_congr looked.read.spill (looked.read.state _)]
  rfl

/-! ## What is aside from records and directory -/

/-- What ends a turn's work beside the records and the directory: the link, the port, the held command, the searches and
the fetch cursor alone may change. -/
structure Aside (a b : State) : Prop where
  memory : b.memory = a.memory
  dir : b.dir = a.dir
  integrity : b.integrity = a.integrity
  sweep : b.sweep = a.sweep
  engine : b.engine = { a.engine with
    held := b.engine.held, commandSearch := b.engine.commandSearch, checkInSearch := b.engine.checkInSearch
    fetchCursor := b.engine.fetchCursor }
  wf : Memory.wf a → Memory.wf b

theorem Aside.refl (s : State) : Aside s s := ⟨rfl, rfl, rfl, rfl, rfl, id⟩

theorem Aside.trans {a b c : State} (h : Aside a b) (k : Aside b c) : Aside a c := by
  refine ⟨k.memory.trans h.memory, k.dir.trans h.dir, k.integrity.trans h.integrity, k.sweep.trans h.sweep, ?_,
    k.wf ∘ h.wf⟩
  rw [k.engine, h.engine]

/-- A turn that has only looked leaves the memory and, but for its bucket read, the directory and the integrity unit as
they were. -/
theorem Looked.leaves {s : State} {t : Turn} {who : Requester} {looked : Option Nat} (h : Looked s t who looked)
    {f : State → State} (aside : Aside t.s (f t.s)) (cursor : (f t.s).engine.fetchCursor = t.s.engine.fetchCursor)
    (keeps : KeepsSurroundings s (t.map f).write.settle) : LookupLeaves s (t.map f).write.settle looked := by
  obtain ⟨_, bodies, wf, frame, read⟩ := h
  have wf' : Memory.wf (t.map f).s := aside.wf wf
  have read' : DirRead s (t.map f) looked :=
    read.congr aside.dir (congrArg Integrity.dirCorrected aside.integrity) rfl
  have armed : (t.map f).s.integrity.armed = s.integrity.armed := by
    refine (congrArg Integrity.armed aside.integrity).trans ?_
    rw [frame]
  have bodies' : (t.map f).bodies = [] := bodies
  have memory : (t.map f).s.memory = s.memory := aside.memory.trans (by rw [frame])
  have sweep : (t.map f).s.sweep = s.sweep := aside.sweep.trans (by rw [frame])
  have integrity : (t.map f).s.integrity = { s.integrity with dirCorrected := t.s.integrity.dirCorrected } :=
    aside.integrity.trans (by rw [frame])
  have engine : (t.map f).s.engine = { s.engine with
      held := (f t.s).engine.held, commandSearch := (f t.s).engine.commandSearch
      checkInSearch := (f t.s).engine.checkInSearch, fetchCursor := s.engine.fetchCursor } := by
    refine aside.engine.trans ?_
    rw [cursor, frame]
  have taken : (t.map f).write.integrity.armed = s.armedLeft [] (s.readWrites looked) := by
    refine (Turn.write_armed (slots := []) (fun x => by rw [bodies']) fun b => read'.writes b).trans ?_
    rw [State.armedLeft, armed]
    rfl
  refine ⟨keeps, (Turn.write_memory_of_none bodies').trans memory, read'.stays wf' armed,
    (Turn.write_sweep _).trans sweep, ?_, ?_⟩
  · have written : (t.map f).write.integrity = { (t.map f).s.integrity with
        armed := (t.map f).write.integrity.armed } := by rw [Turn.write_frame]
    refine written.trans ?_
    rw [taken, integrity, ← read.counted]
  · rw [State.settle_engine, Turn.write_engine, engine]

end Sys2Proof.Machine
end

section
/-! PROOFS. The counts, the banks and the report as a turn's pieces change a slot (R10, R16, R147 to R150, R153). -/

namespace Sys2Proof.Machine

set_option Elab.async false

/-! ## Counts -/

theorem adjusted_self (n : Nat) (a : Bool) : adjusted n a a = n := Nat.add_sub_cancel n (oneIf a)

/-- A count adjusted twice, the first time not downward, is adjusted by the whole difference. -/
theorem adjusted_adjusted {n : Nat} {before between after : Bool} (grows : before = true → between = true) :
    adjusted (adjusted n between before) after between = adjusted n after before := by
  cases before <;> cases between <;> simp_all [adjusted, oneIf]

/-- A tag has changed at most by becoming DAMAGED or by another location. -/
def Tag.grows (was is : Tag) : Prop :=
  is.lifecycle = was.lifecycle ∧ (was.damaged = true → is.damaged = true) ∧ is.marked = was.marked

theorem Tag.grows_refl (tag : Tag) : tag.grows tag := ⟨rfl, id, rfl⟩

theorem countsFollow_refl {s t : State} {slot : Nat} (tag : t.tag slot = s.tag slot) (engine : t.engine = s.engine) :
    CountsFollow s t slot := by
  dsimp only [CountsFollow]
  rw [tag, engine]
  exact ⟨(adjusted_self _ _).symm, (adjusted_self _ _).symm, (adjusted_self _ _).symm, (adjusted_self _ _).symm,
    (adjusted_self _ _).symm, (adjusted_self _ _).symm⟩

theorem putTag_countsFollow {s : State} (wf : Memory.wf s) (slot : Nat) (tag : Tag) :
    CountsFollow s (s.putTag slot tag) slot := by
  dsimp only [CountsFollow]
  rw [State.tag_putTag wf, if_pos rfl]
  exact ⟨rfl, rfl, rfl, rfl, rfl, rfl⟩

theorem CountsFollow.trans {a b c : State} {slot : Nat} (h : CountsFollow a b slot) (k : CountsFollow b c slot)
    (grows : (a.tag slot).grows (b.tag slot)) : CountsFollow a c slot := by
  obtain ⟨lifecycle, damaged, marked⟩ := grows
  obtain ⟨enrolledb, runningb, suspendedb, ownedb, damagedb, markedb⟩ := h
  obtain ⟨enrolledc, runningc, suspendedc, ownedc, damagedc, markedc⟩ := k
  rw [lifecycle] at enrolledb runningb suspendedb ownedb enrolledc runningc suspendedc ownedc
  rw [marked] at markedb markedc
  refine ⟨?_, ?_, ?_, ?_, ?_, ?_⟩
  · rw [enrolledc, enrolledb]; exact adjusted_adjusted id
  · rw [runningc, runningb]; exact adjusted_adjusted id
  · rw [suspendedc, suspendedb]; exact adjusted_adjusted id
  · rw [ownedc, ownedb]; exact adjusted_adjusted id
  · rw [damagedc, damagedb]; exact adjusted_adjusted damaged
  · rw [markedc, markedb]; exact adjusted_adjusted id

/-- The counts stay as what has no part in them changes. -/
theorem CountsFollow.congr {a b c : State} {slot : Nat} (h : CountsFollow a b slot) (tag : c.tag slot = b.tag slot)
    (engine : c.engine.enrolled = b.engine.enrolled ∧ c.engine.running = b.engine.running
      ∧ c.engine.suspended = b.engine.suspended ∧ c.engine.owned = b.engine.owned
      ∧ c.engine.damaged = b.engine.damaged ∧ c.engine.marked = b.engine.marked) : CountsFollow a c slot := by
  obtain ⟨enrolled, running, suspended, owned, damaged, marked⟩ := engine
  dsimp only [CountsFollow]
  rw [tag, enrolled, running, suspended, owned, damaged, marked]
  exact h

/-! ## Banks -/

theorem banksFollow_refl {s t : State} {slot : Nat} (tag : t.tag slot = s.tag slot) (bank : ∀ x, t.bank x = s.bank x)
    (flag : t.memory.bankFlag = s.memory.bankFlag) : BanksFollow s t slot := by
  refine ⟨fun x _ => bank x, by rw [bank], ?_, flag⟩
  rw [bank, tag]
  exact (adjusted_self _ _).symm

theorem putTag_banksFollow {s : State} (wf : Memory.wf s) (slot : Nat) (tag : Tag) :
    BanksFollow s (s.putTag slot tag) slot := by
  refine ⟨fun x other => ?_, State.bank_state_putTag s slot tag _, ?_, rfl⟩
  · rw [State.bank_putTag, if_neg other]
  · rw [State.bank_putTag, if_pos rfl, State.tag_putTag wf, if_pos rfl]

theorem BanksFollow.trans {a b c : State} {slot : Nat} (h : BanksFollow a b slot) (k : BanksFollow b c slot)
    (lifecycle : (b.tag slot).lifecycle = (a.tag slot).lifecycle) : BanksFollow a c slot := by
  obtain ⟨othersb, stateb, freeb, flagb⟩ := h
  obtain ⟨othersc, statec, freec, flagc⟩ := k
  refine ⟨fun x other => (othersc x other).trans (othersb x other), statec.trans stateb, ?_, flagc.trans flagb⟩
  rw [freec, freeb, lifecycle]
  exact adjusted_adjusted id

/-- Corrected counts have no part in what the banks of a slot follow. -/
theorem BanksFollow.congr {a b c : State} {slot : Nat} (h : BanksFollow a b slot) (tag : c.tag slot = b.tag slot)
    (others : ∀ x, x ≠ bankIndex slot → c.bank x = b.bank x)
    (state : (c.bank (bankIndex slot)).state = (b.bank (bankIndex slot)).state)
    (free : (c.bank (bankIndex slot)).free = (b.bank (bankIndex slot)).free)
    (flag : c.memory.bankFlag = b.memory.bankFlag) : BanksFollow a c slot := by
  obtain ⟨othersb, stateb, freeb, flagb⟩ := h
  refine ⟨fun x other => (others x other).trans (othersb x other), state.trans stateb, ?_, flag.trans flagb⟩
  rw [free, freeb, tag]

/-! ## A turn on one slot -/

/-- Memory, directory, integrity unit and the six counts of the record engine alone may have changed. -/
def InnerOnly (s t : State) : Prop := t = { s with
  memory := t.memory, dir := t.dir, integrity := t.integrity
  engine := { s.engine with
    enrolled := t.engine.enrolled, running := t.engine.running, suspended := t.engine.suspended
    owned := t.engine.owned, damaged := t.engine.damaged, marked := t.engine.marked } }

theorem InnerOnly.trans {a b c : State} (h : InnerOnly a b) (k : InnerOnly b c) : InnerOnly a c := by
  unfold InnerOnly at h k ⊢
  rw [k, h]

theorem InnerOnly.refl (s : State) : InnerOnly s s := rfl

theorem putTag_innerOnly (s : State) (slot : Nat) (tag : Tag) : InnerOnly s (s.putTag slot tag) := rfl

theorem InnerOnly.now {s t : State} (h : InnerOnly s t) : t.now = s.now := by
  unfold InnerOnly at h
  rw [h]
  rfl

theorem feedError_innerOnly (s : State) (place : ErrorPlace) (who : Requester) : InnerOnly s (s.feedError place who) := by
  unfold InnerOnly
  rw [feedError_frame]

/-- A turn of `s` with this access to the body of a slot has so far left `tag` and the record `r` in it, with every
count, bank, correction and error that goes with it, and no other slot changed (R75, R147 to R150). -/
structure OnSlot (s : State) (t : Turn) (who : Requester) (slot : Nat) (tag : Tag) (r : Record) (access : BodyAccess) :
    Prop where
  whose : t.who = who
  wf : Memory.wf t.s
  frame : InnerOnly s t.s
  tag : t.s.tag slot = tag
  body : t.s.body slot = if s.writesBody slot access then ⟨r, r, []⟩ else s.body slot
  others : OthersStay s t.s slot
  bodies : ∀ x, x ∈ t.bodies ↔ x ∈ (if s.writesBody slot access then [slot] else [])
  counts : CountsFollow s t.s slot
  banks : BanksFollow s t.s slot
  corrected : (t.s.bank (bankIndex slot)).corrected = s.correctedLeft slot access
  errors : FeedsErrors s t.s (if access = .untouched then [] else s.errorsAt slot) who s.now
  armed : t.s.integrity.armed = s.integrity.armed

/-- A turn that has done no more than read a bucket is on every slot without having touched it. -/
theorem Looked.onSlot {s : State} {t : Turn} {who : Requester} {looked : Option Nat} (h : Looked s t who looked)
    (slot : Nat) (r : Record) : OnSlot s t who slot (s.tag slot) r .untouched := by
  obtain ⟨whose, bodies, wf, frame, _⟩ := h
  have memory : t.s.memory = s.memory := by rw [frame]
  have engine : t.s.engine = s.engine := by rw [frame]
  have tag (x : Nat) : t.s.tag x = s.tag x := congrArg (fun m : RecordMemory => cellRead Tag.cleared m.tags x) memory
  have body (x : Nat) : t.s.body x = s.body x :=
    congrArg (fun m : RecordMemory => cellRead StoredBody.cleared m.bodies x) memory
  have bank (x : Fin 4) : t.s.bank x = s.bank x := congrArg (fun m : RecordMemory => m.banks.get x) memory
  refine ⟨whose, wf, ?_, tag slot, body slot, fun x _ => ⟨tag x, body x⟩, fun x => by rw [bodies]; rfl,
    countsFollow_refl (tag slot) engine, banksFollow_refl (tag slot) bank (congrArg RecordMemory.bankFlag memory), ?_, ?_, ?_⟩
  · unfold InnerOnly
    rw [frame]
  · rw [bank]
    rfl
  · rw [frame]
    exact feedsErrors_nil ⟨rfl, rfl, rfl⟩ who _
  · rw [frame]

theorem Looked.now {s : State} {t : Turn} {who : Requester} {looked : Option Nat} (h : Looked s t who looked) :
    t.s.now = s.now := by rw [h.frame]; rfl

theorem OnSlot.now {s : State} {t : Turn} {who : Requester} {slot : Nat} {tag : Tag} {r : Record} {access : BodyAccess}
    (h : OnSlot s t who slot tag r access) : t.s.now = s.now := h.frame.now

/-! ## The read of the slot -/

theorem feedError_memory_dir (s : State) (place : ErrorPlace) (who : Requester) :
    (s.feedError place who).memory = s.memory ∧ (s.feedError place who).dir = s.dir
      ∧ (s.feedError place who).engine = s.engine ∧ (s.feedError place who).integrity.armed = s.integrity.armed
      ∧ (s.feedError place who).integrity.dirCorrected = s.integrity.dirCorrected := by
  rw [feedError_frame]
  exact ⟨rfl, rfl, rfl, rfl, rfl⟩

variable {s : State} {t : Turn} {who : Requester} {slot : Nat} {r : Record}

/-- A turn that has not touched the slot's body finds in the slot what the state holds. -/
theorem OnSlot.finds (h : OnSlot s t who slot (s.tag slot) r .untouched) :
    t.s.body slot = s.body slot ∧ t.s.reading slot = s.reading slot ∧ t.s.corrects slot = s.corrects slot
      ∧ t.s.newlyDamaged slot = s.newlyDamaged slot := by
  have body : t.s.body slot = s.body slot := h.body
  refine ⟨body, ?_, ?_, ?_⟩
  · rw [State.reading, State.reading, h.tag, body]
  · rw [State.corrects, State.corrects, h.tag, body]
  · rw [State.newlyDamaged, State.newlyDamaged, h.tag, body]

theorem State.newlyDamaged_of_corrects (h : s.corrects slot = true) : s.newlyDamaged slot = false := by
  rw [State.corrects, Bool.and_eq_true, decide_eq_true_eq] at h
  rw [State.newlyDamaged, h.2, decide_eq_false nofun, Bool.and_false]

theorem State.tagRead_of_not_newlyDamaged (h : s.newlyDamaged slot = false) : s.tagRead slot = s.tag slot := by
  rw [State.tagRead, h, Bool.or_false]

theorem State.tagRead_of_newlyDamaged (h : s.newlyDamaged slot = true) :
    s.tagRead slot = { s.tag slot with damaged := true } := by
  rw [State.tagRead, h, Bool.or_true]

theorem State.tag_grows_tagRead (s : State) (slot : Nat) : (s.tag slot).grows (s.tagRead slot) :=
  ⟨rfl, fun damaged => by rw [State.tagRead, damaged]; rfl, rfl⟩

/-- A live slot is read: a corrected body is written back and counted, and one found uncorrectable makes the slot
DAMAGED and is reported (R147 to R149). -/
theorem OnSlot.readLive (h : OnSlot s t who slot (s.tag slot) r .untouched) :
    OnSlot s (t.readLive slot true).1 who slot (s.tagRead slot) (s.reading slot) .read := by
  obtain ⟨body, reading, corrects, newlyDamaged⟩ := h.finds
  obtain ⟨whose, wf, frame, tag, _, others, bodies, counts, banks, corrected, errors, armed⟩ := h
  rw [Turn.readLive_turn, reading, corrects, newlyDamaged, if_pos rfl]
  by_cases single : s.corrects slot = true
  · have undamaged := State.newlyDamaged_of_corrects single
    have wf' : Memory.wf (t.countCorrected (bankIndex slot)).s := (Turn.countCorrected_keeps t _).wf wf
    have bank (x : Fin 4) : ((t.countCorrected (bankIndex slot)).putBody slot (s.reading slot)).s.bank x =
        if x = bankIndex slot then
          { t.s.bank (bankIndex slot) with corrected := bump (t.s.bank (bankIndex slot)).corrected }
        else t.s.bank x := t.s.bank_setBank (bankIndex slot) x _
    have writes : s.writesBody slot .read = true := single
    rw [if_pos single, State.tagRead_of_not_newlyDamaged undamaged]
    refine ⟨whose, (Turn.putBody_keeps _ slot _).wf wf', ?_, tag, ?_, fun x other => ⟨(others x other).1, ?_⟩, fun x => ?_,
      counts.congr rfl ⟨rfl, rfl, rfl, rfl, rfl, rfl⟩, ?_, ?_, ?_, armed⟩
    · exact frame.trans rfl
    · rw [writes, if_pos rfl]
      exact (Turn.body_putBody wf' slot _ slot).trans (if_pos rfl)
    · exact ((Turn.body_putBody wf' slot _ x).trans (if_neg other)).trans (others x other).2
    · rw [writes, if_pos rfl]
      refine List.mem_cons.trans ?_
      rw [List.mem_singleton]
      exact ⟨fun mem => mem.resolve_right fun old => absurd ((bodies x).1 old) List.not_mem_nil, .inl⟩
    · refine banks.congr rfl (fun x other => ?_) ?_ ?_ rfl
      · rw [bank, if_neg other]
      · rw [bank, if_pos rfl]
      · rw [bank, if_pos rfl]
    · rw [bank, if_pos rfl]
      have before : (t.s.bank (bankIndex slot)).corrected = (s.bank (bankIndex slot)).corrected := corrected
      rw [State.correctedLeft, if_pos ⟨nofun, single⟩, ← before]
      rfl
    · rw [if_neg nofun, State.errorsAt, undamaged, if_neg nofun]
      exact errors
  · rw [if_neg single]
    have writes : s.writesBody slot .read = false := Bool.eq_false_iff.2 single
    have kept : s.correctedLeft slot .read = (s.bank (bankIndex slot)).corrected := if_neg fun both => single both.2
    by_cases damages : s.newlyDamaged slot = true
    · obtain ⟨memory, dir, engine, armed', _⟩ :=
        feedError_memory_dir (t.s.putTag slot { t.s.tag slot with damaged := true }) (.record slot) t.who
      have tags (x : Nat) := State.tag_putTag wf slot { t.s.tag slot with damaged := true } x
      have wf' : Memory.wf (t.s.putTag slot { t.s.tag slot with damaged := true }) := (putTag_keeps _ _ _).wf wf
      have tags' (x : Nat) : (t.damage slot).s.tag x =
          if x = slot then { t.s.tag slot with damaged := true } else t.s.tag x :=
        (congrArg (fun m : RecordMemory => cellRead Tag.cleared m.tags x) memory).trans (tags x)
      have body' (x : Nat) : (t.damage slot).s.body x = t.s.body x :=
        (congrArg (fun m : RecordMemory => cellRead StoredBody.cleared m.bodies x) memory).trans rfl
      have bank' (x : Fin 4) : (t.damage slot).s.bank x =
          (t.s.putTag slot { t.s.tag slot with damaged := true }).bank x :=
        congrArg (fun m : RecordMemory => m.banks.get x) memory
      have here : (t.damage slot).s.tag slot = (t.s.putTag slot { t.s.tag slot with damaged := true }).tag slot := by
        rw [tags', tags]
      have grows : (s.tag slot).grows (t.s.tag slot) := tag ▸ Tag.grows_refl _
      rw [if_pos damages, State.tagRead_of_newlyDamaged damages]
      refine ⟨whose, (Turn.damage_keeps t slot).wf wf, frame.trans ((putTag_innerOnly _ _ _).trans
          (feedError_innerOnly _ _ _)), ?_, ?_, fun x other => ⟨?_, ?_⟩, fun x => ?_, ?_, ?_, ?_, ?_, armed'.trans armed⟩
      · rw [tags', if_pos rfl, tag]
      · rw [writes, if_neg nofun, body']
        exact body
      · rw [tags', if_neg other]
        exact (others x other).1
      · rw [body']
        exact (others x other).2
      · rw [writes, if_neg nofun]
        exact bodies x
      · refine (counts.trans (putTag_countsFollow wf slot { t.s.tag slot with damaged := true }) grows).congr here ?_
        exact ⟨congrArg _ engine, congrArg _ engine, congrArg _ engine, congrArg _ engine, congrArg _ engine,
          congrArg _ engine⟩
      · refine (banks.trans (putTag_banksFollow wf slot { t.s.tag slot with damaged := true })
          (congrArg Tag.lifecycle tag)).congr here (fun x _ => bank' x) (congrArg Bank.state (bank' _))
          (congrArg Bank.free (bank' _)) (congrArg RecordMemory.bankFlag memory)
      · rw [bank', State.bank_putTag, if_pos rfl, kept]
        exact corrected
      · rw [if_neg nofun, State.errorsAt, damages, if_pos rfl, ← whose]
        have now : (t.s.putTag slot { t.s.tag slot with damaged := true }).now = s.now := frame.now
        have fed := feedError_feeds (t.s.putTag slot { t.s.tag slot with damaged := true }) (.record slot) t.who
        rw [now] at fed
        rw [← whose] at errors
        exact FeedsErrors.append errors fed
    · have undamaged := Bool.eq_false_iff.2 damages
      rw [if_neg damages, State.tagRead_of_not_newlyDamaged undamaged]
      refine ⟨whose, wf, frame, tag, ?_, others, fun x => ?_, counts, banks, ?_, ?_, armed⟩
      · rw [writes, if_neg nofun]
        exact body
      · rw [writes, if_neg nofun]
        exact bodies x
      · rw [kept]
        exact corrected
      · rw [if_neg nofun, State.errorsAt, undamaged, if_neg nofun]
        exact errors

end Sys2Proof.Machine
end

section
/-! PROOFS. The write of a slot by a turn, and what a turn on one slot leaves when it ends (R75, R83). -/

namespace Sys2Proof.Machine

set_option Elab.async false

/-! ## Writing the slot -/

theorem State.correctedLeft_written (s : State) (slot : Nat) :
    s.correctedLeft slot .written = s.correctedLeft slot .read := by
  simp [State.correctedLeft]

section
variable {s : State} {t : Turn} {who : Requester} {slot : Nat} {r : Record}

/-- A slot that has been read is written with a body and a tag. -/
theorem OnSlot.put (h : OnSlot s t who slot (s.tagRead slot) r .read) (r' : Record) (tag' : Tag) :
    OnSlot s ((t.putBody slot r').putTag slot tag') who slot tag' r' .written := by
  obtain ⟨whose, wf, frame, tag, body, others, bodies, counts, banks, corrected, errors, armed⟩ := h
  have wf' : Memory.wf (t.putBody slot r').s := (Turn.putBody_keeps t slot r').wf wf
  have tags (x : Nat) : ((t.putBody slot r').putTag slot tag').s.tag x = if x = slot then tag' else t.s.tag x :=
    State.tag_putTag wf' slot tag' x
  have body' (x : Nat) : ((t.putBody slot r').putTag slot tag').s.body x = if x = slot then ⟨r', r', []⟩ else t.s.body x :=
    Turn.body_putBody wf slot r' x
  have writes : s.writesBody slot .written = true := rfl
  have same : (t.putBody slot r').s.tag slot = t.s.tag slot := rfl
  refine ⟨whose, (Turn.putTag_keeps _ slot tag').wf wf', frame.trans rfl, ?_, ?_, fun x other => ⟨?_, ?_⟩, fun x => ?_,
    ?_, ?_, ?_, ?_, armed⟩
  · rw [tags, if_pos rfl]
  · rw [body', if_pos rfl, writes, if_pos rfl]
  · rw [tags, if_neg other]
    exact (others x other).1
  · rw [body', if_neg other]
    exact (others x other).2
  · rw [writes, if_pos rfl, List.mem_singleton]
    refine List.mem_cons.trans ⟨fun mem => mem.elim id fun old => ?_, .inl⟩
    have old := (bodies x).1 old
    split at old
    · exact List.mem_singleton.1 old
    · exact absurd old List.not_mem_nil
  · refine (counts.congr same ⟨rfl, rfl, rfl, rfl, rfl, rfl⟩).trans (putTag_countsFollow wf' slot tag') ?_
    rw [same, tag]
    exact s.tag_grows_tagRead slot
  · refine (banks.congr same (fun _ _ => rfl) rfl rfl rfl).trans (putTag_banksFollow wf' slot tag') ?_
    rw [same, tag]
    rfl
  · rw [State.correctedLeft_written, ← corrected]
    refine (congrArg Bank.corrected (State.bank_putTag (t.putBody slot r').s slot tag' _)).trans ?_
    rw [if_pos rfl]
    rfl
  · rw [if_neg nofun] at errors ⊢
    exact errors

/-- The record of a slot that has been read is written, with its lifecycle (R16). -/
theorem OnSlot.putRecord (h : OnSlot s t who slot (s.tagRead slot) r .read) (lc : Lifecycle) (r' : Record) :
    OnSlot s (t.putRecord slot lc r') who slot { s.tagRead slot with lifecycle := lc, marked := r'.marks.any } r'
      .written := by
  rw [Turn.putRecord, h.tag]
  exact h.put r' _

end

/-! ## The end of a turn on one slot -/

section
variable {s : State} {t : Turn} {who : Requester} {slot : Nat} {tag : Tag} {r : Record} {access : BodyAccess}
  {looked : Option Nat}

/-- What a turn on one slot, and what comes after it beside the records and the directory, leaves (R75). -/
theorem OnSlot.leaves (h : OnSlot s t who slot tag r access) (read : DirRead s t looked) {f : State → State}
    (aside : Aside t.s (f t.s)) (keeps : KeepsSurroundings s (t.map f).write.settle) :
    SlotLeaves s (t.map f).write.settle slot tag r access looked who s.now := by
  obtain ⟨whose, wf, frame, tag, body, others, bodies, counts, banks, corrected, errors, armed⟩ := h
  have wf' : Memory.wf (t.map f).s := aside.wf wf
  have read' : DirRead s (t.map f) looked := read.congr aside.dir (congrArg Integrity.dirCorrected aside.integrity) rfl
  have armed' : (t.map f).s.integrity.armed = s.integrity.armed := (congrArg Integrity.armed aside.integrity).trans armed
  have tags (x : Nat) : (t.map f).write.settle.tag x = t.s.tag x :=
    (Turn.write_tag (t.map f) x).trans (congrArg (fun m : RecordMemory => cellRead Tag.cleared m.tags x) aside.memory)
  have body' (x : Nat) : (t.map f).s.body x = t.s.body x :=
    congrArg (fun m : RecordMemory => cellRead StoredBody.cleared m.bodies x) aside.memory
  have bank (x : Fin 4) : (t.map f).write.settle.bank x = t.s.bank x :=
    (Turn.write_bank (t.map f) x).trans (congrArg (fun m : RecordMemory => m.banks.get x) aside.memory)
  have flag : (t.map f).write.settle.memory.bankFlag = t.s.memory.bankFlag :=
    (Turn.write_bankFlag (t.map f)).trans (congrArg RecordMemory.bankFlag aside.memory)
  have engine : (t.map f).write.settle.engine = { (f t.s).engine with
      waits := (t.map f).write.settle.engine.waits, begun := (t.map f).write.settle.engine.begun } := by
    rw [State.settle_engine, Turn.write_engine]
    rfl
  have integrity : (t.map f).write.settle.integrity = { t.s.integrity with
      armed := (t.map f).write.settle.integrity.armed } := by
    rw [← aside.integrity]
    exact congrArg State.integrity (t.map f).write_frame
  refine ⟨keeps, fun x other => ⟨(tags x).trans (others x other).1, ?_⟩, read'.stays wf' armed',
    (Turn.write_sweep (t.map f)).trans (aside.sweep.trans ?_), (tags slot).trans tag, ?_,
    counts.congr (tags slot) ?_, banks.congr (tags slot) (fun x _ => bank x) (congrArg Bank.state (bank _))
      (congrArg Bank.free (bank _)) flag, (congrArg Bank.corrected (bank _)).trans corrected, ?_, ?_, ?_, ?_⟩
  · refine ((Turn.write_body_other (t := t.map f) wf' fun mem => ?_).trans (body' x)).trans (others x other).2
    have mem := (bodies x).1 mem
    split at mem
    · exact other (List.mem_singleton.1 mem)
    · exact absurd mem List.not_mem_nil
  · rw [frame]
  · rw [State.bodyLeft]
    have carried : slot ∈ (t.map f).bodies ↔ slot ∈ (if s.writesBody slot access then [slot] else []) := bodies slot
    split at body
    · next writes =>
      rw [if_pos writes] at carried ⊢
      refine (Turn.write_body_carried wf' (carried.2 List.mem_cons_self) ((body' slot).trans body)).trans ?_
      rw [State.bodyWritten, armed']
      rfl
    · next writes =>
      rw [if_neg writes] at carried ⊢
      exact (Turn.write_body_other wf' fun mem => absurd (carried.1 mem) List.not_mem_nil).trans ((body' slot).trans body)
  · rw [engine, aside.engine]
    exact ⟨rfl, rfl, rfl, rfl, rfl, rfl⟩
  · rw [FeedsErrors, integrity]
    exact errors
  · refine (Turn.write_armed (t := t.map f) (fun x => bodies x) fun b => read'.writes b).trans ?_
    rw [State.armedLeft, armed']
    rfl
  · rw [engine, aside.engine, frame]
  · rw [engine, aside.engine, frame]

end

end Sys2Proof.Machine
end

section
/-! PROOFS. The command turn of a command that names a kit, from its lookup to its answer (R81 to R83). -/

namespace Sys2Proof.Machine

set_option Elab.async false

/-! ## The answer -/

theorem answer_aside (s : State) (code : Byte) (st : Status) (fields : List Byte) :
    Aside s (s.release.respond code st fields) := ⟨rfl, rfl, rfl, rfl, rfl, id⟩

/-- The response of an answered turn stands after its write. -/
theorem Turn.answer_finished (t : Turn) (code : Byte) (st : Status) (fields : List Byte) :
    (t.answer code st fields).write.settle.finishedWith code st fields := by
  refine ⟨?_, ?_, congrArg StationPort.responseReady (Turn.write_port _), congrArg StationPort.resp (Turn.write_port _)⟩
  · rw [State.settle_engine, Turn.write_engine]
    rfl
  · rw [State.settle_engine, Turn.write_engine]
    rfl

theorem Turn.answer_link (t : Turn) (code : Byte) (st : Status) (fields : List Byte) :
    (t.answer code st fields).write.settle.link = t.s.link := Turn.write_link _

theorem Turn.answer_checkInSearch (t : Turn) (code : Byte) (st : Status) (fields : List Byte) :
    (t.answer code st fields).write.settle.engine.checkInSearch = t.s.engine.checkInSearch := by
  rw [State.settle_engine, Turn.write_engine]
  rfl

/-- The work `t'` of a turn of `u` is a turn on one slot that is then answered. -/
def AnswersOn (u : State) (t' : Turn) (slot : Nat) (tag : Tag) (r : Record) (access : BodyAccess) (looked : Option Nat)
    (code : Byte) (st : Status) (fields : List Byte) : Prop :=
  ∃ t, OnSlot u t .command slot tag r access ∧ DirRead u t looked ∧ t' = t.answer code st fields

theorem InnerOnly.engine {s t : State} (h : InnerOnly s t) : t.engine.held = s.engine.held
    ∧ t.engine.commandSearch = s.engine.commandSearch ∧ t.engine.checkInSearch = s.engine.checkInSearch
    ∧ t.engine.fetchCursor = s.engine.fetchCursor := by
  unfold InnerOnly at h
  rw [h]
  exact ⟨rfl, rfl, rfl, rfl⟩

theorem InnerOnly.outside {s t : State} (h : InnerOnly s t) : t.link = s.link ∧ t.port = s.port ∧ t.tariff = s.tariff
    ∧ t.time = s.time ∧ t.sweep = s.sweep := by
  unfold InnerOnly at h
  rw [h]
  exact ⟨rfl, rfl, rfl, rfl, rfl⟩

theorem AnswersOn.leaves {u : State} {t' : Turn} {slot : Nat} {tag : Tag} {r : Record} {access : BodyAccess}
    {looked : Option Nat} {code : Byte} {st : Status} {fields : List Byte}
    (h : AnswersOn u t' slot tag r access looked code st fields) (keeps : KeepsSurroundings u t'.write.settle) :
    CommandLeaves u t'.write.settle slot tag r access looked code st fields := by
  obtain ⟨t, on, read, rfl⟩ := h
  obtain ⟨_, _, search, cursor⟩ := on.frame.engine
  refine ⟨⟨on.leaves read (answer_aside _ code st fields) keeps, ?_⟩, ?_, ?_, t.answer_finished code st fields⟩
  · rw [State.settle_engine, Turn.write_engine]
    exact cursor
  · exact (t.answer_link code st fields).trans on.frame.outside.1
  · exact (t.answer_checkInSearch code st fields).trans search

/-! ## The state a turn begins on -/

/-- The state a turn granted to a requester begins on. -/
abbrev State.begins (s : State) (g : Requester) : State := (s.grant g).dropBegun

theorem commandTurn_keeps (s : State) (c : RecordCommand) : KeepsSurroundings s (s.turn .command c.work) :=
  (turn_keeps s .command c.work (c.work_keeps (Turn.start .command _))).surroundings

/-- The command turn whose work ends in an answer on one slot. -/
theorem commandTurn_answers {s : State} {c : RecordCommand} (h : s.commandTurnFor c) {slot : Nat} {tag : Tag} {r : Record}
    {access : BodyAccess} {looked : Option Nat} {code : Byte} {st : Status} {fields : List Byte}
    (work : AnswersOn (s.begins .command) (c.work (Turn.start .command (s.begins .command))) slot tag r access looked
      code st fields) :
    ∃ t, exec .commandTurn s = .next t ∧ CommandLeaves s t slot tag r access looked code st fields :=
  ⟨_, exec_commandTurn h, work.leaves (commandTurn_keeps s c)⟩

/-! ## The lookup and the read -/

theorem Turn.readLive_dir (t : Turn) (slot : Nat) (wb : Bool) : (t.readLive slot wb).1.s.dir = t.s.dir
    ∧ (t.readLive slot wb).1.s.integrity.dirCorrected = t.s.integrity.dirCorrected ∧ (t.readLive slot wb).1.ways = t.ways := by
  rw [Turn.readLive_turn]
  split
  · split <;> exact ⟨rfl, rfl, rfl⟩
  · split
    · obtain ⟨_, dir, _, _, counted⟩ :=
        feedError_memory_dir (t.s.putTag slot { t.s.tag slot with damaged := true }) (.record slot) t.who
      exact ⟨dir, counted, rfl⟩
    · exact ⟨rfl, rfl, rfl⟩

/-- What a turn on a slot whose body has just been read knows. -/
structure ReadOn (u : State) (t : Turn) (who : Requester) (slot : Nat) (looked : Option Nat) : Prop where
  on : OnSlot u t who slot (u.tagRead slot) (u.reading slot) .read
  read : DirRead u t looked

variable {u : State} {t : Turn} {who : Requester} {slot : Nat} {looked : Option Nat}

/-- A slot is read by a turn that has done no more than look. -/
theorem Looked.readOn (h : Looked u t who looked) (slot : Nat) : (t.readLive slot true).2 = u.reading slot
    ∧ ReadOn u (t.readLive slot true).1 who slot looked := by
  have on := h.onSlot slot (u.reading slot)
  obtain ⟨dir, counted, ways⟩ := t.readLive_dir slot true
  exact ⟨(Turn.readLive_record _ _ _).trans on.finds.2.1, on.readLive, h.read.congr dir counted ways⟩

theorem Looked.tag (h : Looked u t who looked) (slot : Nat) : t.s.tag slot = u.tag slot := (h.onSlot slot Record.cleared).tag

theorem ReadOn.answers (h : ReadOn u t .command slot looked) (code : Byte) (st : Status) (fields : List Byte) :
    AnswersOn u (t.answer code st fields) slot (u.tagRead slot) (u.reading slot) .read looked code st fields :=
  ⟨t, h.on, h.read, rfl⟩

theorem ReadOn.writes (h : ReadOn u t .command slot looked) (lc : Lifecycle) (r' : Record) (code : Byte) (st : Status)
    (fields : List Byte) : AnswersOn u ((t.putRecord slot lc r').answer code st fields) slot
      { u.tagRead slot with lifecycle := lc, marked := r'.marks.any } r' .written looked code st fields :=
  ⟨_, h.on.putRecord lc r', h.read.congr rfl rfl rfl, rfl⟩

theorem ReadOn.now (h : ReadOn u t who slot looked) : t.s.now = u.now := h.on.frame.now

theorem ReadOn.tariffClass (h : ReadOn u t who slot looked) (c : Nat) : t.s.tariffClass c = u.tariffClass c :=
  congrArg (cellRead TariffClass.reset · c) h.on.frame.outside.2.2.1

theorem ReadOn.image (h : ReadOn u t who slot looked) : t.image slot (u.reading slot) =
    recordImage slot (u.tagRead slot) (u.reading slot) (standingOf (u.tagRead slot).damaged (u.tagRead slot).lifecycle
      (u.reading slot) (u.tariffClass (u.reading slot).cls).grace u.now) := by
  rw [Turn.image, Turn.standing, h.on.tag, h.tariffClass, h.now]

/-- A turn whose lookup finds nothing, in a NORMAL bucket or in a REBUILDING one, or finds a live slot (R82). -/
theorem Turn.withKit_of_sound {u : State} (wf : Memory.wf u) (who : Requester) (code : Byte) {kit : KitId}
    (use : Turn → Nat → Record → Turn) (sound : (u.bucket (homeBucket kit)).broken = false) :
    ∃ t, Looked u t who (some (homeBucket kit)) ∧ (Turn.start who u).withKit code kit use =
      match u.lookupEnd (u.bucket (homeBucket kit)).values kit with
      | .absent => t.refuse code .notFound
      | .rebuilding => t.startCommandSearch kit
      | .found slot => t.useFound code slot use := by
  obtain ⟨t, read, looked⟩ := Turn.lookup_of_sound wf who sound
  refine ⟨t, looked, ?_⟩
  rw [Turn.withKit, read] <;> rfl

/-- The lookup of a command's turn finds a live slot, which is read and used (R82). -/
theorem Turn.withKit_found {u : State} (wf : Memory.wf u) (who : Requester) (code : Byte) {kit : KitId} {slot : Nat}
    (use : Turn → Nat → Record → Turn) (locates : u.locates kit slot) :
    ∃ t, ReadOn u t who slot (some (homeBucket kit))
      ∧ (Turn.start who u).withKit code kit use = use t slot (u.reading slot) := by
  obtain ⟨sound, found, live⟩ := locates
  obtain ⟨t, looked, work⟩ := Turn.withKit_of_sound wf who code use sound
  obtain ⟨record, on⟩ := looked.readOn slot
  refine ⟨_, on, work.trans ?_⟩
  rw [found]
  dsimp only
  rw [Turn.useFound, looked.tag, if_neg live]
  dsimp only
  rw [record]

theorem Turn.withClock_some {t : Turn} {now : Nat} (running : t.s.now = some now) (code : Byte) (f : Nat → Turn) :
    t.withClock code f = f now := by rw [Turn.withClock, running]

theorem Turn.withClock_none {t : Turn} (unset : t.s.now = none) (code : Byte) (f : Nat → Turn) :
    t.withClock code f = t.refuse code .clockUnset := by rw [Turn.withClock, unset]

/-- A DAMAGED slot refuses the command (R82). -/
theorem ReadOn.undamaged (h : ReadOn u t .command slot looked) (code : Byte) (f : Lifecycle → Turn) :
    t.undamaged code slot f = if (u.tagRead slot).damaged then t.refuse code .recordDamaged
      else f (u.tagRead slot).lifecycle := by rw [Turn.undamaged, h.on.tag]

end Sys2Proof.Machine
end

section
/-! PROOFS. What the commands that name a kit answer and leave on the live slot their lookup or search found (R85 to R89,
R17). -/

namespace Sys2Proof.Machine

set_option Elab.async false

/-- What a command's turn on one slot leaves in it, and what it answers. -/
structure Reply where
  tag : Tag
  record : Record
  access : BodyAccess
  status : Status
  fields : List Byte

/-- The work `t'` of a turn of `u` is a turn on one slot with this reply. -/
def Replies (u : State) (t' : Turn) (slot : Nat) (looked : Option Nat) (code : Byte) (a : Reply) : Prop :=
  AnswersOn u t' slot a.tag a.record a.access looked code a.status a.fields

/-- The command's turn has ended with this reply. -/
def Replied (s t : State) (slot : Nat) (looked : Option Nat) (code : Byte) (a : Reply) : Prop :=
  CommandLeaves s t slot a.tag a.record a.access looked code a.status a.fields

/-- A refusal, after the read of the slot. -/
def refusal (tag : Tag) (r : Record) (st : Status) : Reply := ⟨tag, r, .read, st, []⟩

/-- The result of a credit computation, written whole, or CREDIT_FULL (R83). -/
def creditReply (tag : Tag) (r : Record) (c : TariffClass) (now : Nat) : Option CreditResult → Reply
  | none => refusal tag r .creditFull
  | some res => ⟨{ tag with lifecycle := res.account.lc, marked := true }, res.account.r, .written, .ok,
      creditBytes res (res.account.standing c.grace now)⟩

/-- TOP UP on a slot found (R85). -/
def topUpReply (tag : Tag) (r : Record) (c : TariffClass) (amount : BitVec 24) (now : Nat) : Reply :=
  if tag.damaged then refusal tag r .recordDamaged
  else if tag.lifecycle = .owned then refusal tag r .wrongLifecycle
  else if c.price = 0 then refusal tag r .classClosed
  else creditReply tag r c now (topUp ⟨tag.lifecycle, r⟩ c amount.toNat now)

/-- ADJUST on a slot found (R86). -/
def adjustReply (tag : Tag) (r : Record) (c : TariffClass) (minutes : BitVec 24) (now : Nat) : Reply :=
  if tag.damaged then refusal tag r .recordDamaged
  else if tag.lifecycle = .owned then refusal tag r .wrongLifecycle
  else creditReply tag r c now (if 0 < minutes.toInt then adjustUp ⟨tag.lifecycle, r⟩ c minutes.toInt.natAbs now
    else some (adjustDown ⟨tag.lifecycle, r⟩ c minutes.toInt.natAbs now))

/-- SUSPEND on a slot found (R87). -/
def suspendReply (tag : Tag) (r : Record) (c : TariffClass) (now : Nat) : Reply :=
  let a := suspendAccount ⟨tag.lifecycle, r⟩ c now
  if tag.damaged then refusal tag r .recordDamaged
  else if tag.lifecycle ≠ .enrolled ∧ tag.lifecycle ≠ .running then refusal tag r .wrongLifecycle
  else ⟨{ tag with lifecycle := .suspended, marked := true }, a.r, .written, .ok,
    beBytes 3 (a.r.frozen.getD 0) ++ [tag.lifecycle.code] ++ beBytes 3 a.r.reserve ++ [0x05#8]⟩

/-- RESUME on a slot found (R88). -/
def resumeReply (tag : Tag) (r : Record) (c : TariffClass) (now : Nat) : Reply :=
  let a := resumeAccount ⟨tag.lifecycle, r⟩ c now
  if tag.damaged then refusal tag r .recordDamaged
  else if tag.lifecycle ≠ .suspended then refusal tag r .wrongLifecycle
  else ⟨{ tag with lifecycle := a.lc, marked := true }, a.r, .written, .ok,
    [a.lc.code] ++ beBytes 4 a.r.expiry ++ beBytes 3 a.r.reserve ++ [standingCode (a.standing c.grace now)]⟩

/-- CHANGE CLASS on a slot found (R89), with the class it is to have. -/
def changeClassReply (tag : Tag) (r : Record) (cls : Byte) (c : TariffClass) (clock : Option Nat) : Reply :=
  let r' := { r with cls := cls.toNat, marks := { r.marks with changed := true } }
  if tag.damaged then refusal tag r .recordDamaged
  else if tag.lifecycle = .owned then refusal tag r .wrongLifecycle
  else if c.price = 0 then refusal tag r .classClosed
  else ⟨{ tag with marked := true }, r', .written, .ok,
    [cls, standingCode (standingOf false tag.lifecycle r' c.grace clock)]⟩

/-- READ RECORD on a slot found (R17). -/
def readReply (slot : Nat) (tag : Tag) (r : Record) (c : TariffClass) (clock : Option Nat) : Reply :=
  ⟨tag, r, .read, .ok, imageBytes (recordImage slot tag r (standingOf tag.damaged tag.lifecycle r c.grace clock))⟩

/-! ## Marks after a credit change -/

theorem Marks.any_of_changed {m : Marks} (changed : m.changed = true) : m.any = true := by
  rw [Marks.any, changed]
  rfl

theorem creditChange_marks_any (a : Account) (grace now : Nat) : (a.creditChange grace now).r.marks.any = true :=
  Marks.any_of_changed (by rw [creditChange_eq])

theorem topUp_marks_any {a : Account} {c : TariffClass} {amount now : Nat} {res : CreditResult}
    (h : topUp a c amount now = some res) : res.account.r.marks.any = true := by
  unfold topUp at h
  dsimp only at h
  split at h
  · cases h
    exact Marks.any_of_changed rfl
  · rw [buyMinutes_eq] at h
    split at h
    · cases h
    · cases h
      exact creditChange_marks_any _ _ _

theorem adjustUp_marks_any {a : Account} {c : TariffClass} {m now : Nat} {res : CreditResult}
    (h : adjustUp a c m now = some res) : res.account.r.marks.any = true := by
  rw [adjustUp_eq] at h
  split at h
  · cases h
  · cases h
    exact creditChange_marks_any _ _ _

theorem adjustDown_marks_any (a : Account) (c : TariffClass) (m now : Nat) :
    (adjustDown a c m now).account.r.marks.any = true := creditChange_marks_any _ _ _

/-! ## The uses of a slot -/

section
variable {u : State} {t : Turn} {slot : Nat} {looked : Option Nat} {now : Nat}

theorem ReadOn.replies_refusal (h : ReadOn u t .command slot looked) (code : Byte) (st : Status) :
    Replies u (t.refuse code st) slot looked code (refusal (u.tagRead slot) (u.reading slot) st) := h.answers code st []

theorem ReadOn.replies_credit (h : ReadOn u t .command slot looked) (code : Byte) (c : TariffClass) (now : Nat)
    {res : Option CreditResult} (marks : ∀ x, res = some x → x.account.r.marks.any = true) :
    Replies u (t.answerCredit code slot c now res) slot looked code
      (creditReply (u.tagRead slot) (u.reading slot) c now res) := by
  cases res with
  | none => exact h.replies_refusal code .creditFull
  | some res =>
    have written := h.writes res.account.lc res.account.r code .ok (creditBytes res (res.account.standing c.grace now))
    rw [marks res rfl] at written
    exact written

theorem ReadOn.topUp (h : ReadOn u t .command slot looked) (running : u.now = some now) (amount : BitVec 24) :
    Replies u (useTopUp amount t slot (u.reading slot)) slot looked 0x11
      (topUpReply (u.tagRead slot) (u.reading slot) (u.tariffClass (u.reading slot).cls) amount now) := by
  rw [useTopUp, Turn.withClock_some (h.now.trans running), h.undamaged, topUpReply]
  split
  · exact h.replies_refusal _ _
  dsimp only
  rw [h.tariffClass]
  split
  · exact h.replies_refusal _ _
  split
  · exact h.replies_refusal _ _
  · exact h.replies_credit _ _ _ fun _ => topUp_marks_any

theorem ReadOn.adjust (h : ReadOn u t .command slot looked) (running : u.now = some now) (minutes : BitVec 24) :
    Replies u (useAdjust minutes t slot (u.reading slot)) slot looked 0x12
      (adjustReply (u.tagRead slot) (u.reading slot) (u.tariffClass (u.reading slot).cls) minutes now) := by
  rw [useAdjust, Turn.withClock_some (h.now.trans running), h.undamaged, adjustReply]
  split
  · exact h.replies_refusal _ _
  dsimp only
  rw [h.tariffClass]
  split
  · exact h.replies_refusal _ _
  · refine h.replies_credit _ _ _ fun x result => ?_
    split at result
    · exact adjustUp_marks_any result
    · cases result
      exact adjustDown_marks_any _ _ _ _

theorem ReadOn.suspend (h : ReadOn u t .command slot looked) (running : u.now = some now) :
    Replies u (useSuspend t slot (u.reading slot)) slot looked 0x13
      (suspendReply (u.tagRead slot) (u.reading slot) (u.tariffClass (u.reading slot).cls) now) := by
  rw [useSuspend, Turn.withClock_some (h.now.trans running), h.undamaged, suspendReply]
  split
  · exact h.replies_refusal _ _
  dsimp only
  rw [h.tariffClass]
  split
  · exact h.replies_refusal _ _
  · have marks : (suspendAccount ⟨(u.tagRead slot).lifecycle, u.reading slot⟩
        (u.tariffClass (u.reading slot).cls) now).r.marks.any = true := Marks.any_of_changed rfl
    have written := h.writes .suspended (suspendAccount ⟨(u.tagRead slot).lifecycle, u.reading slot⟩
        (u.tariffClass (u.reading slot).cls) now).r
    rw [marks] at written
    exact written _ _ _

theorem ReadOn.resume (h : ReadOn u t .command slot looked) (running : u.now = some now) :
    Replies u (useResume t slot (u.reading slot)) slot looked 0x14
      (resumeReply (u.tagRead slot) (u.reading slot) (u.tariffClass (u.reading slot).cls) now) := by
  rw [useResume, Turn.withClock_some (h.now.trans running), h.undamaged, resumeReply]
  split
  · exact h.replies_refusal _ _
  dsimp only
  rw [h.tariffClass]
  split
  · exact h.replies_refusal _ _
  · have marks : (resumeAccount ⟨(u.tagRead slot).lifecycle, u.reading slot⟩
        (u.tariffClass (u.reading slot).cls) now).r.marks.any = true := creditChange_marks_any _ _ _
    have written := h.writes (resumeAccount ⟨(u.tagRead slot).lifecycle, u.reading slot⟩
        (u.tariffClass (u.reading slot).cls) now).lc (resumeAccount ⟨(u.tagRead slot).lifecycle, u.reading slot⟩
        (u.tariffClass (u.reading slot).cls) now).r
    rw [marks] at written
    exact written _ _ _

theorem ReadOn.changeClass (h : ReadOn u t .command slot looked) (cls : Byte) :
    Replies u (useChangeClass cls t slot (u.reading slot)) slot looked 0x15
      (changeClassReply (u.tagRead slot) (u.reading slot) cls (u.tariffClass cls.toNat) u.now) := by
  rw [useChangeClass, h.undamaged, changeClassReply]
  split
  · exact h.replies_refusal _ _
  next undamaged =>
  dsimp only
  rw [h.tariffClass]
  split
  · exact h.replies_refusal _ _
  split
  · exact h.replies_refusal _ _
  · have put := h.on.putRecord (u.tagRead slot).lifecycle ((u.reading slot).toClass cls.toNat)
    have marks : ((u.reading slot).toClass cls.toNat).marks.any = true := Marks.any_of_changed rfl
    have written := h.writes (u.tagRead slot).lifecycle ((u.reading slot).toClass cls.toNat)
    rw [marks] at written
    have standing : (t.putRecord slot (u.tagRead slot).lifecycle ((u.reading slot).toClass cls.toNat)).standing slot
        ((u.reading slot).toClass cls.toNat) = standingOf false (u.tagRead slot).lifecycle
          ((u.reading slot).toClass cls.toNat) (u.tariffClass cls.toNat).grace u.now := by
      rw [Turn.standing, put.tag, put.frame.now, Bool.eq_false_iff.2 undamaged]
      exact congrArg (fun c : TariffClass => standingOf _ _ _ c.grace _) (h.tariffClass _)
    rw [standing]
    exact written _ _ _

theorem ReadOn.readRecord (h : ReadOn u t .command slot looked) :
    Replies u (useReadRecord t slot (u.reading slot)) slot looked 0x19
      (readReply slot (u.tagRead slot) (u.reading slot) (u.tariffClass (u.reading slot).cls) u.now) := by
  rw [useReadRecord, h.image]
  exact h.answers _ _ _

end

end Sys2Proof.Machine
end

section
/-! PROOFS. The command turns of TOP UP, ADJUST, SUSPEND, RESUME, CHANGE CLASS and READ RECORD on a slot found (R82 to R89,
R17). -/

namespace Sys2Proof.Machine

set_option Elab.async false

/-! ## The turns on a slot that the lookup found -/

section
variable {s : State} {kit : KitId} {slot now : Nat}

theorem topUpTurn_replied {amount : BitVec 24} (h : s.commandTurnFor (.topUp kit amount)) (running : s.now = some now)
    (locates : s.locates kit slot) : ∃ t, exec .commandTurn s = .next t ∧ Replied s t slot (some (homeBucket kit)) 0x11
      (topUpReply (s.tagRead slot) (s.reading slot) (s.tariffClass (s.reading slot).cls) amount now) := by
  obtain ⟨t, on, use⟩ := Turn.withKit_found (u := s.begins .command) h.1 .command 0x11 (useTopUp amount) locates
  refine commandTurn_answers h ?_
  rw [RecordCommand.work, Turn.withClock_some (now := now) running, use]
  exact on.topUp running amount

theorem adjustTurn_replied {minutes : BitVec 24} (h : s.commandTurnFor (.adjust kit minutes)) (running : s.now = some now)
    (locates : s.locates kit slot) : ∃ t, exec .commandTurn s = .next t ∧ Replied s t slot (some (homeBucket kit)) 0x12
      (adjustReply (s.tagRead slot) (s.reading slot) (s.tariffClass (s.reading slot).cls) minutes now) := by
  obtain ⟨t, on, use⟩ := Turn.withKit_found (u := s.begins .command) h.1 .command 0x12 (useAdjust minutes) locates
  refine commandTurn_answers h ?_
  rw [RecordCommand.work, Turn.withClock_some (now := now) running, use]
  exact on.adjust running minutes

theorem suspendTurn_replied (h : s.commandTurnFor (.suspend kit)) (running : s.now = some now)
    (locates : s.locates kit slot) : ∃ t, exec .commandTurn s = .next t ∧ Replied s t slot (some (homeBucket kit)) 0x13
      (suspendReply (s.tagRead slot) (s.reading slot) (s.tariffClass (s.reading slot).cls) now) := by
  obtain ⟨t, on, use⟩ := Turn.withKit_found (u := s.begins .command) h.1 .command 0x13 useSuspend locates
  refine commandTurn_answers h ?_
  rw [RecordCommand.work, Turn.withClock_some (now := now) running, use]
  exact on.suspend running

theorem resumeTurn_replied (h : s.commandTurnFor (.resume kit)) (running : s.now = some now)
    (locates : s.locates kit slot) : ∃ t, exec .commandTurn s = .next t ∧ Replied s t slot (some (homeBucket kit)) 0x14
      (resumeReply (s.tagRead slot) (s.reading slot) (s.tariffClass (s.reading slot).cls) now) := by
  obtain ⟨t, on, use⟩ := Turn.withKit_found (u := s.begins .command) h.1 .command 0x14 useResume locates
  refine commandTurn_answers h ?_
  rw [RecordCommand.work, Turn.withClock_some (now := now) running, use]
  exact on.resume running

theorem changeClassTurn_replied {cls : Byte} (h : s.commandTurnFor (.changeClass kit cls))
    (locates : s.locates kit slot) : ∃ t, exec .commandTurn s = .next t ∧ Replied s t slot (some (homeBucket kit)) 0x15
      (changeClassReply (s.tagRead slot) (s.reading slot) cls (s.tariffClass cls.toNat) s.now) := by
  obtain ⟨t, on, use⟩ := Turn.withKit_found (u := s.begins .command) h.1 .command 0x15 (useChangeClass cls) locates
  refine commandTurn_answers h ?_
  rw [RecordCommand.work, use]
  exact on.changeClass cls

theorem readRecordTurn_replied (h : s.commandTurnFor (.readRecord kit))
    (locates : s.locates kit slot) : ∃ t, exec .commandTurn s = .next t ∧ Replied s t slot (some (homeBucket kit)) 0x19
      (readReply slot (s.tagRead slot) (s.reading slot) (s.tariffClass (s.reading slot).cls) s.now) := by
  obtain ⟨t, on, use⟩ := Turn.withKit_found (u := s.begins .command) h.1 .command 0x19 useReadRecord locates
  refine commandTurn_answers h ?_
  rw [RecordCommand.work, use]
  exact on.readRecord

/-! ## What a read gives -/

/-- A read that gives a record and reports nothing leaves the tag (R147, R149). -/
theorem State.gives.read {r : Record} (h : s.gives slot r) : s.tagRead slot = s.tag slot ∧ s.reading slot = r := by
  rcases h with ⟨damaged, stored⟩ | ⟨undamaged, sound, reads⟩
  · refine ⟨State.tagRead_of_not_newlyDamaged ?_, ?_⟩
    · rw [State.newlyDamaged, damaged]
      rfl
    · rw [State.reading, if_pos damaged, stored]
  · refine ⟨State.tagRead_of_not_newlyDamaged ?_, ?_⟩
    · rw [State.newlyDamaged, decide_eq_false sound, Bool.and_false]
    · rw [State.reading, undamaged, if_neg nofun, reads]

theorem State.finds.read {r : Record} (h : s.finds kit slot r) : s.tagRead slot = s.tag slot ∧ s.reading slot = r :=
  State.gives.read (.inr h.2)

theorem State.finds.undamaged {r : Record} (h : s.finds kit slot r) : ¬(s.tag slot).damaged = true :=
  Bool.eq_false_iff.1 h.2.1

end

/-! ## TOP UP and ADJUST -/

theorem creditBytes_eq (res : CreditResult) (st : Option Standing) : creditBytes res st =
    beBytes 3 res.applied ++ beBytes 3 (res.toReserve % 16777216).toNat ++ beBytes 3 res.unapplied
      ++ beBytes 4 res.account.r.expiry
      ++ (match res.account.lc, res.account.r.frozen with | .suspended, some f => beBytes 3 f | _, _ => [0#8, 0, 0])
      ++ beBytes 3 res.account.r.reserve ++ beBytes 4 res.account.r.outstanding ++ beBytes 3 res.surplus
      ++ beBytes 4 res.account.r.paidTotal ++ [standingCode st] := by
  have frozen : beBytes 3 (if res.account.lc = .suspended then res.account.r.frozen.getD 0 else 0) =
      match res.account.lc, res.account.r.frozen with | .suspended, some f => beBytes 3 f | _, _ => [0#8, 0, 0] := by
    cases res.account.lc <;> cases res.account.r.frozen <;> simp [beBytes]
  rw [creditBytes, frozen]
  rfl

theorem creditBytes_length (res : CreditResult) (st : Option Standing) : (creditBytes res st).length = 31 := by
  simp [creditBytes, signedBytes, beBytes_length]

theorem standingCode_eq (st : Option Standing) : standingCode st = match st with
    | none => 0x00#8
    | some .fresh => 0x01
    | some .credit => 0x02
    | some .grace => 0x03
    | some .locked => 0x04
    | some .barred => 0x05
    | some .owned => 0x06
    | some .keep => 0x07 := by
  rcases st with _ | st
  · rfl
  · cases st <;> rfl

/-- Settles O30: the replies of TOP UP and ADJUST, and the bytes of a credit result. -/
theorem topUpAndAdjustTurns : Obligations.TopUpAndAdjustTurns := by
  refine ⟨fun s kit amount slot r now turn running finds => ?_, fun s kit minutes slot r now turn running finds => ?_,
    fun res st => ⟨?_, creditBytes_length res st⟩⟩
  · obtain ⟨t, row, replied⟩ := topUpTurn_replied turn running finds.1
    obtain ⟨tag, reading⟩ := finds.read
    rw [tag, reading, topUpReply, if_neg finds.undamaged] at replied
    refine ⟨t, row, ?_⟩
    split
    · next owned => rwa [if_pos owned] at replied
    next other =>
    rw [if_neg other] at replied
    split
    · next closed => rwa [if_pos closed] at replied
    next priced =>
    rw [if_neg priced] at replied
    split
    · next full => rwa [full] at replied
    · next res result => rwa [result] at replied
  · obtain ⟨t, row, replied⟩ := adjustTurn_replied turn running finds.1
    obtain ⟨tag, reading⟩ := finds.read
    rw [tag, reading, adjustReply, if_neg finds.undamaged] at replied
    refine ⟨t, row, ?_⟩
    split
    · next owned => rwa [if_pos owned] at replied
    next other =>
    rw [if_neg other] at replied
    split
    · next full => rwa [full] at replied
    · next res result => rwa [result] at replied
  · rw [creditBytes_eq, standingCode_eq] <;> rfl

/-! ## SUSPEND and RESUME -/

/-- Settles O31: the replies of SUSPEND and RESUME. -/
theorem suspendResumeTurns : Obligations.SuspendResumeTurns := by
  intro s kit slot r now running finds
  obtain ⟨tag, reading⟩ := finds.read
  refine ⟨fun turn => ?_, fun turn => ?_⟩
  · obtain ⟨t, row, replied⟩ := suspendTurn_replied turn running finds.1
    rw [tag, reading, suspendReply, if_neg finds.undamaged] at replied
    refine ⟨t, row, ?_⟩
    split
    · next other => rwa [if_pos other] at replied
    · next runs => rwa [if_neg runs] at replied
  · obtain ⟨t, row, replied⟩ := resumeTurn_replied turn running finds.1
    rw [tag, reading, resumeReply, if_neg finds.undamaged] at replied
    refine ⟨t, row, ?_⟩
    split
    · next other => rwa [if_pos other] at replied
    · next suspended => rwa [if_neg suspended] at replied

end Sys2Proof.Machine
end

section
/-! PROOFS. The bytes of a record image (R177), and the command turns that read a slot or change its class. -/

namespace Sys2Proof.Machine

set_option Elab.async false

/-! ## The fields of an image -/

/-- A field takes the low bytes of its number. -/
theorem beBytes_mod (n x : Nat) : beBytes n (x % 256 ^ n) = beBytes n x := by
  induction n generalizing x with
  | zero => rfl
  | succ n ih =>
    have high : x % 256 ^ (n + 1) / 256 ^ n = x / 256 ^ n % 256 := by
      rw [Nat.pow_succ, Nat.mod_mul_right_div_self]
    have low : x % 256 ^ (n + 1) % 256 ^ n = x % 256 ^ n := Nat.mod_mod_of_dvd x (Nat.pow_dvd_pow 256 (Nat.le_succ n))
    have byte : BitVec.ofNat 8 (x / 256 ^ n % 256) = BitVec.ofNat 8 (x / 256 ^ n) :=
      BitVec.eq_of_toNat_eq (by simp)
    rw [beBytes, beBytes, high, low, byte]

theorem beBytes_ofNat16 (x : Nat) : beBytes 2 (BitVec.ofNat 16 x).toNat = beBytes 2 x := beBytes_mod 2 x

theorem beBytes_ofNat24 (x : Nat) : beBytes 3 (BitVec.ofNat 24 x).toNat = beBytes 3 x := beBytes_mod 3 x

theorem beBytes_ofNat32 (x : Nat) : beBytes 4 (BitVec.ofNat 32 x).toNat = beBytes 4 x := beBytes_mod 4 x

/-- A byte of flags, the first flag in bit 0. -/
def flagsByte (l : List Bool) : List Byte := beBytes 1 ((l.zipIdx.map fun e => if e.1 then 2 ^ e.2 else 0).sum)

theorem flagsByte_six (a b c d e f : Bool) : flagsByte [a, b, c, d, e, f] =
    [BitVec.ofNat 8 (oneIf a + 2 * oneIf b + 4 * oneIf c + 8 * oneIf d + 16 * oneIf e + 32 * oneIf f)] := by
  revert a b c d e f
  decide

theorem Record.presenceByte_eq (r : Record) : [r.presenceByte] = flagsByte [r.awaiting.isSome, r.lastCheckIn.isSome,
    r.frozen.isSome, r.prior.isSome, r.lapseNoted, r.silenceNoted] := (flagsByte_six _ _ _ _ _ _).symm

theorem Marks.toByte_eq (m : Marks) : [m.toByte] = flagsByte [m.changed, m.delivered, m.lapsed, m.silent, m.tamper,
    m.drift] := (flagsByte_six _ _ _ _ _ _).symm

/-- The kind and the number by which an image names a location (R177). -/
def Location.place : Location → Nat × Nat
  | .nowhere => (0, 0)
  | .way b w => (1, b * 4 + w.val)
  | .spill i => (2, i)

theorem Tag.imageByte_eq (tag : Tag) : [tag.imageByte] =
    beBytes 1 ((if tag.damaged then 128 else 0) + tag.location.place.1) := by
  obtain ⟨lifecycle, damaged, location, marked⟩ := tag
  rw [beBytes_one_eq]
  cases location <;> cases damaged <;> rfl

theorem Location.imageField_eq (loc : Location) : beBytes 2 loc.imageField.toNat = beBytes 2 loc.place.2 := by
  cases loc with
  | nowhere => rfl
  | way b w => exact beBytes_ofNat16 _
  | spill i => exact beBytes_ofNat16 _

theorem drift_bytes (d : Int) : beBytes 2 (BitVec.ofInt 16 d).toNat = beBytes 2 (d % 65536).toNat := by
  rw [BitVec.toNat_ofInt]
  rfl

/-- The 47 bytes of a record image, one field after the other (R177). -/
theorem imageBytes_recordImage (slot : Nat) (tag : Tag) (r : Record) (st : Option Standing) :
    imageBytes (recordImage slot tag r st) = beBytes 2 slot ++ [tag.lifecycle.code]
      ++ beBytes 1 ((if tag.damaged then 128 else 0) + tag.location.place.1) ++ beBytes 2 tag.location.place.2
      ++ beBytes 4 r.kit.toNat ++ beBytes 1 r.cls
      ++ flagsByte [r.awaiting.isSome, r.lastCheckIn.isSome, r.frozen.isSome, r.prior.isSome, r.lapseNoted,
          r.silenceNoted]
      ++ flagsByte [r.marks.changed, r.marks.delivered, r.marks.lapsed, r.marks.silent, r.marks.tamper, r.marks.drift]
      ++ beBytes 4 r.expiry ++ beBytes 3 r.reserve ++ beBytes 2 r.residue ++ beBytes 4 r.outstanding
      ++ beBytes 4 r.paidTotal ++ beBytes 2 r.issued.toNat ++ beBytes 2 r.acknowledged.toNat
      ++ beBytes 2 (r.awaiting.getD 0).toNat ++ beBytes 4 (r.lastCheckIn.getD 0) ++ beBytes 2 (r.drift % 65536).toNat
      ++ beBytes 3 (r.frozen.getD 0) ++ [priorCode r.prior] ++ [standingCode st] := by
  rw [← Record.presenceByte_eq, ← Marks.toByte_eq, ← Tag.imageByte_eq, ← Location.imageField_eq, ← drift_bytes,
    beBytes_one_eq r.cls]
  simp only [imageBytes, recordImage, beBytes_ofNat16, beBytes_ofNat24, beBytes_ofNat32, List.append_assoc,
    List.cons_append, List.nil_append]

theorem imageBytes_length (i : RecordImage) : (imageBytes i).length = 47 := by
  simp [imageBytes, beBytes_length]

theorem Lifecycle.code_eq (lc : Lifecycle) : lc.code = match lc with
    | .free => 0x00#8 | .enrolled => 0x01 | .running => 0x02 | .suspended => 0x03 | .owned => 0x04 := by
  cases lc <;> rfl

/-! ## CHANGE CLASS and READ RECORD -/

/-- Settles O32: the replies of CHANGE CLASS and READ RECORD, and the bytes of an image. -/
theorem changeClassAndReadTurns : Obligations.ChangeClassAndReadTurns := by
  refine ⟨fun s kit cls slot r locates gives => ?_, fun slot tag r st => ⟨?_, imageBytes_length _⟩⟩
  · obtain ⟨tag, reading⟩ := gives.read
    refine ⟨fun turn undamaged => ?_, fun turn => ?_⟩
    · obtain ⟨t, row, replied⟩ := changeClassTurn_replied turn locates
      rw [tag, reading, changeClassReply, if_neg (Bool.eq_false_iff.1 undamaged)] at replied
      refine ⟨t, row, ?_⟩
      split
      · next owned => rwa [if_pos owned] at replied
      next other =>
      rw [if_neg other] at replied
      split
      · next closed => rwa [if_pos closed] at replied
      · next priced => rwa [if_neg priced] at replied
    · obtain ⟨t, row, replied⟩ := readRecordTurn_replied turn locates
      rw [tag, reading] at replied
      exact ⟨t, row, replied⟩
  · refine (imageBytes_recordImage slot tag r st).trans ?_
    rw [Lifecycle.code_eq, standingCode_eq]
    cases tag.location <;> cases r.awaiting <;> cases r.lastCheckIn <;> cases r.frozen <;> cases r.prior <;> rfl

end Sys2Proof.Machine
end

section
/-! PROOFS. How a lookup ends, and the command turns that end without a use of the slot found (R64, R81, R82). -/

namespace Sys2Proof.Machine

set_option Elab.async false

/-! ## Ways and spill entries that hold a kit -/

theorem wayHolding_eq_none_iff {ways : Four (Option Entry)} {kit : KitId} :
    wayHolding ways kit = none ↔ ∀ w slot, ways.get w ≠ some ⟨kit, slot⟩ := by
  have holds (w : Fin 4) : (ways.get w).map (·.kit) = some kit ↔ ∃ slot, ways.get w = some ⟨kit, slot⟩ := by
    rcases ways.get w with _ | ⟨k, slot⟩
    · simp
    · simp
  constructor
  · intro none w slot here
    unfold wayHolding at none
    split at none
    · next lowest =>
      have fails := Four.lowest_eq_none.1 lowest w
      rw [decide_eq_false_iff_not, holds] at fails
      exact fails ⟨slot, here⟩
    · next v lowest =>
      have found := Four.lowest_eq_some lowest
      rw [decide_eq_true_eq, holds] at found
      obtain ⟨x, found⟩ := found
      rw [found] at none
      cases none
  · intro unheld
    have lowest : (ways.lowest fun e => decide (e.map (·.kit) = some kit)) = none := by
      refine Four.lowest_eq_none.2 fun w => ?_
      rw [decide_eq_false_iff_not, holds]
      exact fun ⟨slot, here⟩ => unheld w slot here
    rw [wayHolding, lowest]

theorem wayHolding_sound {ways : Four (Option Entry)} {kit : KitId} {slot : Nat}
    (h : wayHolding ways kit = some slot) : ∃ w, ways.get w = some ⟨kit, slot⟩ := by
  unfold wayHolding at h
  split at h
  · cases h
  · next w lowest =>
    have found := Four.lowest_eq_some lowest
    refine ⟨w, ?_⟩
    rcases entry : ways.get w with _ | ⟨k, x⟩
    · rw [entry] at h
      cases h
    · rw [entry] at h found
      cases h
      rw [decide_eq_true_eq] at found
      cases found
      rfl

/-- The slot of the one way that holds the kit. -/
theorem wayHolding_unique {ways : Four (Option Entry)} {kit : KitId} {w : Fin 4} {slot : Nat}
    (here : ways.get w = some ⟨kit, slot⟩) (only : ∀ v x, ways.get v = some ⟨kit, x⟩ → v = w) :
    wayHolding ways kit = some slot := by
  cases holding : wayHolding ways kit with
  | none => exact absurd here (wayHolding_eq_none_iff.1 holding w slot)
  | some x =>
    obtain ⟨v, there⟩ := wayHolding_sound holding
    obtain rfl := only v x there
    rw [here] at there
    cases there
    rfl

theorem State.spillHolds_iff {s : State} {home : Nat} {kit : KitId} {i : Nat} :
    s.spillHolds home kit i = true ↔ ∃ slot, s.spillEntry i = some ⟨kit, slot, home⟩ := by
  unfold State.spillHolds
  rcases s.spillEntry i with _ | ⟨k, x, h⟩
  · simp
  · simp [and_comm]

theorem State.spillHolding_eq_none_iff {s : State} {home : Nat} {kit : KitId} :
    s.spillHolding home kit = none ↔ ∀ i slot, ¬(i < 32 ∧ s.spillEntry i = some ⟨kit, slot, home⟩) := by
  unfold State.spillHolding
  constructor
  · intro none i slot ⟨inRange, here⟩
    split at none
    · next fails =>
      have fails := (scan_zero_eq_none_iff (by decide)).1 fails i inRange
      exact Bool.eq_false_iff.1 fails (State.spillHolds_iff.2 ⟨slot, here⟩)
    · next x found =>
      obtain ⟨_, holds, _⟩ := (scan_zero_eq_some_iff (by decide)).1 found
      obtain ⟨y, found⟩ := State.spillHolds_iff.1 holds
      rw [found] at none
      cases none
  · intro unspilled
    have fails : scan Config.spillEntries (s.spillHolds home kit) Config.spillEntries 0 = none := by
      refine (scan_zero_eq_none_iff (by decide)).2 fun i inRange => Bool.eq_false_iff.2 fun holds => ?_
      obtain ⟨slot, here⟩ := State.spillHolds_iff.1 holds
      exact unspilled i slot ⟨inRange, here⟩
    rw [fails]

theorem State.spillHolding_sound {s : State} {home : Nat} {kit : KitId} {slot : Nat}
    (h : s.spillHolding home kit = some slot) : ∃ i, i < 32 ∧ s.spillEntry i = some ⟨kit, slot, home⟩ := by
  unfold State.spillHolding at h
  split at h
  · cases h
  · next i found =>
    obtain ⟨inRange, holds, _⟩ := (scan_zero_eq_some_iff (by decide)).1 found
    obtain ⟨x, here⟩ := State.spillHolds_iff.1 holds
    rw [here] at h
    cases h
    exact ⟨i, inRange, here⟩

theorem State.spillHolding_unique {s : State} {home : Nat} {kit : KitId} {i slot : Nat}
    (here : i < 32 ∧ s.spillEntry i = some ⟨kit, slot, home⟩)
    (only : ∀ j x, j < 32 ∧ s.spillEntry j = some ⟨kit, x, home⟩ → j = i) : s.spillHolding home kit = some slot := by
  cases holding : s.spillHolding home kit with
  | none => exact absurd here (State.spillHolding_eq_none_iff.1 holding i slot)
  | some x =>
    obtain ⟨j, there⟩ := State.spillHolding_sound holding
    obtain rfl := only j x there
    rw [here.2] at there
    cases there.2
    rfl

/-! ## The ends of a lookup -/

section
variable {s : State} {ways : Four (Option Entry)} {kit : KitId} {slot : Nat}

theorem State.lookupEnd_of_way (held : wayHolding ways kit = some slot) : s.lookupEnd ways kit = .found slot := by
  rw [State.lookupEnd, held]

theorem State.lookupEnd_of_spill (unheld : wayHolding ways kit = none)
    (spilled : s.spillHolding (homeBucket kit) kit = some slot) : s.lookupEnd ways kit = .found slot := by
  rw [State.lookupEnd, unheld, spilled]

theorem State.lookupEnd_of_neither (unheld : wayHolding ways kit = none)
    (unspilled : s.spillHolding (homeBucket kit) kit = none) : s.lookupEnd ways kit =
      if (s.bucket (homeBucket kit)).state = .normal then .absent else .rebuilding := by
  rw [State.lookupEnd, unheld, unspilled]
  cases (s.bucket (homeBucket kit)).state <;> rfl

theorem State.lookupEnd_eq_absent_iff : s.lookupEnd ways kit = .absent ↔ wayHolding ways kit = none
    ∧ s.spillHolding (homeBucket kit) kit = none ∧ (s.bucket (homeBucket kit)).state = .normal := by
  cases held : wayHolding ways kit with
  | some slot => simp [State.lookupEnd_of_way held]
  | none =>
    cases spilled : s.spillHolding (homeBucket kit) kit with
    | some slot => simp [State.lookupEnd_of_spill held spilled]
    | none => simp [State.lookupEnd_of_neither held spilled]

theorem State.lookupEnd_eq_rebuilding_iff : s.lookupEnd ways kit = .rebuilding ↔ wayHolding ways kit = none
    ∧ s.spillHolding (homeBucket kit) kit = none ∧ (s.bucket (homeBucket kit)).state ≠ .normal := by
  cases held : wayHolding ways kit with
  | some slot => simp [State.lookupEnd_of_way held]
  | none =>
    cases spilled : s.spillHolding (homeBucket kit) kit with
    | some slot => simp [State.lookupEnd_of_spill held spilled]
    | none => simp [State.lookupEnd_of_neither held spilled]

theorem State.lookupEnd_eq_found (h : s.lookupEnd ways kit = .found slot) : wayHolding ways kit = some slot
    ∨ wayHolding ways kit = none ∧ s.spillHolding (homeBucket kit) kit = some slot := by
  cases held : wayHolding ways kit with
  | some x =>
    rw [State.lookupEnd_of_way held] at h
    cases h
    exact .inl rfl
  | none =>
    cases spilled : s.spillHolding (homeBucket kit) kit with
    | some x =>
      rw [State.lookupEnd_of_spill held spilled] at h
      cases h
      exact .inr ⟨rfl, rfl⟩
    | none =>
      rw [State.lookupEnd_of_neither held spilled] at h
      split at h <;> cases h

end

theorem StoredWay.value_eq (w : StoredWay) : w.value = if w.check = .single then w.written else w.stored := by
  unfold StoredWay.value
  cases w.check <;> rfl

theorem Bucket.broken_iff (k : Bucket) : k.broken = true ↔ ∃ w, (k.ways.get w).check = .double := by
  simp only [Bucket.broken, StoredWay.broken, Bool.or_eq_true, decide_eq_true_eq]
  constructor
  · rintro (((h | h) | h) | h)
    · exact ⟨0, h⟩
    · exact ⟨1, h⟩
    · exact ⟨2, h⟩
    · exact ⟨3, h⟩
  · rintro ⟨w, h⟩
    fin_cases w
    · exact .inl (.inl (.inl h))
    · exact .inl (.inl (.inr h))
    · exact .inl (.inr h)
    · exact .inr h

/-! ## A turn that has only looked is answered -/

/-- The write of a turn that carries no way leaves the directory as the turn does. -/
theorem Turn.write_dir_of_none {t : Turn} (none : t.ways = []) : t.write.dir = t.s.dir := by
  have lowest (b : Nat) : lowestWritten b t.ways = .none := by rw [none]; rfl
  unfold Turn.write
  split
  · rfl
  · split <;> rfl
  · rw [lowest]

theorem Looked.outside {u : State} {t : Turn} {who : Requester} {looked : Option Nat} (h : Looked u t who looked) :
    t.s.link = u.link ∧ t.s.port = u.port ∧ t.s.engine = u.engine ∧ t.s.tariff = u.tariff ∧ t.s.memory = u.memory := by
  rw [h.frame]
  exact ⟨rfl, rfl, rfl, rfl, rfl⟩

theorem Looked.answered {u : State} {t : Turn} {looked : Option Nat} (h : Looked u t .command looked) (code : Byte)
    (st : Status) (fields : List Byte) (keeps : KeepsSurroundings u (t.answer code st fields).write.settle) :
    let v := (t.answer code st fields).write.settle
    LookupLeaves u v looked ∧ v.link = u.link ∧ v.engine.checkInSearch = u.engine.checkInSearch
      ∧ v.finishedWith code st fields := by
  obtain ⟨link, _, engine, _, _⟩ := h.outside
  exact ⟨h.leaves (answer_aside _ code st fields) rfl keeps, (t.answer_link code st fields).trans link,
    (t.answer_checkInSearch code st fields).trans (congrArg RecordEngine.checkInSearch engine),
    t.answer_finished code st fields⟩

/-- The command turn of a command that has only looked before it is answered. -/
theorem commandTurn_lookedAnswer {s : State} {c : RecordCommand} (h : s.commandTurnFor c) {t : Turn} {looked : Option Nat}
    (on : Looked (s.begins .command) t .command looked) {code : Byte} {st : Status} {fields : List Byte}
    (work : c.work (Turn.start .command (s.begins .command)) = t.answer code st fields) :
    ∃ v, exec .commandTurn s = .next v ∧ LookupLeaves s v looked ∧ v.link = s.link
      ∧ v.engine.checkInSearch = s.engine.checkInSearch ∧ v.finishedWith code st fields := by
  have keeps := commandTurn_keeps s c
  rw [State.turn, work] at keeps
  refine ⟨_, exec_commandTurn h, ?_⟩
  rw [State.turn, work]
  exact on.answered code st fields keeps

/-- The command turn of a command that is answered before any lookup leaves the directory as it is, too. -/
theorem commandTurn_answeredAtOnce {s : State} {c : RecordCommand} (h : s.commandTurnFor c) {code : Byte} {st : Status}
    {fields : List Byte}
    (work : c.work (Turn.start .command (s.begins .command)) =
      (Turn.start .command (s.begins .command)).answer code st fields) :
    ∃ v, exec .commandTurn s = .next v ∧ LookupLeaves s v none ∧ v.dir = s.dir ∧ v.link = s.link
      ∧ v.engine.checkInSearch = s.engine.checkInSearch ∧ v.finishedWith code st fields := by
  have row := exec_commandTurn h
  rw [State.turn, work] at row
  obtain ⟨v, row', leaves, link, search, finished⟩ :=
    commandTurn_lookedAnswer h (Looked.start (s := s.begins .command) h.1 .command) work
  have same := row'.symm.trans row
  injection same with same
  refine ⟨v, row', leaves, ?_, link, search, finished⟩
  rw [same]
  exact Turn.write_dir_of_none rfl

/-- A command that names a kit and may seek it looks the kit up and uses the slot found (R82). -/
theorem RecordCommand.work_of_seeks {c : RecordCommand} {kit : KitId} (seeks : c.seeks = some kit) {t : Turn}
    (clock : c.needsMinute = true → t.s.now ≠ none) : c.work t = t.withKit c.code kit c.use := by
  have read {k : KitId} (needs : c.needsMinute = true) (code : Byte) (use : Turn → Nat → Record → Turn) :
      (t.withClock code fun _ => t.withKit code k use) = t.withKit code k use := by
    obtain ⟨now, running⟩ := Option.ne_none_iff_exists'.1 (clock needs)
    exact Turn.withClock_some running code _
  cases c with
  | topUp k amount => cases seeks; exact read rfl _ _
  | adjust k minutes => cases seeks; exact read rfl _ _
  | suspend k => cases seeks; exact read rfl _ _
  | resume k => cases seeks; exact read rfl _ _
  | changeClass | retire | readRecord => cases seeks; rfl
  | enrol | retireSlot | restore | readSlot | fetchMarked => cases seeks

/-- A command that needs the station minute is refused before any lookup while the clock is UNSET (R81). -/
theorem RecordCommand.work_of_unset {c : RecordCommand} (needs : c.needsMinute = true) {t : Turn} (unset : t.s.now = none) :
    c.work t = t.answer c.code .clockUnset [] := by
  cases c with
  | enrol | topUp | adjust | suspend | resume | restore => exact Turn.withClock_none unset _ _
  | changeClass | retire | retireSlot | readRecord | readSlot | fetchMarked => cases needs

end Sys2Proof.Machine
end

section
/-! PROOFS. The refusals of the command turns that name a kit (R64, R65, R81, R82). -/

namespace Sys2Proof.Machine

set_option Elab.async false

/-- The commands that a DAMAGED slot refuses (R82). -/
def RecordCommand.needsUndamaged (kit : KitId) (c : RecordCommand) : Prop :=
  (∃ a, c = .topUp kit a) ∨ (∃ m, c = .adjust kit m) ∨ c = .suspend kit ∨ c = .resume kit ∨ ∃ k, c = .changeClass kit k

theorem RecordCommand.needsUndamaged.seeks {kit : KitId} {c : RecordCommand} (h : c.needsUndamaged kit) :
    c.seeks = some kit := by
  rcases h with ⟨_, rfl⟩ | ⟨_, rfl⟩ | rfl | rfl | ⟨_, rfl⟩ <;> rfl

theorem ReadOn.use_damaged {u : State} {t : Turn} {slot : Nat} {looked : Option Nat} (h : ReadOn u t .command slot looked)
    {kit : KitId} {c : RecordCommand} (refuses : c.needsUndamaged kit) (clock : c.needsMinute = true → u.now ≠ none)
    (damaged : (u.tagRead slot).damaged = true) :
    Replies u (c.use t slot (u.reading slot)) slot looked c.code
      (refusal (u.tagRead slot) (u.reading slot) .recordDamaged) := by
  have minute (needs : c.needsMinute = true) : ∃ now, u.now = some now := Option.ne_none_iff_exists'.1 (clock needs)
  rcases refuses with ⟨amount, rfl⟩ | ⟨minutes, rfl⟩ | rfl | rfl | ⟨cls, rfl⟩
  · obtain ⟨now, running⟩ := minute rfl
    have replies := h.topUp running amount
    rwa [topUpReply, if_pos damaged] at replies
  · obtain ⟨now, running⟩ := minute rfl
    have replies := h.adjust running minutes
    rwa [adjustReply, if_pos damaged] at replies
  · obtain ⟨now, running⟩ := minute rfl
    have replies := h.suspend running
    rwa [suspendReply, if_pos damaged] at replies
  · obtain ⟨now, running⟩ := minute rfl
    have replies := h.resume running
    rwa [resumeReply, if_pos damaged] at replies
  · have replies := h.changeClass cls
    rwa [changeClassReply, if_pos damaged] at replies

section
variable {s : State} {kit : KitId} {slot : Nat} {c : RecordCommand}

/-- The command turn of a command that a slot refuses because it is or becomes DAMAGED (R82, R149). -/
theorem damagedTurn_refused (h : s.commandTurnFor c) (refuses : c.needsUndamaged kit)
    (clock : c.needsMinute = true → s.now ≠ none) (locates : s.locates kit slot)
    (damaged : (s.tagRead slot).damaged = true) : ∃ t, exec .commandTurn s = .next t
      ∧ CommandLeaves s t slot (s.tagRead slot) (s.reading slot) .read (some (homeBucket kit)) c.code .recordDamaged [] := by
  obtain ⟨t, on, use⟩ := Turn.withKit_found (u := s.begins .command) h.1 .command c.code c.use locates
  refine commandTurn_answers h ?_
  rw [RecordCommand.work_of_seeks refuses.seeks (t := Turn.start .command (s.begins .command)) clock, use]
  exact on.use_damaged refuses clock damaged

/-- The work of a command turn that seeks a kit, by the end of its lookup. -/
theorem seekingTurn_work (wf : Memory.wf s) (seeks : c.seeks = some kit) (clock : c.needsMinute = true → s.now ≠ none)
    (sound : (s.bucket (homeBucket kit)).broken = false) : ∃ t,
      Looked (s.begins .command) t .command (some (homeBucket kit))
        ∧ c.work (Turn.start .command (s.begins .command)) =
          match s.lookupEnd (s.bucket (homeBucket kit)).values kit with
          | .absent => t.refuse c.code .notFound
          | .rebuilding => t.startCommandSearch kit
          | .found slot => t.useFound c.code slot c.use := by
  obtain ⟨t, looked, work⟩ := Turn.withKit_of_sound (u := s.begins .command) wf .command c.code c.use sound
  refine ⟨t, looked, ?_⟩
  rw [RecordCommand.work_of_seeks seeks (t := Turn.start .command (s.begins .command)) clock]
  exact work

/-- A command whose lookup finds nothing in a NORMAL bucket (R82). -/
theorem seekingTurn_absent (h : s.commandTurnFor c) (seeks : c.seeks = some kit)
    (clock : c.needsMinute = true → s.now ≠ none) (sound : (s.bucket (homeBucket kit)).broken = false)
    (absent : s.lookupEnd (s.bucket (homeBucket kit)).values kit = .absent) : ∃ t, exec .commandTurn s = .next t
      ∧ LookupLeaves s t (some (homeBucket kit)) ∧ t.link = s.link
      ∧ t.engine.checkInSearch = s.engine.checkInSearch ∧ t.finishedWith c.code .notFound [] := by
  obtain ⟨t, looked, work⟩ := seekingTurn_work h.1 seeks clock sound
  rw [absent] at work
  exact commandTurn_lookedAnswer h looked work

theorem startCommandSearch_aside (s : State) (se : Option Search) :
    Aside s { s with engine := { s.engine with commandSearch := se } } := ⟨rfl, rfl, rfl, rfl, rfl, id⟩

/-- A command whose lookup finds nothing in a REBUILDING bucket starts a full search (R65). -/
theorem seekingTurn_rebuilding (h : s.commandTurnFor c) (seeks : c.seeks = some kit)
    (clock : c.needsMinute = true → s.now ≠ none) (sound : (s.bucket (homeBucket kit)).broken = false)
    (rebuilding : s.lookupEnd (s.bucket (homeBucket kit)).values kit = .rebuilding) :
    ∃ t, exec .commandTurn s = .next t
      ∧ LookupLeaves s t (some (homeBucket kit)) ∧ t.link = s.link ∧ t.engine.held = some c
      ∧ t.engine.commandSearch = some ⟨kit, homeBucket kit, 0, none⟩ ∧ t.port = s.port
      ∧ t.engine.checkInSearch = s.engine.checkInSearch := by
  obtain ⟨t, looked, work⟩ := seekingTurn_work h.1 seeks clock sound
  rw [rebuilding] at work
  have keeps := commandTurn_keeps s c
  rw [State.turn, work] at keeps
  obtain ⟨link, port, engine, _, _⟩ := looked.outside
  have stays : t.s.engine.held = s.engine.held ∧ t.s.engine.checkInSearch = s.engine.checkInSearch := by
    rw [engine]
    exact ⟨rfl, rfl⟩
  have ends : (t.startCommandSearch kit).write.settle.engine.held = t.s.engine.held
      ∧ (t.startCommandSearch kit).write.settle.engine.commandSearch = some ⟨kit, homeBucket kit, 0, none⟩
      ∧ (t.startCommandSearch kit).write.settle.engine.checkInSearch = t.s.engine.checkInSearch := by
    rw [State.settle_engine, Turn.write_engine]
    exact ⟨rfl, rfl, rfl⟩
  obtain ⟨held, search, others⟩ := ends
  refine ⟨_, exec_commandTurn h, ?_⟩
  rw [State.turn, work]
  exact ⟨looked.leaves (startCommandSearch_aside _ _) rfl keeps, (Turn.write_link _).trans link,
    (held.trans stays.1).trans h.2.1, search, (Turn.write_port _).trans port, others.trans stays.2⟩

end

/-- Settles O33: the refusals of command turns, and how a lookup ends. -/
theorem commandTurnRefusals : Obligations.CommandTurnRefusals := by
  refine ⟨fun s kit slot c clock refuses turn sound found live damaged => ?_, fun s kit c clock seeks turn sound => ⟨?_, ?_⟩,
    fun s c unset turn code => ?_, fun s kit ways => ⟨?_, ?_, ?_, ?_, ?_, ?_, ?_, ?_, ?_⟩,
    fun k => ⟨fun w => ?_, k.broken_iff⟩⟩
  · obtain ⟨tag, reading⟩ := State.gives.read (r := (s.body slot).stored) (.inl ⟨damaged, rfl⟩)
    have refused := damagedTurn_refused turn refuses clock ⟨sound, found, live⟩ (tag ▸ damaged)
    rwa [tag, reading] at refused
  · intro absent
    obtain ⟨t, row, leaves, link, search, finished⟩ := seekingTurn_absent turn seeks clock sound absent
    exact ⟨t, row, leaves, link, finished, search⟩
  · exact seekingTurn_rebuilding turn seeks clock sound
  · have needs : c.needsMinute = true := by simpa [RecordCommand.needsMinute] using code
    have none : (s.begins .command).now = none := by
      change s.now = none
      rw [State.now, unset]
    obtain ⟨t, row, leaves, dir, link, search, finished⟩ := commandTurn_answeredAtOnce turn
      (RecordCommand.work_of_unset needs (t := Turn.start .command (s.begins .command)) none)
    exact ⟨t, row, leaves, dir, link, finished, search⟩
  · exact fun w slot here only => State.lookupEnd_of_way (wayHolding_unique here only)
  · exact fun i slot unheld here only =>
      State.lookupEnd_of_spill (wayHolding_eq_none_iff.2 unheld) (State.spillHolding_unique here only)
  · intro slot found
    rcases State.lookupEnd_eq_found found with held | ⟨unheld, spilled⟩
    · exact .inl (wayHolding_sound held)
    · exact .inr ⟨wayHolding_eq_none_iff.1 unheld, State.spillHolding_sound spilled⟩
  · rw [State.lookupEnd_eq_absent_iff, wayHolding_eq_none_iff, State.spillHolding_eq_none_iff]
  · rw [State.lookupEnd_eq_rebuilding_iff, wayHolding_eq_none_iff, State.spillHolding_eq_none_iff]
  · exact fun slot => wayHolding_sound
  · exact wayHolding_eq_none_iff
  · exact fun slot => State.spillHolding_sound
  · exact State.spillHolding_eq_none_iff
  · rw [Bucket.values_get, StoredWay.value_eq]

end Sys2Proof.Machine
end

section
/-! PROOFS. READ SLOT and FETCH MARKED (R17, R18). -/

namespace Sys2Proof.Machine

set_option Elab.async false

theorem freeImage_bytes (slot : Nat) : imageBytes (freeImage slot) = beBytes 2 slot ++ List.replicate 45 0 := by
  rw [freeImage, imageBytes_recordImage]
  simp only [List.append_assoc]
  rfl

/-- A slot whose body is not touched, in a turn that has done no more than look. -/
theorem Looked.answersUntouched {u : State} {t : Turn} {looked : Option Nat} (h : Looked u t .command looked) (slot : Nat)
    (r : Record) (code : Byte) (st : Status) (fields : List Byte) :
    AnswersOn u (t.answer code st fields) slot (u.tag slot) r .untouched looked code st fields :=
  ⟨t, h.onSlot slot r, h.read, rfl⟩

section
variable {s : State}

/-- A turn that reads the slot it names and answers. -/
theorem startLooked (wf : Memory.wf s) : Looked (s.begins .command) (Turn.start .command (s.begins .command)) .command none :=
  Looked.start (s := s.begins .command) wf .command

/-! ## READ SLOT -/

theorem readSlotTurn_wrongState {slot : BitVec 16} (h : s.commandTurnFor (.readSlot slot))
    (out : (s.bank (bankIndex slot.toNat)).inUse = false) (r : Record) : ∃ t, exec .commandTurn s = .next t
      ∧ CommandLeaves s t slot.toNat (s.tag slot.toNat) r .untouched none 0x1A .wrongState [] := by
  refine commandTurn_answers h ?_
  have work : workReadSlot slot.toNat (Turn.start .command (s.begins .command)) =
      (Turn.start .command (s.begins .command)).refuse 0x1A .wrongState := if_pos (congrArg not out)
  rw [RecordCommand.work, work]
  exact (startLooked h.1).answersUntouched slot.toNat r 0x1A .wrongState []

theorem readSlotTurn_free {slot : BitVec 16} (h : s.commandTurnFor (.readSlot slot))
    (inUse : ¬(s.bank (bankIndex slot.toNat)).inUse = false) (free : (s.tag slot.toNat).lifecycle = .free) (r : Record) :
    ∃ t, exec .commandTurn s = .next t ∧ CommandLeaves s t slot.toNat (s.tag slot.toNat) r .untouched none 0x1A .ok
      (imageBytes (freeImage slot.toNat)) := by
  refine commandTurn_answers h ?_
  have work : workReadSlot slot.toNat (Turn.start .command (s.begins .command)) =
      (Turn.start .command (s.begins .command)).answer 0x1A .ok (imageBytes (freeImage slot.toNat)) :=
    (if_neg fun out => inUse (Bool.not_eq_true' _ ▸ out)).trans (if_pos free)
  rw [RecordCommand.work, work]
  exact (startLooked h.1).answersUntouched slot.toNat r 0x1A .ok _

theorem readSlotTurn_live {slot : BitVec 16} (h : s.commandTurnFor (.readSlot slot))
    (inUse : ¬(s.bank (bankIndex slot.toNat)).inUse = false) (live : (s.tag slot.toNat).lifecycle ≠ .free) :
    ∃ t, exec .commandTurn s = .next t ∧ Replied s t slot.toNat none 0x1A (readReply slot.toNat (s.tagRead slot.toNat)
      (s.reading slot.toNat) (s.tariffClass (s.reading slot.toNat).cls) s.now) := by
  obtain ⟨record, on⟩ := (startLooked h.1).readOn slot.toNat
  refine commandTurn_answers h ?_
  have work : workReadSlot slot.toNat (Turn.start .command (s.begins .command)) =
      ((Turn.start .command (s.begins .command)).readLive slot.toNat true).1.answer 0x1A .ok
        (imageBytes (((Turn.start .command (s.begins .command)).readLive slot.toNat true).1.image slot.toNat
          ((Turn.start .command (s.begins .command)).readLive slot.toNat true).2)) :=
    (if_neg fun out => inUse (Bool.not_eq_true' _ ▸ out)).trans (if_neg live)
  rw [RecordCommand.work, work, record, on.image]
  exact on.answers _ _ _

/-! ## FETCH MARKED -/

theorem needsHost_iff (x : Nat) : s.needsHost x = true ↔
    (s.tag x).lifecycle ≠ .free ∧ ((s.tag x).marked = true ∨ (s.tag x).damaged = true) := by
  simp [State.needsHost]

theorem nextMarked_eq_none_iff (cursor : s.engine.fetchCursor < 4096) : s.nextMarked = none ↔
    ∀ x, x < 4096 → ¬((s.tag x).lifecycle ≠ .free ∧ ((s.tag x).marked = true ∨ (s.tag x).damaged = true)) := by
  refine (scan_slots_eq_none_iff cursor).trans (forall₂_congr fun x _ => ?_)
  rw [← needsHost_iff, Bool.not_eq_true]

theorem nextMarked_eq_some_iff (cursor : s.engine.fetchCursor < 4096) (slot : Nat) : s.nextMarked = some slot ↔
    FirstFrom s.engine.fetchCursor (fun x =>
      (s.tag x).lifecycle ≠ .free ∧ ((s.tag x).marked = true ∨ (s.tag x).damaged = true)) slot := by
  refine (scan_slots_eq_some_iff cursor).trans (iff_of_eq (congrArg (FirstFrom _ · slot) (funext fun x => ?_)))
  exact propext (needsHost_iff x)

/-- The record and the rest of a FETCH MARKED, once the slot has been read. -/
def Turn.fetch (t : Turn) (slot : Nat) (lc : Lifecycle) (r : Record) (fields : List Byte) : Turn :=
  ((t.putRecord slot lc { r with marks := Marks.none }).map (·.fetchPast slot)).answer 0x1B .ok fields

theorem fetchPast_answer_aside (s : State) (slot : Nat) (code : Byte) (st : Status) (fields : List Byte) :
    Aside s ((s.fetchPast slot).release.respond code st fields) := ⟨rfl, rfl, rfl, rfl, rfl, id⟩

theorem ReadOn.fetched {u : State} {t : Turn} {slot : Nat} (h : ReadOn u t .command slot none) (fields : List Byte)
    (keeps : KeepsSurroundings u
      (t.fetch slot (u.tagRead slot).lifecycle (u.reading slot) fields).write.settle) :
    let v := (t.fetch slot (u.tagRead slot).lifecycle (u.reading slot) fields).write.settle
    SlotLeaves u v slot { u.tagRead slot with marked := false }
        { u.reading slot with marks := ⟨false, false, false, false, false, false⟩ } .written none .command u.now
      ∧ v.link = u.link ∧ v.engine.checkInSearch = u.engine.checkInSearch
      ∧ v.finishedWith 0x1B .ok fields
      ∧ v.engine.fetchCursor = (slot + 1) % 4096 := by
  have written := h.on.putRecord (u.tagRead slot).lifecycle { u.reading slot with marks := Marks.none }
  obtain ⟨_, _, search, _⟩ := written.frame.engine
  refine ⟨written.leaves (f := fun x => (x.fetchPast slot).release.respond 0x1B .ok fields) (h.read.congr rfl rfl rfl) (fetchPast_answer_aside _ slot 0x1B .ok fields) keeps,
    (Turn.write_link _).trans written.frame.outside.1, ?_, Turn.answer_finished _ 0x1B .ok fields, ?_⟩
  · rw [State.settle_engine, Turn.write_engine]
    exact search
  · rw [State.settle_engine, Turn.write_engine]
    rfl

theorem fetchMarkedTurn_none (h : s.commandTurnFor .fetchMarked) (none : s.nextMarked = none) :
    ∃ v, exec .commandTurn s = .next v ∧ LookupLeaves s v .none ∧ v.dir = s.dir ∧ v.link = s.link
      ∧ v.engine.checkInSearch = s.engine.checkInSearch ∧ v.finishedWith 0x1B .notFound [] := by
  refine commandTurn_answeredAtOnce h ?_
  have same : (Turn.start .command (s.begins .command)).s.nextMarked = .none := none
  rw [RecordCommand.work, workFetchMarked, same]
  rfl

/-- The turn of FETCH MARKED on the slot it takes, DAMAGED or not. -/
theorem fetchMarkedTurn_some (h : s.commandTurnFor .fetchMarked) {slot : Nat} (next : s.nextMarked = some slot) :
    ∃ t, exec .commandTurn s = .next t
      ∧ SlotLeaves s t slot { s.tagRead slot with marked := false }
          { s.reading slot with marks := ⟨false, false, false, false, false, false⟩ } .written none .command s.now
      ∧ t.link = s.link ∧ t.engine.checkInSearch = s.engine.checkInSearch
      ∧ t.finishedWith 0x1B .ok (imageBytes (recordImage slot (s.tagRead slot) (s.reading slot)
          (standingOf (s.tagRead slot).damaged (s.tagRead slot).lifecycle (s.reading slot)
            (s.tariffClass (s.reading slot).cls).grace s.now)))
      ∧ t.engine.fetchCursor = (slot + 1) % 4096 := by
  obtain ⟨record, on⟩ := (startLooked h.1).readOn slot
  have same : (Turn.start .command (s.begins .command)).s.nextMarked = some slot := next
  have keeps := commandTurn_keeps s .fetchMarked
  have row := exec_commandTurn h
  rw [State.turn, RecordCommand.work, workFetchMarked, same] at keeps row
  dsimp only at keeps row
  rw [record, on.image, on.on.tag] at keeps row
  exact ⟨_, row, on.fetched _ keeps⟩

end

/-- Settles O35: the turns of READ SLOT and FETCH MARKED, and the slot FETCH MARKED takes. -/
theorem readSlotAndFetchMarkedTurns : Obligations.ReadSlotAndFetchMarkedTurns := by
  refine ⟨fun s slot r turn => ?_, fun s r turn => ⟨fetchMarkedTurn_none turn, fun slot next gives => ?_⟩,
    fun s cursor => ⟨nextMarked_eq_none_iff cursor, nextMarked_eq_some_iff cursor⟩⟩
  · by_cases out : (s.bank (bankIndex slot.toNat)).inUse = false
    · simp only [if_pos out]
      exact readSlotTurn_wrongState turn out _
    by_cases free : (s.tag slot.toNat).lifecycle = .free
    · simp only [if_neg out, if_pos free]
      rw [← freeImage_bytes]
      exact readSlotTurn_free turn out free _
    · simp only [if_neg out, if_neg free]
      obtain ⟨t, row, replied⟩ := readSlotTurn_live turn out free
      refine ⟨t, row, fun gives => ?_⟩
      obtain ⟨tag, reading⟩ := State.gives.read gives
      rwa [tag, reading] at replied
  · obtain ⟨tag, reading⟩ := State.gives.read gives
    have fetched := fetchMarkedTurn_some turn next
    rwa [tag, reading] at fetched

end Sys2Proof.Machine
end

section
/-! PROOFS. A check-in is served on the slot found for it (R103 to R115). -/

namespace Sys2Proof.Machine

set_option Elab.async false

/-! ## What a hand-over reads and leaves of the link -/

section
variable {s s' : State}

theorem startSend_link (s : State) (c : Nat) : (s.startSend c).link = { s.link with
    channels := cellWrite none s.link.channels c
      ((cellRead none s.link.channels c).map fun ch => { ch with phase := .sending })
    tx := .sending c s.time.timer } := rfl

theorem offer_link_congr (link : s'.link = s.link) (timer : s'.time.timer = s.time.timer) :
    s'.offer.link = s.offer.link := by
  unfold State.offer
  rw [State.chosenChannel_congr (congrArg KitLink.channels link) timer, link]
  split
  · exact link
  · split
    · exact link
    · rw [startSend_link, startSend_link, link, timer]

/-- A hand-over reads no more than the link and the link timer. -/
theorem handOver_link_congr (link : s'.link = s.link) (timer : s'.time.timer = s.time.timer) (g : Grant) (a : Arrival) :
    (s'.handOver g a).link = (s.handOver g a).link := by
  have counted (f : LinkCounters → LinkCounters) : (s'.count f).giveUp.link = (s.count f).giveUp.link := by
    unfold State.count State.giveUp
    rw [link]
  have put (n : Nat) : (s'.putChannel n (some (s'.newChannel g a.stamp))).offer.link =
      (s.putChannel n (some (s.newChannel g a.stamp))).offer.link := by
    have new : s'.newChannel g a.stamp = s.newChannel g a.stamp := by
      unfold State.newChannel State.elapsed
      rw [link, timer]
    refine offer_link_congr ?_ timer
    rw [new]
    unfold State.putChannel
    rw [link]
  have free : s'.freeChannel = s.freeChannel := by
    unfold State.freeChannel State.channel
    rw [link]
  have elapsed : s'.elapsed a.stamp = s.elapsed a.stamp := by rw [State.elapsed, State.elapsed, timer]
  rw [State.handOver_eq, State.handOver_eq, link, free, elapsed]
  split
  · split
    · exact counted _
    · split
      · exact counted _
      · next n _ =>
        unfold State.giveUp
        rw [put]
  · exact counted _

theorem offer_queue (s : State) : s.offer.link.queue = s.link.queue := by rw [(offer_channelsMove s).frame]

theorem handOver_queue (s : State) (g : Grant) (a : Arrival) : (s.handOver g a).link.queue = s.link.queue := by
  rw [State.handOver_eq]
  split
  · split
    · rfl
    · split
      · rfl
      · exact offer_queue _
  · rfl

theorem handOver_inService (s : State) (g : Grant) (a : Arrival) : (s.handOver g a).link.inService = none := rfl

theorem handOver_aside (s : State) (g : Grant) (a : Arrival) : Aside s (s.handOver g a) := by
  refine ⟨?_, ?_, ?_, ?_, ?_, (handOver_keeps s g a).wf⟩
  all_goals rw [State.handOver_frame]

end

/-! ## The service -/

/-- What a served check-in leaves of the port, the other work of the record engine and the queue. -/
def ServesAside (u v : State) : Prop :=
  v.port = u.port ∧ v.engine.checkInSearch = u.engine.checkInSearch ∧ v.engine.held = u.engine.held
    ∧ v.engine.commandSearch = u.engine.commandSearch ∧ v.link.queue = u.link.queue ∧ v.link.inService = none

/-- A check-in has been served on a slot by a turn that began on `u`, where it is in service (R105, R106, R113). -/
structure Serves (u v : State) (slot : Nat) (a : Arrival) (looked : Option Nat) : Prop where
  ordinary : ∀ now, (u.tagRead slot).damaged = false → u.now = some now →
    let c := u.tariffClass (u.reading slot).cls
    let r' := checkedInRecord (u.tagRead slot).lifecycle (u.reading slot) a.checkIn c now
    TurnLeaves u v slot { u.tagRead slot with marked := r'.marks.any } r' .written looked .checkIn u.now
      ∧ v.link = (u.handOver (ordinaryGrant (u.tagRead slot).lifecycle r' a.checkIn c now) a).link
  keep : (u.tagRead slot).damaged = true ∨ u.now = none →
    TurnLeaves u v slot (u.tagRead slot) (u.reading slot) .read looked .checkIn u.now
      ∧ v.link = (u.handOver (keepGrant a.checkIn (u.reading slot)) a).link
  aside : ServesAside u v

section
variable {u : State} {t : Turn} {slot : Nat} {looked : Option Nat} {a : Arrival}

/-- The end of a turn on one slot with a hand-over. -/
theorem OnSlot.handsOver {tag : Tag} {r : Record} {access : BodyAccess} (h : OnSlot u t .checkIn slot tag r access)
    (read : DirRead u t looked) (g : Grant)
    (keeps : KeepsSurroundings u (t.map (·.handOver g a)).write.settle) :
    let v := (t.map (·.handOver g a)).write.settle
    (TurnLeaves u v slot tag r access looked .checkIn u.now ∧ v.link = (u.handOver g a).link) ∧ ServesAside u v := by
  obtain ⟨held, command, checkIn, cursor⟩ := h.frame.engine
  obtain ⟨link, port, _, time, _⟩ := h.frame.outside
  have handed : (t.s.handOver g a).link = (u.handOver g a).link := handOver_link_congr link (congrArg TimeUnit.timer time) g a
  have engine : (t.s.handOver g a).engine = t.s.engine := by rw [State.handOver_frame]
  have written : (t.map (·.handOver g a)).write.settle.link = (u.handOver g a).link := (Turn.write_link _).trans handed
  have kept : (t.map (·.handOver g a)).write.engine = t.s.engine := (Turn.write_engine _).trans engine
  refine ⟨⟨⟨h.leaves read (handOver_aside t.s g a) keeps, ?_⟩, written⟩, ?_, ?_, ?_, ?_, ?_, ?_⟩
  · exact (congrArg RecordEngine.fetchCursor kept).trans cursor
  · refine (Turn.write_port _).trans (Eq.trans ?_ port)
    exact (congrArg State.port (State.handOver_frame t.s g a)).trans rfl
  · exact (congrArg RecordEngine.checkInSearch kept).trans checkIn
  · exact (congrArg RecordEngine.held kept).trans held
  · exact (congrArg RecordEngine.commandSearch kept).trans command
  · rw [written, handOver_queue]
  · rw [written, handOver_inService]

theorem ReadOn.serve_ordinary (h : ReadOn u t .checkIn slot looked) {now : Nat}
    (undamaged : (u.tagRead slot).damaged = false) (running : u.now = some now) :
    let c := u.tariffClass (u.reading slot).cls
    let r' := checkedInRecord (u.tagRead slot).lifecycle (u.reading slot) a.checkIn c now
    t.serve slot (u.reading slot) a = (t.putRecord slot (u.tagRead slot).lifecycle r').map
      (·.handOver (ordinaryGrant (u.tagRead slot).lifecycle r' a.checkIn c now) a) := by
  rw [Turn.serve, h.on.tag, h.now, undamaged, running]
  dsimp only
  rw [Turn.serveOrdinary, h.on.tag, h.tariffClass]

theorem ReadOn.serve_keep (h : ReadOn u t .checkIn slot looked)
    (other : (u.tagRead slot).damaged = true ∨ u.now = none) :
    t.serve slot (u.reading slot) a = t.map (·.handOver (keepGrant a.checkIn (u.reading slot)) a) := by
  rw [Turn.serve, h.on.tag, h.now]
  rcases other with damaged | unset
  · rw [damaged]
  · rw [unset]
    cases (u.tagRead slot).damaged <;> rfl

theorem ReadOn.serves (h : ReadOn u t .checkIn slot looked)
    (keeps : KeepsSurroundings u (t.serve slot (u.reading slot) a).write.settle) :
    Serves u (t.serve slot (u.reading slot) a).write.settle slot a looked := by
  have ordinary {now : Nat} (undamaged : (u.tagRead slot).damaged = false) (running : u.now = some now) := by
    have eq := h.serve_ordinary (a := a) undamaged running
    dsimp only at eq
    rw [eq] at keeps
    have hands := (h.on.putRecord _ _).handsOver (h.read.congr rfl rfl rfl) _ keeps
    rw [← eq] at hands
    exact hands
  have keep (other : (u.tagRead slot).damaged = true ∨ u.now = none) := by
    have eq := h.serve_keep (a := a) other
    rw [eq] at keeps
    have hands := h.on.handsOver h.read _ keeps
    rw [← eq] at hands
    exact hands
  refine ⟨fun now undamaged running => (ordinary undamaged running).1, fun other => (keep other).1, ?_⟩
  cases clock : u.now with
  | none => exact (keep (.inr clock)).2
  | some now =>
    cases damaged : (u.tagRead slot).damaged with
    | true => exact (keep (.inl damaged)).2
    | false => exact (ordinary damaged clock).2

end

end Sys2Proof.Machine
end

section
/-! PROOFS. The check-in turn, of the head of the queue and of a turn in progress as the link left ENABLED (R103 to R116). -/

namespace Sys2Proof.Machine

set_option Elab.async false

/-! ## The work of a check-in turn -/

section
variable {x : State} {a : Arrival} {rest : List Arrival} {slot : Nat}

theorem takeArrival_wf (wf : Memory.wf x) : Memory.wf (x.takeArrival a rest) := wf

/-- The work of a check-in turn, by the end of its lookup. -/
theorem workCheckIn_of_sound (wf : Memory.wf x)
    (sound : (x.bucket (homeBucket a.checkIn.kit)).broken = false) : ∃ t,
      Looked (x.takeArrival a rest) t .checkIn (some (homeBucket a.checkIn.kit))
        ∧ (x.lookupEnd (x.bucket (homeBucket a.checkIn.kit)).values a.checkIn.kit = .absent →
            workCheckIn a rest (Turn.start .checkIn x) = t.map State.noticeUnknown)
        ∧ (x.lookupEnd (x.bucket (homeBucket a.checkIn.kit)).values a.checkIn.kit = .rebuilding →
            workCheckIn a rest (Turn.start .checkIn x) = t.map (·.startCheckInSearch a.checkIn.kit))
        ∧ (∀ slot, x.lookupEnd (x.bucket (homeBucket a.checkIn.kit)).values a.checkIn.kit = .found slot →
            (x.tag slot).lifecycle ≠ .free → workCheckIn a rest (Turn.start .checkIn x) =
              (t.readLive slot true).1.serve slot (t.readLive slot true).2 a) := by
  obtain ⟨t, read, looked⟩ := Turn.lookup_of_sound (s := x.takeArrival a rest) (takeArrival_wf wf) .checkIn sound
  have work : workCheckIn a rest (Turn.start .checkIn x) =
      match x.lookupEnd (x.bucket (homeBucket a.checkIn.kit)).values a.checkIn.kit with
      | .absent => t.map State.noticeUnknown
      | .rebuilding => t.map (·.startCheckInSearch a.checkIn.kit)
      | .found slot =>
        if (t.s.tag slot).lifecycle = .free then t.map State.noticeUnknown
        else (t.readLive slot true).1.serve slot (t.readLive slot true).2 a := by
    have start : (Turn.start .checkIn x).map (·.takeArrival a rest) = Turn.start .checkIn (x.takeArrival a rest) := rfl
    rw [workCheckIn, start, read] <;> rfl
  refine ⟨t, looked, fun absent => ?_, fun rebuilding => ?_, fun slot found live => ?_⟩
  · rw [work, absent]
  · rw [work, rebuilding]
  · rw [work, found]
    have live' : ¬(t.s.tag slot).lifecycle = .free := by
      rw [looked.tag]
      exact live
    exact if_neg live'

/-- A check-in is served on the live slot its lookup finds. -/
theorem workCheckIn_serves (wf : Memory.wf x) (locates : x.locates a.checkIn.kit slot)
    (keeps : KeepsSurroundings (x.takeArrival a rest) (workCheckIn a rest (Turn.start .checkIn x)).write.settle) :
    Serves (x.takeArrival a rest) (workCheckIn a rest (Turn.start .checkIn x)).write.settle slot a
      (some (homeBucket a.checkIn.kit)) := by
  obtain ⟨sound, found, live⟩ := locates
  obtain ⟨t, looked, _, _, served⟩ := workCheckIn_of_sound (rest := rest) wf sound
  obtain ⟨record, on⟩ := looked.readOn slot
  rw [served slot found live, record] at keeps ⊢
  exact on.serves keeps

end

theorem checkInTurn_keeps {s : State} {a : Arrival} {rest : List Arrival} (h : CheckInNext s a rest) :
    KeepsSurroundings s (s.turn .checkIn (workCheckIn a rest)) :=
  (turn_keeps s .checkIn (workCheckIn a rest) (workCheckIn_keeps a rest (Turn.start .checkIn _) (.inl h.2.1))).surroundings

/-! ## A check-in turn of a kit not found -/

theorem noticeUnknown_aside (s : State) : Aside s s.noticeUnknown := ⟨rfl, rfl, rfl, rfl, rfl, id⟩

theorem startCheckInSearch_aside (s : State) (kit : KitId) : Aside s (s.startCheckInSearch kit) :=
  ⟨rfl, rfl, rfl, rfl, rfl, id⟩

/-- The link once the check-in in service is counted unknown (R104). -/
theorem noticeUnknown_link (s : State) : s.noticeUnknown.link = { s.link with
    inService := none
    counters := { s.link.counters with unknown := min (s.link.counters.unknown + 1) 65535 } } := rfl

/-- Settles O44: a check-in of a kit that its lookup does not find. -/
theorem checkInUnknown : Obligations.CheckInUnknown := by
  intro s a rest next
  dsimp only
  intro sound
  obtain ⟨wf, queue, search, granted⟩ := id next
  obtain ⟨t, looked, absentWork, rebuildingWork, _⟩ := workCheckIn_of_sound (x := s.begins .checkIn) (rest := rest) wf sound
  obtain ⟨link, port, engine, _, _⟩ := looked.outside
  have row := exec_checkInTurn next
  have keeps := checkInTurn_keeps next
  refine ⟨fun absent => ?_, fun rebuilding => ?_⟩
  · rw [State.turn, absentWork absent] at row keeps
    have leaves := looked.leaves (noticeUnknown_aside t.s) rfl keeps
    have kept : (t.map State.noticeUnknown).write.engine = t.s.engine := Turn.write_engine _
    rw [engine] at kept
    refine ⟨_, row, leaves, ?_, (Turn.write_port _).trans port, ?_, ?_, ?_⟩
    · exact (congrArg RecordEngine.checkInSearch kept).trans search
    · exact (congrArg RecordEngine.held kept).trans rfl
    · exact (congrArg RecordEngine.commandSearch kept).trans rfl
    · refine (Turn.write_link (t.map State.noticeUnknown)).trans ((noticeUnknown_link t.s).trans ?_)
      rw [link]
      rfl
  · rw [State.turn, rebuildingWork rebuilding] at row keeps
    have leaves := looked.leaves (startCheckInSearch_aside t.s a.checkIn.kit) rfl keeps
    have kept : (t.map (·.startCheckInSearch a.checkIn.kit)).write.engine =
        { t.s.engine with checkInSearch := some ⟨a.checkIn.kit, homeBucket a.checkIn.kit, 0, none⟩ } := Turn.write_engine _
    rw [engine] at kept
    refine ⟨_, row, leaves, ?_, (Turn.write_port _).trans port, ?_, ?_, ?_⟩
    · exact congrArg RecordEngine.checkInSearch kept
    · exact (congrArg RecordEngine.held kept).trans rfl
    · exact (congrArg RecordEngine.commandSearch kept).trans rfl
    · exact (Turn.write_link (t.map (·.startCheckInSearch a.checkIn.kit))).trans link

/-! ## A check-in turn of a kit found -/

theorem damaged_or_unset {b : Bool} {m : Option Nat} (h : ∀ now, b = false → m = some now → False) :
    b = true ∨ m = none := by
  cases b with
  | true => exact .inl rfl
  | false =>
    cases m with
    | none => exact .inr rfl
    | some now => exact absurd rfl (h now rfl)

theorem handed_of_begins (s : State) (a : Arrival) (rest : List Arrival) (g : Grant) :
    (((s.begins .checkIn).takeArrival a rest).handOver g a).link = ((s.takeArrival a rest).handOver g a).link :=
  handOver_link_congr (s := s.takeArrival a rest) (s' := (s.begins .checkIn).takeArrival a rest) rfl rfl g a

theorem handed_of_resume (s : State) (b : BegunTurn) (a : Arrival) (rest : List Arrival) (g : Grant) :
    (((b.resume s).takeArrival a rest).handOver g a).link = ((s.takeArrival a rest).handOver g a).link :=
  handOver_link_congr (s := s.takeArrival a rest) (s' := (b.resume s).takeArrival a rest) rfl (s.resume_timer b) g a

/-- The head of the queue is served on the slot found for it. -/
theorem checkInTurn_head {s : State} {a : Arrival} {rest : List Arrival} {slot : Nat} (next : CheckInNext s a rest)
    (locates : s.locates a.checkIn.kit slot) : ∃ t, exec .checkInTurn s = .next t
      ∧ CheckInLeaves s t s.now a slot rest (some (homeBucket a.checkIn.kit)) := by
  have row := exec_checkInTurn next
  have keeps := checkInTurn_keeps next
  obtain ⟨ordinary, keep, port, search, held, command, queue, service⟩ :=
    workCheckIn_serves (x := s.begins .checkIn) (rest := rest) next.1 locates keeps
  refine ⟨_, row, port, search.trans next.2.2.1, held, command, queue, service, ?_⟩
  split
  · next now undamaged running =>
    obtain ⟨leaves, link⟩ := ordinary now undamaged running
    exact ⟨leaves, link.trans (handed_of_begins s a rest _)⟩
  · next other =>
    obtain ⟨leaves, link⟩ := keep (damaged_or_unset other)
    exact ⟨leaves, link.trans (handed_of_begins s a rest _)⟩

/-! ## A check-in turn in progress as the link left ENABLED -/

section
variable {s : State} {b : BegunTurn} {slot : Nat}

theorem begunWork_keeps (s : State) (b : BegunTurn) :
    TurnKeeps (b.resume s) (workCheckIn b.arrival s.link.queue (Turn.start .checkIn (b.resume s))).write :=
  (workCheckIn_keeps b.arrival s.link.queue (Turn.start .checkIn (b.resume s)) (.inr rfl)).trans (Turn.write_keeps _)

/-- The arbiter's counts after a turn in progress are those its grant gave (R77). -/
theorem finishTurn_counts (s : State) (b : BegunTurn) :
    (∀ r, (s.finishTurn b).engine.waits.get r = if (s.finishTurn b).waits r then b.waits.get r else 0)
      ∧ (s.finishTurn b).engine.consecutive = b.consecutive ∧ (s.finishTurn b).engine.begun = none := by
  have whole := begunWork_keeps s b
  unfold State.finishTurn
  dsimp only
  generalize (workCheckIn b.arrival s.link.queue (Turn.start .checkIn (b.resume s))).write = w at whole ⊢
  have waiting : ({ w with time := s.time } : State).settle.waits = ({ w with time := s.time } : State).waits :=
    State.waits_congr rfl rfl rfl rfl rfl rfl
  refine ⟨fun r => ?_, whole.consecutive, ?_⟩
  · rw [State.settle_engine, WaitCounts.kept_get, waiting]
    dsimp only
    rw [whole.waits]
    rfl
  · rw [State.settle_engine]
    dsimp only
    rw [whole.begun]
    rfl

/-- A turn in progress is completed on the slot found for its check-in (R116). -/
theorem finishTurn_leaves (wf : Memory.wf s) (search : s.engine.checkInSearch = none) (begun : s.engine.begun = some b)
    (locates : s.locates b.arrival.checkIn.kit slot) :
    CheckInLeaves s (s.finishTurn b) b.now b.arrival slot s.link.queue (some (homeBucket b.arrival.checkIn.kit)) := by
  have surroundings := (finishTurn_keeps s b begun).surroundings
  obtain ⟨ordinary, keep, port, search', held, command, queue, service⟩ :=
    workCheckIn_serves (x := b.resume s) (rest := s.link.queue) wf locates (begunWork_keeps s b).surroundings
  have now : ((b.resume s).takeArrival b.arrival s.link.queue).now = b.now := s.resume_now b
  rw [now] at ordinary keep
  refine ⟨port, search'.trans search, held, command, queue, service, ?_⟩
  split
  · next now undamaged running =>
    obtain ⟨⟨⟨_, leaves⟩, cursor⟩, link⟩ := ordinary now undamaged running
    exact ⟨⟨⟨surroundings, leaves⟩, cursor⟩, link.trans (handed_of_resume s b _ _ _)⟩
  · next other =>
    obtain ⟨⟨⟨_, leaves⟩, cursor⟩, link⟩ := keep (damaged_or_unset other)
    exact ⟨⟨⟨surroundings, leaves⟩, cursor⟩, link.trans (handed_of_resume s b _ _ _)⟩

end

/-- A grant of a check-in that is served meets a link that is not ENABLED and is suppressed (R116, R128). -/
theorem CheckInLeaves.suppressed {s t : State} {minute : Option Nat} {a : Arrival} {slot : Nat} {looked : Option Nat}
    (h : CheckInLeaves s t minute a slot s.link.queue looked) (off : s.link.state ≠ .enabled) :
    t.link = { s.link with
      inService := none
      counters := { s.link.counters with suppressed := min (s.link.counters.suppressed + 1) 65535 } } := by
  have handed (g : Grant) : ((s.takeArrival a s.link.queue).handOver g a).link = { s.link with
      inService := none
      counters := { s.link.counters with suppressed := min (s.link.counters.suppressed + 1) 65535 } } := by
    have off' : ¬(s.takeArrival a s.link.queue).link.state = .enabled := off
    rw [State.handOver_eq, if_neg off']
    rfl
  obtain ⟨_, _, _, _, _, _, served⟩ := h
  split at served
  · exact served.2.trans (handed _)
  · exact served.2.trans (handed _)

theorem execCheckInTurn_noEvent {s : State} (h : s.engine.checkInSearch ≠ none
    ∨ (s.link.queue = [] ∨ s.arbiter ≠ some .checkIn) ∧ s.engine.begun = none) : exec .checkInTurn s = .next s := by
  change execCheckInTurn s = _
  unfold execCheckInTurn
  split
  · next search queue granted =>
    rcases h with h | ⟨h | h, _⟩
    · exact absurd search h
    · rw [queue] at h
      cases h
    · exact absurd granted h
  · next search begun _ =>
    rcases h with h | ⟨_, h⟩
    · exact absurd search h
    · rw [begun] at h
      cases h
  · rfl

/-- Settles O45: a check-in turn of a kit found, of the head of the queue and of a turn in progress. -/
theorem checkInTurn : Obligations.CheckInTurn := by
  refine ⟨fun s a rest slot => checkInTurn_head, fun s b slot wf search other begun locates => ?_,
    fun s => execCheckInTurn_noEvent⟩
  have leaves := finishTurn_leaves wf search begun locates
  exact ⟨_, exec_checkInTurn_begun search other begun, leaves, leaves.suppressed, finishTurn_counts s b⟩

end Sys2Proof.Machine
end

section
/-! PROOFS. The directory as a turn in the making holds it, with the entries it writes, and the tag of a slot written
alone (R62, R68 to R70, R152). -/

namespace Sys2Proof.Machine

set_option Elab.async false

/-! ## The directory of a turn -/

/-- The ways, the states of the buckets and the spill entries as a turn in the making holds them, and the buckets whose
ways it has written. -/
structure DirIs (t : Turn) (way : Nat → Fin 4 → StoredWay) (state : Nat → BucketState)
    (spill : Nat → Option SpillEntry) (written : List Nat) : Prop where
  way : ∀ b w, (t.s.bucket b).ways.get w = way b w
  clean : t.waysClean
  state : ∀ b, (t.s.bucket b).state = state b
  spill : ∀ i, t.s.spillEntry i = spill i
  ways : ∀ b, (∃ w, (b, w) ∈ t.ways) ↔ b ∈ written

/-- The ways once a bucket has been read, if one has been (R62). -/
def State.waysRead (s : State) (looked : Option Nat) (b : Nat) (w : Fin 4) : StoredWay :=
  if looked = some b then ((s.bucket b).ways.get w).afterRead else (s.bucket b).ways.get w

theorem State.waysRead_value (s : State) (looked : Option Nat) (b : Nat) (w : Fin 4) :
    (s.waysRead looked b w).value = ((s.bucket b).ways.get w).value := by
  rw [State.waysRead]
  split
  · exact StoredWay.value_afterRead _
  · rfl

/-- An entry is written at a location, in a way or in the spill list. -/
def Turn.putAt (t : Turn) (loc : Location) (e : Option Entry) (x : Option SpillEntry) : Turn :=
  match loc with
  | .nowhere => t
  | .way b w => t.putWay b w e
  | .spill i => t.putSpill i x

theorem Turn.removeEntry_eq (t : Turn) (loc : Location) : t.removeEntry loc = t.putAt loc none none := by
  cases loc <;> rfl

theorem Turn.putEntry_eq (t : Turn) (loc : Location) (kit : KitId) (slot home : Nat) :
    t.putEntry loc kit slot home = t.putAt loc (some ⟨kit, slot⟩) (some ⟨kit, slot, home⟩) := by
  cases loc <;> rfl

/-- The bucket that a location lies in, if any. -/
def Location.buckets : Location → List Nat
  | .way b _ => [b]
  | _ => []

section
variable {t t' : Turn} {way : Nat → Fin 4 → StoredWay} {state : Nat → BucketState}
  {spill : Nat → Option SpillEntry} {written : List Nat}

theorem DirIs.congr (h : DirIs t way state spill written) (dir : t'.s.dir = t.s.dir) (ways : t'.ways = t.ways) :
    DirIs t' way state spill written := by
  have bucket (b : Nat) : t'.s.bucket b = t.s.bucket b := congrArg (fun d : Directory => cellRead Bucket.cleared d.buckets b) dir
  refine ⟨fun b w => by rw [bucket, h.way], fun b w mem => ?_, fun b => by rw [bucket, h.state], fun i => ?_,
    fun b => by rw [ways, h.ways]⟩
  · rw [ways] at mem
    rw [bucket]
    exact h.clean b w mem
  · exact (congrArg (fun d : Directory => cellRead none d.spill i) dir).trans (h.spill i)

theorem DirRead.dirIs {s : State} {looked : Option Nat} (h : DirRead s t looked) :
    DirIs t (s.waysRead looked) (fun b => (s.bucket b).state) s.spillEntry (s.readWrites looked) :=
  ⟨h.way, h.clean, h.state, fun i => congrArg (cellRead none · i) h.spill, h.writes⟩

theorem DirIs.putWay (h : DirIs t way state spill written) (wf : Memory.wf t.s) (b : Nat) (w : Fin 4) (e : Option Entry) :
    DirIs (t.putWay b w e) (fun x v => if x = b ∧ v = w then ⟨e, e, .good⟩ else way x v) state spill (b :: written) := by
  have ways := Turn.way_putWay wf b w e
  refine ⟨fun x v => by rw [ways, h.way], fun x v mem => ?_,
    fun x => (Turn.bucketState_putWay wf b w e x).trans (h.state x), h.spill, fun x => ?_⟩
  · rw [ways]
    split
    · exact ⟨e, rfl⟩
    · next other => exact h.clean x v (((t.mem_ways_putWay b w e x v).1 mem).resolve_left other)
  · simp only [Turn.mem_ways_putWay, List.mem_cons, ← h.ways, exists_or, exists_and_left, exists_eq, and_true]

theorem DirIs.putSpill (h : DirIs t way state spill written) (wf : Memory.wf t.s) (i : Nat) (x : Option SpillEntry) :
    DirIs (t.putSpill i x) way state (fun j => if j = i then x else spill j) written :=
  ⟨h.way, h.clean, h.state, fun j => by rw [Turn.spillEntry_putSpill wf, h.spill], h.ways⟩

theorem DirIs.putAt (h : DirIs t way state spill written) (wf : Memory.wf t.s) (loc : Location) (e : Option Entry)
    (x : Option SpillEntry) : DirIs (t.putAt loc e x)
      (fun b w => if loc = .way b w then ⟨e, e, .good⟩ else way b w) state
      (fun i => if loc = .spill i then x else spill i) (loc.buckets ++ written) := by
  cases loc with
  | nowhere => exact h
  | way b w =>
    have put := h.putWay wf b w e
    have same (y : Nat) (v : Fin 4) : (y = b ∧ v = w) = (Location.way b w = .way y v) := by
      simp [eq_comm]
    simp only [same] at put
    exact put
  | spill i =>
    have put := h.putSpill wf i x
    have same (j : Nat) : (j = i) = (Location.spill i = .spill j) := by simp [eq_comm]
    simp only [same] at put
    exact put

theorem Turn.putAt_frame (t : Turn) (loc : Location) (e : Option Entry) (x : Option SpillEntry) :
    t.putAt loc e x = { t with
      s := { t.s with dir := (t.putAt loc e x).s.dir }
      ways := (t.putAt loc e x).ways } := by cases loc <;> rfl

theorem Turn.putAt_wf (wf : Memory.wf t.s) (loc : Location) (e : Option Entry) (x : Option SpillEntry) :
    Memory.wf (t.putAt loc e x).s := by
  cases loc with
  | nowhere => exact wf
  | way b w => exact (Turn.putWay_keeps t b w e).wf wf
  | spill i => exact (Turn.putSpill_keeps t i x).wf wf

/-- The directory once the turn's write is made (R75, R152). -/
theorem DirIs.settled (h : DirIs t way state spill written) (wf : Memory.wf t.s) :
    let v := t.write.settle
    (∀ b w, ((v.bucket b).ways.get w).value = (way b w).value) ∧ (∀ b, (v.bucket b).state = state b)
      ∧ (∀ i, v.spillEntry i = spill i)
      ∧ ∀ b w, t.s.integrity.armed.map (·.target) ≠ some (.bucket b) → (v.bucket b).ways.get w = way b w :=
  ⟨fun b w => (Turn.write_value wf h.clean b w).trans (congrArg StoredWay.value (h.way b w)),
    fun b => (Turn.write_bucketState wf b).trans (h.state b),
    fun i => (congrArg (cellRead none · i) (Turn.write_spill t)).trans (h.spill i),
    fun b w other => (congrArg (fun k : Bucket => k.ways.get w) (Turn.write_bucket_of_unarmed wf other)).trans (h.way b w)⟩

end

/-! ## A slot's turn that changes the directory, or the tag alone -/

section
variable {s : State} {t t' : Turn} {who : Requester} {slot : Nat} {tag : Tag} {r : Record} {access : BodyAccess}

theorem OnSlot.redirected (h : OnSlot s t who slot tag r access)
    (frame : t' = { t with s := { t.s with dir := t'.s.dir }, ways := t'.ways }) (wf : Memory.wf t'.s) :
    OnSlot s t' who slot tag r access := by
  obtain ⟨whose, _, inner, tag, body, others, bodies, counts, banks, corrected, errors, armed⟩ := h
  rw [frame] at wf ⊢
  exact ⟨whose, wf, inner.trans rfl, tag, body, others, bodies, counts, banks, corrected, errors, armed⟩

/-- The tag alone of a slot that has been read is written. -/
theorem OnSlot.putTag (h : OnSlot s t who slot (s.tagRead slot) r access) (tag' : Tag) :
    OnSlot s (t.putTag slot tag') who slot tag' r access := by
  obtain ⟨whose, wf, inner, tag, body, others, bodies, counts, banks, corrected, errors, armed⟩ := h
  have tags (x : Nat) : (t.putTag slot tag').s.tag x = if x = slot then tag' else t.s.tag x :=
    State.tag_putTag wf slot tag' x
  refine ⟨whose, (Turn.putTag_keeps t slot tag').wf wf, inner.trans rfl, ?_, body,
    fun x other => ⟨?_, (others x other).2⟩, bodies, ?_, ?_, ?_, errors, armed⟩
  · rw [tags, if_pos rfl]
  · rw [tags, if_neg other]
    exact (others x other).1
  · refine counts.trans (putTag_countsFollow wf slot tag') ?_
    rw [tag]
    exact s.tag_grows_tagRead slot
  · refine banks.trans (putTag_banksFollow wf slot tag') ?_
    rw [tag]
    rfl
  · refine Eq.trans ?_ corrected
    refine (congrArg Bank.corrected (State.bank_putTag t.s slot tag' _)).trans ?_
    rw [if_pos rfl]

/-- The body of the slot once the turn's write is made. -/
theorem OnSlot.body_written (h : OnSlot s t who slot tag r access) (wf : Memory.wf t'.s)
    (armed : t'.s.integrity.armed = t.s.integrity.armed) (bodies : t'.bodies = t.bodies)
    (same : t'.s.body slot = t.s.body slot) : t'.write.body slot = s.bodyLeft slot access r := by
  have carried : slot ∈ t'.bodies ↔ slot ∈ (if s.writesBody slot access then [slot] else []) := by
    rw [bodies]
    exact h.bodies slot
  have body := h.body
  rw [State.bodyLeft]
  split at body
  · next writes =>
    rw [if_pos writes] at carried ⊢
    refine (Turn.write_body_carried wf (carried.2 List.mem_cons_self) (same.trans body)).trans ?_
    rw [State.bodyWritten, armed, h.armed]
    rfl
  · next writes =>
    rw [if_neg writes] at carried ⊢
    exact (Turn.write_body_other wf fun mem => absurd (carried.1 mem) List.not_mem_nil).trans (same.trans body)

/-- A body that the turn has not read or written, once its write is made. -/
theorem OnSlot.body_other (h : OnSlot s t who slot tag r access) (wf : Memory.wf t'.s) (bodies : t'.bodies = t.bodies)
    {x : Nat} (other : x ≠ slot) (same : t'.s.body x = t.s.body x) : t'.write.body x = s.body x := by
  refine ((Turn.write_body_other wf fun mem => ?_).trans same).trans (h.others x other).2
  rw [bodies] at mem
  have mem := (h.bodies x).1 mem
  split at mem
  · exact other (List.mem_singleton.1 mem)
  · exact absurd mem List.not_mem_nil

/-- The injection left armed once the turn's write is made. -/
theorem OnSlot.armed_left (h : OnSlot s t who slot tag r access) {way : Nat → Fin 4 → StoredWay}
    {state : Nat → BucketState} {spill : Nat → Option SpillEntry} {written : List Nat}
    (dir : DirIs t' way state spill written) (armed : t'.s.integrity.armed = t.s.integrity.armed)
    (bodies : t'.bodies = t.bodies) : t'.write.integrity.armed =
      s.armedLeft (if s.writesBody slot access then [slot] else []) written := by
  refine (Turn.write_armed (t := t') (slots := if s.writesBody slot access then [slot] else []) (fun x => ?_)
    dir.ways).trans ?_
  · rw [bodies]
    exact h.bodies x
  · rw [State.armedLeft, armed, h.armed]
    rfl

end

end Sys2Proof.Machine
end

section
/-! PROOFS. The retire of a live slot, and the end of an evacuation with it (R90, R91, R158). -/

namespace Sys2Proof.Machine

set_option Elab.async false

/-! ## The end of an evacuation -/

section
variable {s : State} {b : Fin 4}

theorem completeEvacuation_tag (s : State) (b : Fin 4) (x : Nat) : (s.completeEvacuation b).tag x = s.tag x := rfl

theorem completeEvacuation_body (s : State) (b : Fin 4) (x : Nat) : (s.completeEvacuation b).body x =
    if bankIndex x = b then StoredBody.cleared else s.body x := by
  refine (cellRead_erase (fun slot => decide (bankIndex slot = b)) x).trans ?_
  simp only [decide_eq_true_eq]
  rfl

/-- The freeing of a live slot ends the evacuation of its bank when it was the last one there (R158). -/
theorem checkEvacuation_of_freed {u x : State} {slot : Nat} (banks : BanksFollow u x slot)
    (free : (x.tag slot).lifecycle = .free) (live : (u.tag slot).lifecycle ≠ .free)
    (holds : ∀ b, u.evacuatingBank = some b → 0 < u.liveIn b) : x.checkEvacuation =
      if u.evacuatingBank = some (bankIndex slot) ∧ u.liveIn (bankIndex slot) ≤ 1
        then x.completeEvacuation (bankIndex slot) else x := by
  obtain ⟨others, state, freed, _⟩ := banks
  have states (b : Fin 4) : (x.bank b).state = (u.bank b).state := by
    by_cases same : b = bankIndex slot
    · rw [same, state]
    · rw [others b same]
  have one : (x.bank (bankIndex slot)).free = (u.bank (bankIndex slot)).free + 1 := by
    rw [freed, decide_eq_true free, decide_eq_false live]
    rfl
  have left : x.liveIn (bankIndex slot) = u.liveIn (bankIndex slot) - 1 := by
    rw [State.liveIn, State.liveIn, one, Nat.sub_add_eq]
  rw [State.checkEvacuation, State.evacuatingBank_congr states]
  cases evacuating : u.evacuatingBank with
  | none => exact (if_neg fun both => nomatch both.1).symm
  | some b =>
    dsimp only
    by_cases same : b = bankIndex slot
    · subst same
      rw [left]
      have some' := holds _ evacuating
      by_cases last : u.liveIn (bankIndex slot) ≤ 1
      · rw [if_pos (Nat.sub_eq_zero_of_le last), if_pos ⟨rfl, last⟩]
      · rw [if_neg (Nat.sub_ne_zero_of_lt (Nat.not_le.1 last)), if_neg fun both => last both.2]
    · have kept : x.liveIn b = u.liveIn b := by rw [State.liveIn, State.liveIn, others b same]
      rw [kept, if_neg (Nat.ne_of_gt (holds b evacuating)), if_neg fun both => same (Option.some.inj both.1)]

end

/-! ## The retire -/

/-- What the end of an evacuation leaves of a state, where it comes with the freeing of a slot of bank `b` (R158). -/
structure EvacuationChecked (x y : State) (b : Fin 4) (completes : Prop) : Prop where
  outside : y.dir = x.dir ∧ y.engine = x.engine ∧ y.integrity = x.integrity ∧ y.link = x.link ∧ y.sweep = x.sweep
  tag : ∀ z, y.tag z = x.tag z
  body : ∀ z, bankIndex z ≠ b ∨ ¬completes → y.body z = x.body z
  others : ∀ z, z ≠ b → y.bank z = x.bank z
  corrected : (y.bank b).corrected = (x.bank b).corrected
  stays : ¬completes → y = x
  ends : completes → (y.bank b).state = .outOfService ∧ (y.bank b).free = 0 ∧ y.memory.bankFlag = true
    ∧ ∀ z, bankIndex z = b → y.body z = StoredBody.cleared

theorem evacuationChecked_of_eq {x y : State} {b : Fin 4} {completes : Prop} [Decidable completes]
    (h : y = if completes then x.completeEvacuation b else x) : EvacuationChecked x y b completes := by
  by_cases done : completes
  · rw [if_pos done] at h
    subst h
    refine ⟨⟨rfl, rfl, rfl, rfl, rfl⟩, fun _ => rfl, fun z other => ?_, fun z other => ?_, ?_, fun not => absurd done not, fun _ => ⟨?_, ?_, rfl,
      fun z here => ?_⟩⟩
    · rw [completeEvacuation_body, if_neg (other.resolve_right fun not => not done)]
    · rw [State.bank_completeEvacuation, if_neg other]
    · rw [State.bank_completeEvacuation, if_pos rfl]
    · rw [State.bank_completeEvacuation, if_pos rfl]
    · rw [State.bank_completeEvacuation, if_pos rfl]
    · rw [completeEvacuation_body, if_pos here]
  · rw [if_neg done] at h
    subst h
    exact ⟨⟨rfl, rfl, rfl, rfl, rfl⟩, fun _ => rfl, fun _ _ => rfl, fun _ _ => rfl, rfl, fun _ => rfl, fun yes => absurd yes done⟩

/-- An injection that the write takes spoils no data. -/
theorem Turn.write_body_stored {t : Turn} (wf : Memory.wf t.s) (x : Nat) : (t.write.body x).stored = (t.s.body x).stored := by
  unfold Turn.write
  split
  · rfl
  · next slot m armed =>
    split
    · by_cases same : x = slot
      · rw [same, spoilBody_body_same wf.1]
      · rw [spoilBody_body_other wf.1 m same]
    · rfl
  · split <;> rfl

section
variable {u : State} {t : Turn} {slot : Nat} {looked : Option Nat}

/-- The turn of a retire, up to the freeing of the slot (R90). -/
theorem ReadOn.freed (h : ReadOn u t .command slot looked) :
    let t2 := (t.removeEntry (u.tagRead slot).location).freeSlot slot
    OnSlot u t2 .command slot Tag.cleared (u.reading slot) .read
      ∧ t2.s.integrity.dirCorrected = u.dirCorrectedLeft looked
      ∧ DirIs t2 (fun d w => if (u.tagRead slot).location = .way d w then ⟨none, none, .good⟩ else u.waysRead looked d w)
          (fun d => (u.bucket d).state)
          (fun i => if (u.tagRead slot).location = .spill i then none else u.spillEntry i)
          ((u.tagRead slot).location.buckets ++ u.readWrites looked) := by
  rw [Turn.removeEntry_eq]
  have wf := Turn.putAt_wf h.on.wf (u.tagRead slot).location none none
  have frame := t.putAt_frame (u.tagRead slot).location none none
  have dir := h.read.dirIs.putAt h.on.wf (u.tagRead slot).location none none
  have counted : (t.putAt (u.tagRead slot).location none none).s.integrity = t.s.integrity := by rw [frame]
  exact ⟨(h.on.redirected frame wf).putTag Tag.cleared,
    (congrArg Integrity.dirCorrected counted).trans h.read.counted, dir.congr rfl rfl⟩

end

end Sys2Proof.Machine
end

section
/-! PROOFS. The turns of RETIRE and RETIRE SLOT (R90, R91). -/

namespace Sys2Proof.Machine

set_option Elab.async false

theorem InnerOnly.pointers {s t : State} (h : InnerOnly s t) : t.engine.allocPtr = s.engine.allocPtr
    ∧ t.engine.movesMade = s.engine.movesMade := by
  unfold InnerOnly at h
  rw [h]
  exact ⟨rfl, rfl⟩

section
variable {u : State} {t : Turn} {slot : Nat} {looked : Option Nat}

/-- The end of a retire, from the turn that has freed the slot: the check for the end of an evacuation, and the answer. -/
def Turn.retired (t : Turn) (code : Byte) (fields : List Byte) : Turn :=
  (t.map State.checkEvacuation).answer code .ok fields

/-- A live slot that has been read is retired (R90). -/
theorem ReadOn.retires (h : ReadOn u t .command slot looked) (live : (u.tag slot).lifecycle ≠ .free)
    (holds : ∀ b, u.evacuatingBank = some b → 0 < u.liveIn b) (code : Byte)
    (keeps : KeepsSurroundings u (retireAt code t slot (u.reading slot)).write.settle) :
    Retires u (retireAt code t slot (u.reading slot)).write.settle slot looked code := by
  have work : retireAt code t slot (u.reading slot) =
      ((t.removeEntry (u.tagRead slot).location).freeSlot slot).retired code (imageBytes (recordImage slot (u.tagRead slot)
        (u.reading slot) (standingOf (u.tagRead slot).damaged (u.tagRead slot).lifecycle (u.reading slot)
          (u.tariffClass (u.reading slot).cls).grace u.now))) := by
    rw [retireAt, h.image, h.on.tag]
    rfl
  obtain ⟨on, counted, dir⟩ := h.freed
  rw [work] at keeps ⊢
  generalize (t.removeEntry (u.tagRead slot).location).freeSlot slot = t2 at on counted dir keeps ⊢
  generalize image : imageBytes (recordImage slot (u.tagRead slot) (u.reading slot) _) = fields at keeps ⊢
  have checked := evacuationChecked_of_eq (checkEvacuation_of_freed on.banks (congrArg Tag.lifecycle on.tag) live holds)
  obtain ⟨⟨dirs, engine, integrity, link, sweep⟩, tags, bodies, banks, corrected, stays, ends⟩ := checked
  have wf : Memory.wf (t2.retired code fields).s := (checkEvacuation_keeps t2.s).wf on.wf
  have integrity' : (t2.retired code fields).s.integrity = t2.s.integrity := integrity
  have armed : (t2.retired code fields).s.integrity.armed = t2.s.integrity.armed := congrArg Integrity.armed integrity
  have dir' : DirIs (t2.retired code fields) _ _ _ _ := dir.congr dirs rfl
  obtain ⟨values, states, spills, ways⟩ := dir'.settled wf
  have tag (x : Nat) : (t2.retired code fields).write.settle.tag x = t2.s.tag x := (Turn.write_tag _ x).trans (tags x)
  have bank (x : Fin 4) : (t2.retired code fields).write.settle.bank x = t2.s.checkEvacuation.bank x := Turn.write_bank _ x
  have flag : (t2.retired code fields).write.settle.memory.bankFlag = t2.s.checkEvacuation.memory.bankFlag :=
    Turn.write_bankFlag _
  have written : (t2.retired code fields).write.engine = { t2.s.engine with held := none, commandSearch := none } := by
    refine (Turn.write_engine _).trans ?_
    rw [← engine]
    rfl
  have left : (t2.retired code fields).write.integrity = { t2.s.integrity with
      armed := (t2.retired code fields).write.integrity.armed } := by
    rw [← integrity']
    exact congrArg State.integrity (Turn.write_frame _)
  obtain ⟨_, _, search, cursor⟩ := on.frame.engine
  obtain ⟨link', _, _, _, sweep'⟩ := on.frame.outside
  have pointers := on.frame.pointers
  refine ⟨(tag slot).trans on.tag, fun x other => (tag x).trans (on.others x other).1, fun stay => ?_,
    fun x other apart => ?_, fun d w => ?_, fun d w unarmed => ?_, ?_, states, spills, ?_, fun x other => ?_, ?_,
    fun stay => ?_, fun done => ?_, ?_, ?_, ?_, ?_, ?_, ?_, keeps, ?_, ?_, ?_⟩
  · exact on.body_written wf armed rfl (bodies slot (.inr stay))
  · exact on.body_other wf rfl other (bodies x apart)
  · refine (values d w).trans ?_
    split
    · rfl
    · exact u.waysRead_value looked d w
  · rw [← on.armed, ← armed] at unarmed
    exact ways d w unarmed
  · exact (Turn.write_dirCorrected _).trans ((congrArg Integrity.dirCorrected integrity).trans counted)
  · refine on.counts.congr (tag slot) ?_
    rw [State.settle_engine, written]
    exact ⟨rfl, rfl, rfl, rfl, rfl, rfl⟩
  · exact (bank x).trans ((banks x other).trans (on.banks.1 x other))
  · exact (congrArg Bank.corrected (bank _)).trans (corrected.trans on.corrected)
  · obtain ⟨_, state, freed, kept⟩ := on.banks
    rw [bank, flag, stays stay, state, freed, kept, on.tag, decide_eq_false live]
    exact ⟨rfl, rfl, rfl⟩
  · obtain ⟨state, free, lit, gone⟩ := ends done
    rw [bank, flag]
    refine ⟨state, free, lit, fun x here => (Turn.write_body_stored wf x).trans ?_⟩
    exact congrArg StoredBody.stored (gone x here)
  · have errors := on.errors
    rw [FeedsErrors]
    dsimp only [State.settle]
    rw [left]
    exact errors
  · exact on.armed_left dir' armed rfl
  · rw [State.settle_engine, written]
    exact pointers.1
  · rw [State.settle_engine, written]
    exact pointers.2
  · rw [State.settle_engine, written]
    exact cursor
  · rw [State.settle_engine, written]
    exact search
  · exact (Turn.write_link _).trans (link.trans link')
  · exact (Turn.write_sweep _).trans (sweep.trans sweep')
  · obtain ⟨held, command, ready, response⟩ := Turn.answer_finished (t2.map State.checkEvacuation) code .ok fields
    exact ⟨held, command, ready, response.trans (congrArg (responseBytes code .ok) image.symm)⟩

end

/-! ## The command turns of RETIRE and RETIRE SLOT -/

section
variable {s : State} {slot : Nat}

/-- The command turn whose work is the retire of a live slot that has been read. -/
theorem commandTurn_retires {c : RecordCommand} (h : s.commandTurnFor c) {t : Turn} {looked : Option Nat}
    (on : ReadOn (s.begins .command) t .command slot looked) (live : (s.tag slot).lifecycle ≠ .free)
    (holds : ∀ b, s.evacuatingBank = some b → 0 < s.liveIn b) {code : Byte}
    (work : c.work (Turn.start .command (s.begins .command)) =
      retireAt code t slot ((s.begins .command).reading slot)) :
    ∃ v, exec .commandTurn s = .next v ∧ Retires s v slot looked code := by
  have row := exec_commandTurn h
  have keeps := commandTurn_keeps s c
  rw [State.turn, work] at row keeps
  exact ⟨_, row, on.retires live holds code keeps⟩

theorem retireTurn {kit : KitId} (h : s.commandTurnFor (.retire kit)) (locates : s.locates kit slot)
    (holds : ∀ b, s.evacuatingBank = some b → 0 < s.liveIn b) :
    ∃ v, exec .commandTurn s = .next v ∧ Retires s v slot (some (homeBucket kit)) 0x16 := by
  obtain ⟨t, on, use⟩ := Turn.withKit_found (u := s.begins .command) h.1 .command 0x16 useRetire locates
  exact commandTurn_retires h on locates.2.2 holds use

theorem retireSlotTurn_wrongState {n : BitVec 16} (h : s.commandTurnFor (.retireSlot n))
    (out : (s.bank (bankIndex n.toNat)).inUse = false) (r : Record) : ∃ t, exec .commandTurn s = .next t
      ∧ CommandLeaves s t n.toNat (s.tag n.toNat) r .untouched none 0x17 .wrongState [] := by
  refine commandTurn_answers h ?_
  have work : workRetireSlot n.toNat (Turn.start .command (s.begins .command)) =
      (Turn.start .command (s.begins .command)).refuse 0x17 .wrongState := if_pos (congrArg not out)
  rw [RecordCommand.work, work]
  exact (startLooked h.1).answersUntouched n.toNat r 0x17 .wrongState []

theorem retireSlotTurn_notFound {n : BitVec 16} (h : s.commandTurnFor (.retireSlot n))
    (inUse : (s.bank (bankIndex n.toNat)).inUse = true) (free : (s.tag n.toNat).lifecycle = .free) (r : Record) :
    ∃ t, exec .commandTurn s = .next t
      ∧ CommandLeaves s t n.toNat (s.tag n.toNat) r .untouched none 0x17 .notFound [] := by
  refine commandTurn_answers h ?_
  have work : workRetireSlot n.toNat (Turn.start .command (s.begins .command)) =
      (Turn.start .command (s.begins .command)).refuse 0x17 .notFound :=
    (if_neg (Bool.eq_false_iff.1 (congrArg not inUse))).trans (if_pos free)
  rw [RecordCommand.work, work]
  exact (startLooked h.1).answersUntouched n.toNat r 0x17 .notFound []

theorem retireSlotTurn_retires {n : BitVec 16} (h : s.commandTurnFor (.retireSlot n))
    (inUse : (s.bank (bankIndex n.toNat)).inUse = true) (live : (s.tag n.toNat).lifecycle ≠ .free)
    (holds : ∀ b, s.evacuatingBank = some b → 0 < s.liveIn b) :
    ∃ v, exec .commandTurn s = .next v ∧ Retires s v n.toNat none 0x17 := by
  obtain ⟨record, on⟩ := (startLooked h.1).readOn n.toNat
  have work : workRetireSlot n.toNat (Turn.start .command (s.begins .command)) =
      retireAt 0x17 ((Turn.start .command (s.begins .command)).readLive n.toNat true).1 n.toNat
        ((Turn.start .command (s.begins .command)).readLive n.toNat true).2 :=
    (if_neg (Bool.eq_false_iff.1 (congrArg not inUse))).trans (if_neg live)
  rw [record] at work
  exact commandTurn_retires h on live holds work

end

/-- Settles O34: the turns of RETIRE and RETIRE SLOT. -/
theorem retireTurns : Obligations.RetireTurns := by
  intro s holds
  refine ⟨fun kit slot turn locates => retireTurn turn locates holds, fun slot turn => ⟨fun out => ?_,
    fun inUse free => ?_, fun inUse live => retireSlotTurn_retires turn inUse live holds⟩⟩
  · exact retireSlotTurn_wrongState turn out _
  · exact retireSlotTurn_notFound turn inUse free _

end Sys2Proof.Machine
end

section
/-! PROOFS. The using turn of a command (R66). -/

namespace Sys2Proof.Machine

set_option Elab.async false

section
variable {s v : State} {slot : Nat} {looked : Option Nat} {code : Byte}

theorem replied_ite {p : Prop} [Decidable p] (a b : Reply) : Replied s v slot looked code (if p then a else b) =
    if p then Replied s v slot looked code a else Replied s v slot looked code b := apply_ite _ _ _ _

/-- A command that is finished has no search, and the check-in's search is as it was. -/
def CommandEnds (s v : State) : Prop :=
  v.engine.held = none ∧ v.engine.commandSearch = none ∧ v.engine.checkInSearch = s.engine.checkInSearch

theorem Replied.ends {a : Reply} (h : Replied s v slot looked code a) : CommandEnds s v := by
  obtain ⟨_, _, search, held, command, _⟩ := h
  exact ⟨held, command, search⟩

theorem Retires.ends (h : Retires s v slot looked code) : CommandEnds s v := by
  obtain ⟨_, _, _, _, _, _, _, _, _, _, _, _, _, _, _, _, _, _, _, search, _, _, _, held, command, _⟩ := h
  exact ⟨held, command, search⟩

end

/-! ## The held command on the slot its search found -/

section
variable {s : State} {t : Turn} {slot : Nat}

theorem ReadOn.replied {c : RecordCommand} (keeps : KeepsSurroundings s (c.use t slot (s.reading slot)).write.settle)
    {code : Byte} {a : Reply} (h : Replies (s.begins .command) (c.use t slot (s.reading slot)) slot none code a) :
    Replied s (c.use t slot (s.reading slot)).write.settle slot none code a :=
  AnswersOn.leaves (u := s.begins .command) h keeps

theorem ReadOn.retire_ends (h : ReadOn (s.begins .command) t .command slot none) (code : Byte) :
    CommandEnds s (retireAt code t slot (s.reading slot)).write.settle := by
  obtain ⟨on, _, _⟩ := h.freed
  have tag : (t.s.tag slot).location = ((s.begins .command).tagRead slot).location := congrArg Tag.location h.on.tag
  have frame := ((t.removeEntry (t.s.tag slot).location).freeSlot slot).s.checkEvacuation_frame.1
  obtain ⟨held, command, _, _⟩ := Turn.answer_finished
    (((t.removeEntry (t.s.tag slot).location).freeSlot slot).map State.checkEvacuation) code .ok
    (imageBytes (t.image slot (s.reading slot)))
  refine ⟨held, command, (Turn.answer_checkInSearch _ code .ok _).trans ?_⟩
  rw [← tag] at on
  refine Eq.trans (congrArg (fun x : State => x.engine.checkInSearch) frame) ?_
  exact on.frame.engine.2.2.1

/-- A command that has a search and needs the station minute, while the clock is UNSET (R81). -/
theorem RecordCommand.use_of_unset {c : RecordCommand} (needs : c.needsMinute = true) (seeks : c.seeks ≠ none)
    (unset : t.s.now = none) (slot : Nat) (r : Record) : c.use t slot r = t.refuse c.code .clockUnset := by
  cases c with
  | topUp | adjust | suspend | resume => exact Turn.withClock_none unset _ _
  | changeClass | retire | readRecord => cases needs
  | enrol | restore | retireSlot | readSlot | fetchMarked => exact absurd rfl seeks

theorem ServesCommand.of_unset {v : State} {c : RecordCommand} (unset : s.now = none) (needs : c.needsMinute = true)
    (seeks : c.seeks ≠ none)
    (replied : Replied s v slot none c.code (refusal (s.tagRead slot) (s.reading slot) .clockUnset)) :
    ServesCommand s v slot c := by
  cases c with
  | topUp | adjust | suspend | resume =>
    unfold ServesCommand
    rw [unset]
    exact replied
  | changeClass | retire | readRecord => cases needs
  | enrol | restore | retireSlot | readSlot | fetchMarked => exact absurd rfl seeks

/-- A held command is carried out on the live slot its search found (R66). -/
theorem ReadOn.servesCommand (h : ReadOn (s.begins .command) t .command slot none)
    (live : (s.tag slot).lifecycle ≠ .free) (c : RecordCommand)
    (keeps : KeepsSurroundings s (c.use t slot (s.reading slot)).write.settle) :
    ServesCommand s (c.use t slot (s.reading slot)).write.settle slot c
      ∧ CommandEnds s (c.use t slot (s.reading slot)).write.settle := by
  have refused {st : Status} (use : c.use t slot (s.reading slot) = t.refuse c.code st) :
      Replied s (c.use t slot (s.reading slot)).write.settle slot none c.code
        (refusal (s.tagRead slot) (s.reading slot) st) := by
    have replies := h.replies_refusal c.code st
    rw [← use] at replies
    exact ReadOn.replied keeps replies
  have minute (needs : c.needsMinute = true) (seeks : c.seeks ≠ none) :
      (ServesCommand s (c.use t slot (s.reading slot)).write.settle slot c
        ∧ CommandEnds s (c.use t slot (s.reading slot)).write.settle) ∨ ∃ now, s.now = some now := by
    cases clock : s.now with
    | none =>
      have replied := refused (c.use_of_unset needs seeks (h.now.trans clock) slot (s.reading slot))
      exact .inl ⟨ServesCommand.of_unset clock needs seeks replied, replied.ends⟩
    | some now => exact .inr ⟨now, rfl⟩
  cases c with
  | topUp kit amount =>
    rcases minute rfl nofun with served | ⟨now, clock⟩
    · exact served
    · have replied : Replied s _ slot none 0x11 (topUpReply (s.tagRead slot) (s.reading slot)
        (s.tariffClass (s.reading slot).cls) amount now) := ReadOn.replied keeps (h.topUp clock amount)
      refine ⟨?_, replied.ends⟩
      rw [topUpReply, replied_ite, replied_ite, replied_ite] at replied
      unfold ServesCommand
      rw [clock]
      dsimp only
      generalize Machine.topUp ⟨(s.tagRead slot).lifecycle, s.reading slot⟩ _ _ _ = res at replied ⊢
      cases res <;> exact replied
  | adjust kit minutes =>
    rcases minute rfl nofun with served | ⟨now, clock⟩
    · exact served
    · have replied : Replied s _ slot none 0x12 (adjustReply (s.tagRead slot) (s.reading slot)
        (s.tariffClass (s.reading slot).cls) minutes now) := ReadOn.replied keeps (h.adjust clock minutes)
      refine ⟨?_, replied.ends⟩
      rw [adjustReply, replied_ite, replied_ite] at replied
      unfold ServesCommand
      rw [clock]
      dsimp only
      generalize (if 0 < minutes.toInt then adjustUp ⟨(s.tagRead slot).lifecycle, s.reading slot⟩ _ _ _ else _) = res
        at replied ⊢
      cases res <;> exact replied
  | suspend kit =>
    rcases minute rfl nofun with served | ⟨now, clock⟩
    · exact served
    · have replied : Replied s _ slot none 0x13 (suspendReply (s.tagRead slot) (s.reading slot)
        (s.tariffClass (s.reading slot).cls) now) := ReadOn.replied keeps (h.suspend clock)
      refine ⟨?_, replied.ends⟩
      rw [suspendReply, replied_ite, replied_ite] at replied
      unfold ServesCommand
      rw [clock]
      exact replied
  | resume kit =>
    rcases minute rfl nofun with served | ⟨now, clock⟩
    · exact served
    · have replied : Replied s _ slot none 0x14 (resumeReply (s.tagRead slot) (s.reading slot)
        (s.tariffClass (s.reading slot).cls) now) := ReadOn.replied keeps (h.resume clock)
      refine ⟨?_, replied.ends⟩
      rw [resumeReply, replied_ite, replied_ite] at replied
      unfold ServesCommand
      rw [clock]
      exact replied
  | changeClass kit cls =>
    have replied := ReadOn.replied keeps (h.changeClass cls)
    refine ⟨?_, replied.ends⟩
    rw [changeClassReply, replied_ite, replied_ite, replied_ite] at replied
    unfold ServesCommand
    exact replied
  | readRecord kit =>
    have replied := ReadOn.replied keeps h.readRecord
    exact ⟨replied, replied.ends⟩
  | retire kit => exact ⟨fun holds => h.retires live holds 0x16 keeps, h.retire_ends 0x16⟩
  | enrol | retireSlot | restore | readSlot | fetchMarked =>
    have replied := refused (st := .notFound) rfl
    exact ⟨replied, replied.ends⟩

end

end Sys2Proof.Machine
end

section
/-! PROOFS. The using turn (R66). -/

namespace Sys2Proof.Machine

set_option Elab.async false

/-! ## The using turn of a command -/

section
variable {s : State} {c : RecordCommand} {kit : KitId} {home next slot : Nat}

theorem usingTurn_keeps (s : State) (owner : Requester) (kit : KitId) (slot : Nat) :
    KeepsSurroundings s (s.turn owner (workUsingTurn owner kit slot)) :=
  (turn_keeps s owner _ (workUsingTurn_keeps owner kit slot (Turn.start owner _))).surroundings

theorem workUsingTurn_free {owner : Requester} {t : Turn} (free : (t.s.tag slot).lifecycle = .free) :
    workUsingTurn owner kit slot t = t.searchFails owner := if_pos free

theorem workUsingTurn_live {owner : Requester} {t : Turn} (live : (t.s.tag slot).lifecycle ≠ .free) :
    workUsingTurn owner kit slot t = if (t.readLive slot true).2.kit = kit
      then (t.readLive slot true).1.useFor owner slot (t.readLive slot true).2
      else (t.readLive slot true).1.searchFails owner := if_neg live

theorem searchFails_command {t : Turn} (held : t.s.engine.held = some c) :
    t.searchFails .command = t.refuse c.code .notFound := by
  unfold Turn.searchFails
  rw [held]

theorem useFor_command {t : Turn} (held : t.s.engine.held = some c) (r : Record) :
    t.useFor .command slot r = c.use t slot r := by
  unfold Turn.useFor
  dsimp only
  rw [held]

theorem usingTurn_command (wf : Memory.wf s) (held : s.engine.held = some c)
    (search : s.engine.commandSearch = some ⟨kit, home, next, some slot⟩) (granted : s.arbiter = some .command) :
    let live := (s.tag slot).lifecycle ≠ .free
    ∃ t, exec .usingTurn s = .next t ∧ CommandEnds s t
      ∧ (¬live → CommandLeaves s t slot (s.tag slot) (s.body slot).stored .untouched none c.code .notFound [])
      ∧ (live → (s.reading slot).kit ≠ kit → CommandLeaves s t slot (s.tagRead slot) (s.reading slot) .read
          none c.code .notFound [])
      ∧ (live → (s.reading slot).kit = kit → ServesCommand s t slot c) := by
  have row := exec_usingTurn search granted
  have keeps := usingTurn_keeps s .command kit slot
  rw [State.turn] at row keeps
  have start := startLooked wf
  dsimp only
  by_cases free : (s.tag slot).lifecycle = .free
  · have work : workUsingTurn .command kit slot (Turn.start .command (s.begins .command)) =
        (Turn.start .command (s.begins .command)).refuse c.code .notFound :=
      (workUsingTurn_free free).trans (searchFails_command held)
    rw [work] at row keeps
    have leaves := (start.answersUntouched slot (s.body slot).stored c.code .notFound []).leaves keeps
    exact ⟨_, row, ⟨leaves.2.2.2.1, leaves.2.2.2.2.1, leaves.2.2.1⟩, fun _ => leaves, fun live => absurd free live,
      fun live => absurd free live⟩
  obtain ⟨record, on⟩ := start.readOn slot
  have work : workUsingTurn .command kit slot (Turn.start .command (s.begins .command)) = _ := workUsingTurn_live free
  rw [record] at work
  have held' : ((Turn.start .command (s.begins .command)).readLive slot true).1.s.engine.held = some c :=
    on.on.frame.engine.1.trans held
  by_cases same : (s.reading slot).kit = kit
  · have served := (work.trans (if_pos same)).trans (useFor_command held' _)
    rw [served] at row keeps
    obtain ⟨serves, ends⟩ := on.servesCommand free c keeps
    exact ⟨_, row, ends, fun dead => absurd free dead, fun _ other => absurd same other, fun _ _ => serves⟩
  · have failed := (work.trans (if_neg same)).trans (searchFails_command held')
    rw [failed] at row keeps
    have leaves := (on.answers c.code .notFound []).leaves keeps
    exact ⟨_, row, ⟨leaves.2.2.2.1, leaves.2.2.2.2.1, leaves.2.2.1⟩, fun dead => absurd free dead, fun _ _ => leaves,
      fun _ here => absurd here same⟩

end

/-! ## The using turn of a check-in -/

theorem exec_usingTurn_checkIn {s : State} {kit : KitId} {home next slot : Nat}
    (search : s.engine.checkInSearch = some ⟨kit, home, next, some slot⟩) (granted : s.arbiter = some .checkIn) :
    exec .usingTurn s = .next (s.turn .checkIn (workUsingTurn .checkIn kit slot)) := by
  simp [exec, execUsingTurn, State.searchOf, search, granted]

/-- The write of a turn that carries nothing. -/
theorem Turn.write_of_none {t : Turn} (bodies : t.bodies = []) (ways : t.ways = []) : t.write = t.s := by
  have lowest (b : Nat) : lowestWritten b t.ways = none := by rw [ways]; rfl
  unfold Turn.write
  split
  · rfl
  · rw [bodies, if_neg List.not_mem_nil]
  · rw [lowest]

/-- The check-in's search is over, and its kit is unknown (R64, R66). -/
def State.searchUnknown (s : State) : State := (s.putSearch .checkIn none).noticeUnknown

theorem searchUnknown_aside (s : State) : Aside s s.searchUnknown := ⟨rfl, rfl, rfl, rfl, rfl, id⟩

theorem searchFails_checkIn (t : Turn) : t.searchFails .checkIn = t.map State.searchUnknown := by
  unfold Turn.searchFails
  rfl

/-- What a check-in's turn leaves of the port and the work of COMMAND, its own search over. -/
def CheckInEnds (s v : State) : Prop :=
  v.port = s.port ∧ v.engine.checkInSearch = none ∧ v.engine.held = s.engine.held
    ∧ v.engine.commandSearch = s.engine.commandSearch

theorem InnerOnly.checkInEnds {s : State} {t : Turn} (h : InnerOnly s t.s) {f : State → State}
    (port : (f t.s).port = t.s.port) (search : (f t.s).engine.checkInSearch = none)
    (held : (f t.s).engine.held = t.s.engine.held)
    (command : (f t.s).engine.commandSearch = t.s.engine.commandSearch) : CheckInEnds s (t.map f).write.settle := by
  obtain ⟨held', command', _, _⟩ := h.engine
  have kept : (t.map f).write.engine = (f t.s).engine := Turn.write_engine _
  exact ⟨(Turn.write_port _).trans (port.trans h.outside.2.1), (congrArg RecordEngine.checkInSearch kept).trans search,
    (congrArg RecordEngine.held kept).trans (held.trans held'),
    (congrArg RecordEngine.commandSearch kept).trans (command.trans command')⟩

/-- The turn goes on with the check-in's search over. -/
theorem ReadOn.searchOver {u : State} {t : Turn} {slot : Nat} (h : ReadOn u t .checkIn slot none) :
    ReadOn (u.putSearch .checkIn none) (t.map (·.putSearch .checkIn none)) .checkIn slot none := by
  obtain ⟨⟨whose, wf, inner, tag, body, others, bodies, counts, banks, corrected, errors, armed⟩, read⟩ := h
  have inner' : InnerOnly (u.putSearch .checkIn none) (t.s.putSearch .checkIn none) :=
    congrArg (fun x : State => x.putSearch .checkIn none) inner
  obtain ⟨sound, way, state, spill, counted, ways⟩ := read
  exact ⟨⟨whose, wf, inner', tag, body, others, bodies, counts, banks, corrected, errors, armed⟩,
    ⟨sound, way, state, spill, counted, ways⟩⟩

section
variable {s : State} {kit : KitId} {home next slot : Nat}

/-- The link once the check-in in service is unknown (R104). -/
def KitLink.unknown (l : KitLink) : KitLink :=
  { l with inService := none, counters := { l.counters with unknown := min (l.counters.unknown + 1) 65535 } }

/-- A check-in in service has been served by a turn of its search. -/
theorem Serves.checkInLeaves {v : State} {a : Arrival}
    (h : Serves ((s.begins .checkIn).putSearch .checkIn none) v slot a none) (service : s.link.inService = some a) :
    CheckInLeaves s v s.now a slot s.link.queue none := by
  obtain ⟨ordinary, keep, port, search, held, command, queue, ended⟩ := h
  have link : s.link = { s.link with queue := s.link.queue, inService := some a } := by rw [← service]
  have handed (g : Grant) : (((s.begins .checkIn).putSearch .checkIn none).handOver g a).link =
      ((s.takeArrival a s.link.queue).handOver g a).link :=
    handOver_link_congr (s := s.takeArrival a s.link.queue) (s' := (s.begins .checkIn).putSearch .checkIn none)
      link rfl g a
  refine ⟨port, search, held, command, queue, ended, ?_⟩
  split
  · next now undamaged running =>
    obtain ⟨leaves, link⟩ := ordinary now undamaged running
    exact ⟨leaves, link.trans (handed _)⟩
  · next other =>
    obtain ⟨leaves, link⟩ := keep (damaged_or_unset other)
    exact ⟨leaves, link.trans (handed _)⟩

theorem usingTurn_checkIn (wf : Memory.wf s) (search : s.engine.checkInSearch = some ⟨kit, home, next, some slot⟩)
    (granted : s.arbiter = some .checkIn) :
    let live := (s.tag slot).lifecycle ≠ .free
    ∃ t, exec .usingTurn s = .next t ∧ CheckInEnds s t
      ∧ (¬live → t.memory = s.memory ∧ t.dir = s.dir ∧ t.integrity = s.integrity ∧ KeepsSurroundings s t
          ∧ t.link = s.link.unknown)
      ∧ (live → (s.reading slot).kit ≠ kit → TurnLeaves s t slot (s.tagRead slot) (s.reading slot) .read none .checkIn s.now
          ∧ t.link = s.link.unknown)
      ∧ ∀ a, live → (s.reading slot).kit = kit → s.link.inService = some a →
          CheckInLeaves s t s.now a slot s.link.queue none := by
  have row := exec_usingTurn_checkIn search granted
  have keeps := usingTurn_keeps s .checkIn kit slot
  rw [State.turn] at row keeps
  have start : Looked (s.begins .checkIn) (Turn.start .checkIn (s.begins .checkIn)) .checkIn none :=
    Looked.start (s := s.begins .checkIn) wf .checkIn
  dsimp only
  by_cases free : (s.tag slot).lifecycle = .free
  · have work : workUsingTurn .checkIn kit slot (Turn.start .checkIn (s.begins .checkIn)) =
        (Turn.start .checkIn (s.begins .checkIn)).map State.searchUnknown :=
      (workUsingTurn_free free).trans (searchFails_checkIn _)
    rw [work] at row keeps
    have ends := (start.onSlot slot Record.cleared).frame.checkInEnds (f := State.searchUnknown) rfl rfl rfl rfl
    have written : ((Turn.start .checkIn (s.begins .checkIn)).map State.searchUnknown).write =
        (s.begins .checkIn).searchUnknown := Turn.write_of_none rfl rfl
    refine ⟨_, row, ends, fun _ => ?_, fun live => absurd free live, fun _ live => absurd free live⟩
    refine ⟨?_, ?_, ?_, keeps, ?_⟩ <;> rw [written] <;> rfl
  obtain ⟨record, on⟩ := start.readOn slot
  have work : workUsingTurn .checkIn kit slot (Turn.start .checkIn (s.begins .checkIn)) = _ := workUsingTurn_live free
  rw [record] at work
  obtain ⟨_, _, _, cursor⟩ := on.on.frame.engine
  obtain ⟨link, _⟩ := on.on.frame.outside
  generalize ((Turn.start .checkIn (s.begins .checkIn)).readLive slot true).1 = t at work on cursor link
  by_cases same : (s.reading slot).kit = kit
  · have served := work.trans (if_pos same)
    cases service : s.link.inService with
    | none =>
      have alone : t.useFor .checkIn slot (s.reading slot) = t.map (·.putSearch .checkIn none) := by
        have none : (t.map (·.putSearch .checkIn none)).s.link.inService = .none :=
          (congrArg KitLink.inService link).trans service
        unfold Turn.useFor
        dsimp only
        rw [none]
      have served := served.trans alone
      rw [served] at row keeps
      have ends := on.on.frame.checkInEnds (f := (·.putSearch .checkIn none)) rfl rfl rfl rfl
      exact ⟨_, row, ends, fun dead => absurd free dead, fun _ other => absurd same other, nofun⟩
    | some a =>
      have serve : t.useFor .checkIn slot (s.reading slot) =
          (t.map (·.putSearch .checkIn none)).serve slot (s.reading slot) a := by
        have some' : (t.map (·.putSearch .checkIn none)).s.link.inService = some a :=
          (congrArg KitLink.inService link).trans service
        unfold Turn.useFor
        dsimp only
        rw [some']
      have served := served.trans serve
      rw [served] at row keeps
      have serves : Serves ((s.begins .checkIn).putSearch .checkIn none) _ slot a none := on.searchOver.serves keeps
      obtain ⟨port, search', held, command, _, _⟩ := serves.aside
      refine ⟨_, row, ⟨port, search', held, command⟩, fun dead => absurd free dead, fun _ other => absurd same other,
        fun _ _ _ here => ?_⟩
      cases here
      exact serves.checkInLeaves service
  · have failed := (work.trans (if_neg same)).trans (searchFails_checkIn _)
    rw [failed] at row keeps
    have ends := on.on.frame.checkInEnds (f := State.searchUnknown) rfl rfl rfl rfl
    refine ⟨_, row, ends, fun dead => absurd free dead, fun _ _ => ⟨⟨on.on.leaves on.read (searchUnknown_aside _) keeps,
      ?_⟩, ?_⟩, fun _ _ here => absurd here same⟩
    · rw [State.settle_engine, Turn.write_engine]
      exact cursor
    · refine (Turn.write_link _).trans ?_
      exact congrArg KitLink.unknown link

end

/-- Settles O40: the using turns of a command and of a check-in. -/
theorem usingTurn : Obligations.UsingTurn := by
  refine ⟨fun s c kit home next slot wf held search granted => ?_, fun s kit home next slot wf search granted => ?_⟩
  · obtain ⟨t, row, ⟨done, command, checkIn⟩, rest⟩ := usingTurn_command wf held search granted
    exact ⟨t, row, done, command, checkIn, rest⟩
  · obtain ⟨t, row, ⟨port, checkIn, held, command⟩, rest⟩ := usingTurn_checkIn wf search granted
    exact ⟨t, row, port, checkIn, held, command, rest⟩

end Sys2Proof.Machine
end

section
/-! PROOFS. The first read of an uncorrectable body, and what a read returns word by word (R147 to R149). -/

namespace Sys2Proof.Machine

set_option Elab.async false

/-! ## The words of a body -/

theorem StoredBody.holds_iff {b : StoredBody} (wf : cellsWf Check.good b.words) {c : Check} (bad : c ≠ .good) :
    b.holds c = true ↔ ∃ w, cellRead .good b.words w = c := by
  rw [StoredBody.holds, List.any_eq_true]
  constructor
  · rintro ⟨e, mem, found⟩
    exact ⟨e.1, (cellRead_of_mem wf.1 mem).trans (of_decide_eq_true found)⟩
  · rintro ⟨w, found⟩
    rcases mem_of_cellRead (d := Check.good) (m := b.words) (a := w) with good | ⟨e, mem, here⟩
    · exact absurd (found.symm.trans good) bad
    · exact ⟨e, mem, decide_eq_true (here.trans found)⟩

theorem StoredBody.check_eq_double_iff {b : StoredBody} (wf : cellsWf Check.good b.words) :
    b.check = .double ↔ ∃ w, cellRead .good b.words w = .double := by
  rw [← StoredBody.holds_iff wf (c := .double) nofun, StoredBody.check]
  cases b.holds .double <;> cases b.holds .single <;> simp

theorem StoredBody.check_eq_good_iff {b : StoredBody} (wf : cellsWf Check.good b.words) :
    b.check = .good ↔ ∀ w, cellRead .good b.words w = .good := by
  have double := StoredBody.holds_iff wf (c := .double) nofun
  have single := StoredBody.holds_iff wf (c := .single) nofun
  rw [StoredBody.check]
  constructor
  · intro good w
    cases found : cellRead .good b.words w with
    | good => rfl
    | single =>
      rw [single.2 ⟨w, found⟩] at good
      split at good <;> cases good
    | double =>
      rw [double.2 ⟨w, found⟩] at good
      cases good
  · intro good
    have noDouble : ¬b.holds .double = true := fun h => by
      obtain ⟨w, found⟩ := double.1 h
      rw [good w] at found
      cases found
    have noSingle : ¬b.holds .single = true := fun h => by
      obtain ⟨w, found⟩ := single.1 h
      rw [good w] at found
      cases found
    rw [if_neg noDouble, if_neg noSingle]

/-! ## A slot that becomes DAMAGED -/

/-- One error fed to the report. -/
theorem FeedsErrors.single {s t : State} {place : ErrorPlace} {who : Requester} (h : FeedsErrors s t [place] who s.now) :
    FeedsError s t place who := by
  obtain ⟨report, records, directory⟩ := h
  refine ⟨fun empty => ?_, fun full => ?_⟩
  · rw [empty] at report records directory
    exact ⟨report, records.trans (Bool.or_false _), directory.trans (Bool.or_false _)⟩
  · obtain ⟨e, some'⟩ := Option.ne_none_iff_exists'.1 full
    rw [some'] at report records directory ⊢
    refine ⟨report, ?_, ?_⟩
    · rw [records]
      cases place <;> simp [ErrorPlace.isRecord]
    · rw [directory]
      cases place <;> simp [ErrorPlace.isRecord]

section
variable {s t : State} {slot : Nat}

theorem State.newlyDamaged_of {s : State} (undamaged : (s.tag slot).damaged = false) (double : (s.body slot).check = .double) :
    s.newlyDamaged slot = true := by
  rw [State.newlyDamaged, undamaged, decide_eq_true double]
  rfl

theorem State.corrects_of_newlyDamaged (h : s.newlyDamaged slot = true) : s.corrects slot = false := by
  cases corrects : s.corrects slot with
  | false => rfl
  | true =>
    rw [State.newlyDamaged_of_corrects corrects] at h
    cases h

theorem State.errorsAt_of_newlyDamaged (h : s.newlyDamaged slot = true) : s.errorsAt slot = [.record slot] := if_pos h

/-- A turn that has done no more than a read that finds an uncorrectable body (R149). -/
theorem SlotLeaves.becomesDamaged {r : Record} {looked : Option Nat} {who : Requester}
    (h : SlotLeaves s t slot (s.tagRead slot) r .read looked who s.now) (damages : s.newlyDamaged slot = true) :
    BecomesDamaged s t slot who looked := by
  obtain ⟨keeps, others, ⟨entries, _⟩, _, tag, body, counts, banks, corrected, errors, armed, _, _⟩ := h
  have uncorrected := State.corrects_of_newlyDamaged damages
  have unwritten : s.writesBody slot .read = false := uncorrected
  rw [State.tagRead_of_newlyDamaged damages] at tag
  rw [State.bodyLeft, unwritten, if_neg nofun] at body
  rw [if_neg nofun, State.errorsAt_of_newlyDamaged damages] at errors
  rw [unwritten, if_neg nofun] at armed
  refine ⟨tag, fun x other => (others x other).1, fun x => ?_, entries, counts, banks, ?_, errors.single, armed, keeps⟩
  · by_cases same : x = slot
    · rw [same, body]
    · exact (others x same).2
  · rw [corrected, State.correctedLeft, uncorrected]
    rfl

end

theorem standingOf_damaged {lc : Lifecycle} (live : lc ≠ .free) (r : Record) (grace : Nat) (clock : Option Nat) :
    standingOf true lc r grace clock = some .keep := by
  cases lc with
  | free => exact absurd rfl live
  | enrolled | running | suspended | owned => cases clock <;> rfl

end Sys2Proof.Machine
end

section
/-! PROOFS. The read of a bucket in any turn, with the wipe of an uncorrectable one (R62, R63, R71). -/

namespace Sys2Proof.Machine

set_option Elab.async false

/-! ## The wipe -/

theorem Tag.forget_eq (b : Nat) (tag : Tag) : tag.forget b = tag.without (some b) := by
  obtain ⟨lifecycle, damaged, location, marked⟩ := tag
  cases location <;> rfl

theorem Tag.without_none (tag : Tag) : tag.without none = tag := by
  obtain ⟨lifecycle, damaged, location, marked⟩ := tag
  cases location <;> rfl

theorem Tag.without_of_nowhere {tag : Tag} (h : tag.location = .nowhere) (wiped : Option Nat) : tag.without wiped = tag := by
  unfold Tag.without
  rw [h]

/-- A wipe changes no more than the location of a tag. -/
theorem Tag.without_keeps (tag : Tag) (wiped : Option Nat) : (tag.without wiped).lifecycle = tag.lifecycle
    ∧ (tag.without wiped).damaged = tag.damaged ∧ (tag.without wiped).marked = tag.marked := by
  unfold Tag.without
  split
  · split <;> exact ⟨rfl, rfl, rfl⟩
  · exact ⟨rfl, rfl, rfl⟩

theorem State.tag_forgetBucket {s : State} (wf : Memory.wf s) (b x : Nat) :
    (s.forgetBucket b).tag x = (s.tag x).without (some b) := by
  rw [← Tag.forget_eq]
  exact cellRead_map wf.2.1.1 (Tag.forget b) rfl x

/-- The ways of a bucket as a read of it returns them to the turn (R62). -/
def Bucket.seen (k : Bucket) : Four (Option Entry) := if k.broken then ⟨none, none, none, none⟩ else k.values

/-- A way as a read of its bucket leaves it, with the wipe of an uncorrectable bucket (R62, R71). -/
def Bucket.wayLeft (k : Bucket) (w : Fin 4) : StoredWay := if k.broken then .empty else (k.ways.get w).afterRead

/-- The state of a bucket as a read of it leaves it (R71). -/
def Bucket.stateLeft (k : Bucket) (pass : BitVec 16) : BucketState := if k.broken then .rebuilding pass else k.state

/-- A bucket has been read by a turn (R62, R63, R71). -/
structure BucketRead (t : Turn) (home : Nat) (t' : Turn) : Prop where
  whose : t'.who = t.who
  bodies : t'.bodies = t.bodies
  wf : Memory.wf t'.s
  frame : t'.s = { t.s with
    dir := { t.s.dir with buckets := t'.s.dir.buckets }
    memory := { t.s.memory with tags := t'.s.memory.tags }
    integrity := { t'.s.integrity with armed := t.s.integrity.armed } }
  way : ∀ b w, (t'.s.bucket b).ways.get w = if b = home then (t.s.bucket home).wayLeft w else (t.s.bucket b).ways.get w
  state : ∀ b, (t'.s.bucket b).state =
    if b = home then (t.s.bucket home).stateLeft t.s.sweep.pass else (t.s.bucket b).state
  tag : ∀ x, t'.s.tag x = (t.s.tag x).without (t.s.wipedBy home)
  errors : FeedsErrors t.s t'.s ((t.s.wipedBy home).map .directory).toList t.who t.s.now
  counted : t'.s.integrity.dirCorrected = t.s.dirCorrectedLeft (some home)
  clean : t.waysClean → t'.waysClean
  ways : ∀ b, (∃ w, (b, w) ∈ t'.ways) ↔ (∃ w, (b, w) ∈ t.ways) ∨ b ∈ t.s.readWrites (some home)

section
variable {t : Turn} {home : Nat}

theorem State.wipedBy_of_sound {s : State} (sound : (s.bucket home).broken = false) : s.wipedBy home = none := by
  rw [State.wipedBy, sound]
  rfl

theorem State.wipedBy_of_broken {s : State} (broken : (s.bucket home).broken = true) : s.wipedBy home = some home := by
  rw [State.wipedBy, broken]
  rfl

theorem Turn.readBucket_sound (wf : Memory.wf t.s) (sound : (t.s.bucket home).broken = false) :
    ∃ t', t.readBucket home = (t', (t.s.bucket home).seen) ∧ BucketRead t home t' := by
  obtain ⟨t', read, frame, wf', way, state, counted, ways⟩ := Turn.readBucket_of_sound wf sound
  have tag (x : Nat) : t'.s.tag x = t.s.tag x := by rw [frame]; rfl
  refine ⟨t', read.trans ?_, by rw [frame], by rw [frame], wf', ?_, fun b w => ?_, fun b => ?_, fun x => ?_, ?_, ?_,
    fun clean b w mem => ?_, fun b => ?_⟩
  · rw [Bucket.seen, sound, if_neg nofun]
  · exact (congrArg Turn.s frame).trans (by rw [frame])
  · rw [way]
    simp only [List.mem_finRange, and_true]
    split
    · next here => rw [here, Bucket.wayLeft, sound, if_neg nofun]
    · rfl
  · rw [state]
    split
    · next here => rw [here, Bucket.stateLeft, sound, if_neg nofun]
    · rfl
  · rw [tag, State.wipedBy_of_sound sound, Tag.without_none]
  · rw [State.wipedBy_of_sound sound]
    refine feedsErrors_nil ?_ _ _
    rw [frame]
    exact ⟨rfl, rfl, rfl⟩
  · rw [State.dirCorrectedLeft_of_sound sound, counted]
    rfl
  · rw [way]
    rcases (ways b w).1 mem with ⟨here, all, single⟩ | old
    · rw [if_pos ⟨here, all⟩, here, StoredWay.afterRead_of_single single]
      exact ⟨_, rfl⟩
    · split
      · obtain ⟨e, good⟩ := clean b w old
        rw [good]
        exact ⟨e, rfl⟩
      · exact clean b w old
  · have corrected : b ∈ t.s.readWrites (some home) ↔ b = home ∧ ∃ w, ((t.s.bucket home).ways.get w).check = .single := by
      rw [State.readWrites, List.mem_filter, ← Bucket.corrections_ne_zero_iff]
      simp only [Option.mem_toList, Option.some.injEq, Bool.or_eq_true, decide_eq_true_eq, eq_comm (a := home)]
      refine and_congr_right fun here => ?_
      rw [here, sound]
      simp
    rw [corrected]
    simp only [ways, List.mem_finRange, true_and, exists_or, exists_and_left]
    exact or_comm

theorem feedError_within (x : State) (place : ErrorPlace) (who : Requester) : x.feedError place who = { x with
    dir := { x.dir with buckets := (x.feedError place who).dir.buckets }
    memory := { x.memory with tags := (x.feedError place who).memory.tags }
    integrity := { (x.feedError place who).integrity with armed := x.integrity.armed } } := by
  unfold State.feedError
  split
  · rfl
  · split <;> rfl

theorem Turn.readBucket_broken (wf : Memory.wf t.s) (broken : (t.s.bucket home).broken = true) :
    ∃ t', t.readBucket home = (t', (t.s.bucket home).seen) ∧ BucketRead t home t' := by
  refine ⟨t.wipe home, (Turn.readBucket_of_broken broken).trans ?_, ?_⟩
  · rw [Bucket.seen, if_pos broken]
  have put := Turn.bucket_putBucket wf home { Bucket.cleared with state := .rebuilding t.s.sweep.pass } [0, 1, 2, 3]
  have wf1 := (Turn.putBucket_keeps t home { Bucket.cleared with state := .rebuilding t.s.sweep.pass } [0, 1, 2, 3]).wf wf
  have wf' := (Turn.wipe_keeps t home).wf wf
  obtain ⟨memory, dir, _, _, counted⟩ := feedError_memory_dir ((t.putBucket home { Bucket.cleared with
    state := .rebuilding t.s.sweep.pass } [0, 1, 2, 3]).s.forgetBucket home) (.directory home) t.who
  have fed := feedError_feeds ((t.putBucket home { Bucket.cleared with state := .rebuilding t.s.sweep.pass }
    [0, 1, 2, 3]).s.forgetBucket home) (.directory home) t.who
  have bucket (b : Nat) : (t.wipe home).s.bucket b =
      if b = home then { Bucket.cleared with state := .rebuilding t.s.sweep.pass } else t.s.bucket b :=
    (congrArg (fun d : Directory => cellRead Bucket.cleared d.buckets b) dir).trans (put b)
  have tags (x : Nat) : (t.wipe home).s.tag x = (t.s.tag x).without (some home) :=
    (congrArg (fun m : RecordMemory => cellRead Tag.cleared m.tags x) memory).trans (State.tag_forgetBucket wf1 home x)
  have carried (b : Nat) (w : Fin 4) : (b, w) ∈ (t.wipe home).ways ↔ b = home ∨ (b, w) ∈ t.ways := by
    refine (List.mem_append (s := [0, 1, 2, 3].map fun w => (home, w)) (t := t.ways)).trans (or_congr_left ?_)
    fin_cases w <;> simp
  refine ⟨rfl, rfl, wf', ?_, fun b w => ?_, fun b => ?_, fun x => ?_, ?_, ?_, fun clean b w mem => ?_, fun b => ?_⟩
  · exact feedError_within ((t.putBucket home { Bucket.cleared with state := .rebuilding t.s.sweep.pass }
      [0, 1, 2, 3]).s.forgetBucket home) (.directory home) t.who
  · rw [bucket]
    split
    · rw [Bucket.wayLeft, if_pos broken]
      fin_cases w <;> rfl
    · rfl
  · rw [bucket]
    split
    · rw [Bucket.stateLeft, if_pos broken]
    · rfl
  · rw [tags, State.wipedBy_of_broken broken]
  · rw [State.wipedBy_of_broken broken]
    exact fed
  · rw [State.dirCorrectedLeft, if_pos broken, if_pos rfl]
    exact counted
  · rw [bucket]
    split
    · exact ⟨none, by fin_cases w <;> rfl⟩
    · next other => exact clean b w (((carried b w).1 mem).resolve_left other)
  · have wiped : b ∈ t.s.readWrites (some home) ↔ b = home := by
      rw [State.readWrites, List.mem_filter]
      simp only [Option.mem_toList, Option.some.injEq, eq_comm (a := home)]
      exact and_iff_left_of_imp fun here => by rw [here, broken]; rfl
    rw [wiped]
    simp only [carried, exists_or]
    rw [or_comm]
    exact or_congr_right ⟨fun ⟨_, here⟩ => here, fun here => ⟨0, here⟩⟩

/-- The read of a bucket, whatever its ways are (R62). -/
theorem Turn.readBucket_read (wf : Memory.wf t.s) (home : Nat) :
    ∃ t', t.readBucket home = (t', (t.s.bucket home).seen) ∧ BucketRead t home t' := by
  cases broken : (t.s.bucket home).broken with
  | false => exact Turn.readBucket_sound wf broken
  | true => exact Turn.readBucket_broken wf broken

end

end Sys2Proof.Machine
end

section
/-! PROOFS. A re-insertion (R72). -/

namespace Sys2Proof.Machine

set_option Elab.async false

/-! ## Where an entry goes -/

theorem Four.lowest_below {α : Type} {f : Four α} {p : α → Bool} {i j : Fin 4} (h : f.lowest p = some i) (below : j < i) :
    p (f.get j) = false := by
  unfold Four.lowest at h
  split_ifs at h with h0 h1 h2 h3 <;> cases h <;> fin_cases j <;> simp_all [Four.get]

theorem Four.lowest_eq_some_iff {α : Type} {f : Four α} {p : α → Bool} {i : Fin 4} :
    f.lowest p = some i ↔ p (f.get i) = true ∧ ∀ j, j < i → p (f.get j) = false := by
  refine ⟨fun h => ⟨Four.lowest_eq_some h, fun j => Four.lowest_below h⟩, fun ⟨here, before⟩ => ?_⟩
  cases found : f.lowest p with
  | none =>
    rw [Four.lowest_eq_none.1 found i] at here
    cases here
  | some j =>
    rcases lt_trichotomy j i with below | same | above
    · have there := Four.lowest_eq_some found
      rw [before j below] at there
      cases there
    · rw [same]
    · rw [Four.lowest_below found above] at here
      cases here

section
variable {s : State} {b : Nat} {ways : Four (Option Entry)}

theorem lowestEmpty_eq_some_iff {w : Fin 4} : ways.lowest (·.isNone) = some w ↔
    ways.get w = none ∧ ∀ v, v < w → ways.get v ≠ none := by
  refine Four.lowest_eq_some_iff.trans (and_congr Option.isNone_iff_eq_none (forall₂_congr fun v _ => ?_))
  rw [Option.isNone_eq_false_iff, Option.isSome_iff_ne_none]

theorem lowestEmpty_eq_none_iff : ways.lowest (·.isNone) = none ↔ ∀ w, ways.get w ≠ none := by
  refine Four.lowest_eq_none.trans (forall_congr' fun w => ?_)
  rw [Option.isNone_eq_false_iff, Option.isSome_iff_ne_none]

theorem placeFor_way {w : Fin 4} (empty : ways.lowest (·.isNone) = some w) : s.placeFor b ways = .way b w := by
  rw [State.placeFor, empty]

theorem emptySpill_eq_some_iff {i : Nat} :
    scan Config.spillEntries (fun i => (s.spillEntry i).isNone) Config.spillEntries 0 = some i ↔
      i < 32 ∧ s.spillEntry i = none ∧ ∀ j, j < i → s.spillEntry j ≠ none := by
  refine (scan_zero_eq_some_iff (by decide)).trans (and_congr_right fun _ => and_congr Option.isNone_iff_eq_none
    (forall₂_congr fun j _ => ?_))
  rw [Option.isNone_eq_false_iff, Option.isSome_iff_ne_none]

theorem emptySpill_eq_none_iff :
    scan Config.spillEntries (fun i => (s.spillEntry i).isNone) Config.spillEntries 0 = none ↔
      ∀ i, i < 32 → s.spillEntry i ≠ none := by
  refine (scan_zero_eq_none_iff (by decide)).trans (forall₂_congr fun j _ => ?_)
  rw [Option.isNone_eq_false_iff, Option.isSome_iff_ne_none]

theorem placeFor_spill {i : Nat} (full : ways.lowest (·.isNone) = none) (inRange : i < 32) (empty : s.spillEntry i = none)
    (before : ∀ j, j < i → s.spillEntry j ≠ none) : s.placeFor b ways = .spill i := by
  rw [State.placeFor, full]
  dsimp only
  rw [emptySpill_eq_some_iff.2 ⟨inRange, empty, before⟩]

theorem placeFor_nowhere (full : ways.lowest (·.isNone) = none) (none : ∀ i, i < 32 → s.spillEntry i ≠ none) :
    s.placeFor b ways = .nowhere := by
  rw [State.placeFor, full]
  dsimp only
  rw [emptySpill_eq_none_iff.2 none]

/-- An entry goes to a way of its bucket, to a spill entry, or nowhere. -/
theorem placeFor_cases (s : State) (b : Nat) (ways : Four (Option Entry)) :
    (∃ w, ways.lowest (·.isNone) = some w ∧ s.placeFor b ways = .way b w)
      ∨ ways.lowest (·.isNone) = none ∧ ((∃ i, s.placeFor b ways = .spill i) ∨ s.placeFor b ways = .nowhere) := by
  rw [State.placeFor]
  cases ways.lowest (·.isNone) with
  | some w => exact .inl ⟨w, rfl, rfl⟩
  | none =>
    refine .inr ⟨rfl, ?_⟩
    dsimp only
    cases scan Config.spillEntries (fun i => (s.spillEntry i).isNone) Config.spillEntries 0 with
    | some i => exact .inl ⟨i, rfl⟩
    | none => exact .inr rfl

theorem placeFor_congr {s' : State} (spill : s'.dir.spill = s.dir.spill) : s'.placeFor b ways = s.placeFor b ways := by
  have entry : s'.spillEntry = s.spillEntry := funext fun i => congrArg (cellRead none · i) spill
  unfold State.placeFor
  rw [entry]

end

/-! ## The location of a tag alone -/

theorem RecordEngine.recount_located (e : RecordEngine) (tag : Tag) (loc : Location) :
    e.recount { tag with location := loc } tag = e := by
  unfold RecordEngine.recount
  simp only [adjusted_self]

/-- A tag that changes no more than its location leaves every count and bank (R8, R10). -/
theorem setLocation_keeps (t : Turn) (slot : Nat) (loc : Location) : (t.setLocation slot loc).s.engine = t.s.engine
    ∧ ∀ b, (t.setLocation slot loc).s.bank b = t.s.bank b := by
  refine ⟨RecordEngine.recount_located _ _ _, fun b => (State.bank_putTag _ _ _ b).trans ?_⟩
  split
  · next here =>
    rw [here]
    dsimp only
    rw [Nat.add_sub_cancel]
  · rfl

/-! ## An entry written at a location -/

section
variable {t : Turn}

theorem Turn.way_putAt (wf : Memory.wf t.s) (loc : Location) (e : Option Entry) (x : Option SpillEntry) (b : Nat)
    (w : Fin 4) : ((t.putAt loc e x).s.bucket b).ways.get w =
      if loc = .way b w then ⟨e, e, .good⟩ else (t.s.bucket b).ways.get w := by
  cases loc with
  | nowhere => exact (if_neg nofun).symm
  | way d v =>
    refine (Turn.way_putWay wf d v e b w).trans ?_
    simp only [Location.way.injEq, eq_comm]
  | spill i => exact (if_neg nofun).symm

theorem Turn.bucketState_putAt (wf : Memory.wf t.s) (loc : Location) (e : Option Entry) (x : Option SpillEntry) (b : Nat) :
    ((t.putAt loc e x).s.bucket b).state = (t.s.bucket b).state := by
  cases loc with
  | nowhere => rfl
  | way d v => exact Turn.bucketState_putWay wf d v e b
  | spill i => rfl

theorem Turn.spillEntry_putAt (wf : Memory.wf t.s) (loc : Location) (e : Option Entry) (x : Option SpillEntry) (i : Nat) :
    (t.putAt loc e x).s.spillEntry i = if loc = .spill i then x else t.s.spillEntry i := by
  cases loc with
  | nowhere => exact (if_neg nofun).symm
  | way d v => exact (if_neg nofun).symm
  | spill j =>
    refine (Turn.spillEntry_putSpill wf j x i).trans ?_
    simp only [Location.spill.injEq, eq_comm]

theorem Turn.mem_ways_putAt (loc : Location) (e : Option Entry) (x : Option SpillEntry) (b : Nat) (w : Fin 4) :
    (b, w) ∈ (t.putAt loc e x).ways ↔ loc = .way b w ∨ (b, w) ∈ t.ways := by
  cases loc with
  | nowhere => exact ⟨.inr, fun h => h.resolve_left nofun⟩
  | way d v =>
    refine (t.mem_ways_putWay d v e b w).trans ?_
    simp only [Location.way.injEq, eq_comm]
  | spill i => exact ⟨.inr, fun h => h.resolve_left nofun⟩

end

/-! ## The re-insertion -/

/-- A slot without a location has been re-inserted under its home bucket at `loc` (R72). -/
structure Reinserted (t : Turn) (slot : Nat) (kit : KitId) (home : Nat) (loc : Location) (t' : Turn) : Prop where
  whose : t'.who = t.who
  bodies : t'.bodies = t.bodies
  wf : Memory.wf t'.s
  outside : t'.s.engine = t.s.engine ∧ t'.s.link = t.s.link ∧ t'.s.port = t.s.port ∧ t'.s.sweep = t.s.sweep
    ∧ t'.s.tariff = t.s.tariff ∧ t'.s.time = t.s.time ∧ t'.s.integrity.armed = t.s.integrity.armed
  body : ∀ x, t'.s.body x = t.s.body x
  bank : (∀ b, t'.s.bank b = t.s.bank b) ∧ t'.s.memory.bankFlag = t.s.memory.bankFlag
  tag : ∀ x, t'.s.tag x =
    if x = slot then { t.s.tag slot with location := loc } else (t.s.tag x).without (t.s.wipedBy home)
  way : ∀ b w, (t'.s.bucket b).ways.get w =
    if loc = .way b w then ⟨some ⟨kit, slot⟩, some ⟨kit, slot⟩, .good⟩
    else if b = home then (t.s.bucket home).wayLeft w else (t.s.bucket b).ways.get w
  state : ∀ b, (t'.s.bucket b).state =
    if b = home then
      (if loc = .nowhere then .rebuilding t.s.sweep.pass else (t.s.bucket home).stateLeft t.s.sweep.pass)
    else (t.s.bucket b).state
  spill : ∀ i, t'.s.spillEntry i = if loc = .spill i then some ⟨kit, slot, home⟩ else t.s.spillEntry i
  errors : FeedsErrors t.s t'.s ((t.s.wipedBy home).map .directory).toList t.who t.s.now
  counted : t'.s.integrity.dirCorrected = t.s.dirCorrectedLeft (some home)
  clean : t.waysClean → t'.waysClean
  ways : ∀ b, (∃ w, (b, w) ∈ t'.ways) ↔ (∃ w, (b, w) ∈ t.ways) ∨ b ∈ t.s.entryWrites home

/-- The buckets a re-insertion writes, by the place of its entry (R62, R72). -/
theorem mem_entryWrites_iff {s : State} {home b : Nat} :
    b ∈ s.entryWrites home ↔ (∃ w, s.placeFor home (s.bucket home).seen = .way b w) ∨ b ∈ s.readWrites (some home) := by
  have homeOnly : b ∈ s.readWrites (some home) → b = home := fun mem => by
    rw [State.readWrites, List.mem_filter] at mem
    exact (Option.some.inj (Option.mem_toList.1 mem.1)).symm
  rw [State.entryWrites]
  cases broken : (s.bucket home).broken with
  | true =>
    have written : home ∈ s.readWrites (some home) := by
      rw [State.readWrites, List.mem_filter, broken]
      exact ⟨List.mem_cons_self, rfl⟩
    have seen : s.placeFor home (s.bucket home).seen = .way home 0 := by
      rw [Bucket.seen, if_pos broken]
      rfl
    rw [seen]
    have here : b ∈ (if (s.bucket home).values.lowest (·.isNone) ≠ none then [home] else s.readWrites (some home)) ↔
        b = home := by
      split
      · exact List.mem_singleton
      · exact ⟨homeOnly, fun same => same ▸ written⟩
    rw [here]
    constructor
    · rintro rfl
      exact .inl ⟨0, rfl⟩
    · rintro (⟨w, same⟩ | mem)
      · cases same
        rfl
      · exact homeOnly mem
  | false =>
    rw [Bucket.seen, broken, if_neg Bool.false_ne_true]
    rcases placeFor_cases s home (s.bucket home).values with ⟨w, empty, place⟩ | ⟨full, place⟩
    · rw [if_pos (by rw [empty]; exact nofun), place, List.mem_singleton]
      constructor
      · rintro rfl
        exact .inl ⟨w, rfl⟩
      · rintro (⟨v, same⟩ | mem)
        · cases same
          rfl
        · exact homeOnly mem
    · rw [if_neg (not_not_intro full)]
      refine ⟨.inr, fun h => h.resolve_left ?_⟩
      rintro ⟨w, same⟩
      rcases place with ⟨i, place⟩ | place
      · rw [place] at same
        cases same
      · rw [place] at same
        cases same

end Sys2Proof.Machine
end

section
/-! PROOFS. What a re-insertion does in any turn, and its effect on a readable home bucket (R62, R72). -/

namespace Sys2Proof.Machine

set_option Elab.async false

section
variable {t u : Turn} {home slot : Nat} {kit : KitId} {loc : Location}

/-- What the engine and the other units hold after a read of a bucket (R75). -/
theorem BucketRead.outside (h : BucketRead t home u) : u.s.engine = t.s.engine ∧ u.s.link = t.s.link
    ∧ u.s.port = t.s.port ∧ u.s.sweep = t.s.sweep ∧ u.s.tariff = t.s.tariff ∧ u.s.time = t.s.time
    ∧ u.s.integrity.armed = t.s.integrity.armed := by
  rw [h.frame]
  exact ⟨rfl, rfl, rfl, rfl, rfl, rfl, rfl⟩

theorem BucketRead.memory (h : BucketRead t home u) : (∀ x, u.s.body x = t.s.body x)
    ∧ (∀ b, u.s.bank b = t.s.bank b) ∧ u.s.memory.bankFlag = t.s.memory.bankFlag := by
  rw [h.frame]
  exact ⟨fun _ => rfl, fun _ => rfl, rfl⟩

theorem BucketRead.spill (h : BucketRead t home u) : u.s.dir.spill = t.s.dir.spill := by
  rw [h.frame]

theorem FeedsErrors.congr {s a b : State} {es : List ErrorPlace} {who : Requester} {minute : Option Nat}
    (h : FeedsErrors s a es who minute) (same : b.integrity = a.integrity) : FeedsErrors s b es who minute := by
  rw [FeedsErrors, same]
  exact h

/-- With no room the home bucket becomes REBUILDING and nothing is entered (R72). -/
theorem BucketRead.reinserted_nowhere (h : BucketRead t home u) (nowhere : (t.s.tag slot).location = .nowhere)
    (place : t.s.placeFor home (t.s.bucket home).seen = .nowhere) :
    Reinserted t slot kit home .nowhere (u.markRebuilding home) := by
  obtain ⟨engine, link, port, sweep, tariff, time, armed⟩ := h.outside
  obtain ⟨body, bank, flag⟩ := h.memory
  have bucket := Turn.bucket_putBucket h.wf home { u.s.bucket home with state := .rebuilding u.s.sweep.pass } []
  refine ⟨h.whose, h.bodies, (Turn.putBucket_keeps u home _ []).wf h.wf, ⟨engine, link, port, sweep, tariff, time, armed⟩,
    body, ⟨bank, flag⟩, fun x => ?_, fun b w => ?_, fun b => ?_, fun i => ?_, h.errors.congr rfl, h.counted, fun clean => ?_,
    fun b => ?_⟩
  · refine (h.tag x).trans ?_
    split
    · next here =>
      rw [here, Tag.without_of_nowhere nowhere, ← nowhere]
    · rfl
  · rw [if_neg nofun, ← h.way]
    refine (congrArg (fun k : Bucket => k.ways.get w) (bucket b)).trans ?_
    split
    · next here => rw [here]
    · rfl
  · refine (congrArg Bucket.state (bucket b)).trans ?_
    rw [if_pos rfl, ← sweep]
    split
    · rfl
    · next other => rw [h.state, if_neg other]
  · rw [if_neg nofun]
    exact congrArg (cellRead none · i) h.spill
  · intro b w mem
    obtain ⟨e, good⟩ := h.clean clean b w mem
    refine ⟨e, (congrArg (fun k : Bucket => k.ways.get w) (bucket b)).trans ?_⟩
    split
    · next here => exact here ▸ good
    · exact good
  · refine (h.ways b).trans (or_congr_right ?_)
    rw [mem_entryWrites_iff, place]
    exact ⟨.inr, fun mem => mem.resolve_left nofun⟩

/-- With room the entry is written and the tag names it (R72). -/
theorem BucketRead.reinserted_at (h : BucketRead t home u) (nowhere : (t.s.tag slot).location = .nowhere)
    (place : t.s.placeFor home (t.s.bucket home).seen = loc) (room : loc ≠ .nowhere) :
    Reinserted t slot kit home loc ((u.putEntry loc kit slot home).setLocation slot loc) := by
  obtain ⟨engine, link, port, sweep, tariff, time, armed⟩ := h.outside
  obtain ⟨body, bank, flag⟩ := h.memory
  rw [Turn.putEntry_eq]
  have wf := Turn.putAt_wf h.wf loc (some ⟨kit, slot⟩) (some ⟨kit, slot, home⟩)
  have way := Turn.way_putAt h.wf loc (some ⟨kit, slot⟩) (some ⟨kit, slot, home⟩)
  have state := Turn.bucketState_putAt h.wf loc (some ⟨kit, slot⟩) (some ⟨kit, slot, home⟩)
  have spill := Turn.spillEntry_putAt h.wf loc (some ⟨kit, slot⟩) (some ⟨kit, slot, home⟩)
  have ways := Turn.mem_ways_putAt (t := u) loc (some ⟨kit, slot⟩) (some ⟨kit, slot, home⟩)
  have frame := Turn.putAt_frame u loc (some ⟨kit, slot⟩) (some ⟨kit, slot, home⟩)
  generalize u.putAt loc (some ⟨kit, slot⟩) (some ⟨kit, slot, home⟩) = v at wf way state spill ways frame ⊢
  have tags (x : Nat) : v.s.tag x = u.s.tag x := by rw [frame]; rfl
  have tag := State.tag_putTag wf slot { v.s.tag slot with location := loc }
  obtain ⟨engine', bank'⟩ := setLocation_keeps v slot loc
  refine ⟨?_, ?_, (Turn.putTag_keeps v slot _).wf wf, ⟨engine'.trans ?_, ?_, ?_, ?_, ?_, ?_, ?_⟩, fun x => ?_,
    ⟨fun b => (bank' b).trans ?_, ?_⟩, fun x => ?_, fun b w => ?_, fun b => ?_, fun i => ?_, ?_, ?_, fun clean => ?_,
    fun b => ?_⟩
  · exact (by rw [frame] : v.who = u.who).trans h.whose
  · exact (by rw [frame] : v.bodies = u.bodies).trans h.bodies
  · exact (by rw [frame] : v.s.engine = u.s.engine).trans engine
  · exact (by rw [frame] : v.s.link = u.s.link).trans link
  · exact (by rw [frame] : v.s.port = u.s.port).trans port
  · exact (by rw [frame] : v.s.sweep = u.s.sweep).trans sweep
  · exact (by rw [frame] : v.s.tariff = u.s.tariff).trans tariff
  · exact (by rw [frame] : v.s.time = u.s.time).trans time
  · exact (by rw [frame] : v.s.integrity.armed = u.s.integrity.armed).trans armed
  · exact (by rw [frame]; rfl : v.s.body x = u.s.body x).trans (body x)
  · exact (by rw [frame]; rfl : v.s.bank b = u.s.bank b).trans (bank b)
  · exact (by rw [frame] : v.s.memory.bankFlag = u.s.memory.bankFlag).trans flag
  · refine (tag x).trans ?_
    split
    · rw [tags, h.tag, Tag.without_of_nowhere nowhere]
    · rw [tags, h.tag]
  · refine (way b w).trans ?_
    rw [h.way]
  · refine (state b).trans ?_
    rw [h.state, if_neg room]
  · refine (spill i).trans ?_
    split
    · rfl
    · exact congrArg (cellRead none · i) h.spill
  · exact h.errors.congr (by rw [frame] : v.s.integrity = u.s.integrity)
  · exact (by rw [frame] : v.s.integrity.dirCorrected = u.s.integrity.dirCorrected).trans h.counted
  · intro b w mem
    show ∃ e, (v.s.bucket b).ways.get w = _
    rw [way]
    split
    · exact ⟨_, rfl⟩
    · next other => exact h.clean clean b w (((ways b w).1 mem).resolve_left other)
  · rw [mem_entryWrites_iff, place, or_left_comm, ← h.ways, ← exists_or]
    exact exists_congr fun w => ways b w

/-- A re-insertion of a slot without a location, whatever its home bucket holds (R72). -/
theorem Turn.reinsert_reinserted (wf : Memory.wf t.s) (nowhere : (t.s.tag slot).location = .nowhere) :
    Reinserted t slot kit home (t.s.placeFor home (t.s.bucket home).seen) (t.reinsert slot kit home) := by
  obtain ⟨u, read, h⟩ := Turn.readBucket_read wf home
  rw [Turn.reinsert, if_pos nowhere, read]
  dsimp only
  rw [placeFor_congr h.spill, Turn.enterAt]
  split
  · next none =>
    rw [none]
    exact h.reinserted_nowhere nowhere none
  · next room => exact h.reinserted_at nowhere rfl room

end

/-! ## In a readable home bucket -/

section
variable {t t' : Turn} {slot home : Nat} {kit : KitId} {loc : Location}

theorem Reinserted.location (h : Reinserted t slot kit home loc t') : (t'.s.tag slot).location = loc := by
  rw [h.tag, if_pos rfl]

theorem Bucket.wayLeft_of_sound {k : Bucket} (sound : k.broken = false) (w : Fin 4) : k.wayLeft w = (k.ways.get w).afterRead := by
  rw [Bucket.wayLeft, sound, if_neg Bool.false_ne_true]

theorem Bucket.wayLeft_value (k : Bucket) (w : Fin 4) : (k.wayLeft w).value = k.seen.get w := by
  rw [Bucket.wayLeft, Bucket.seen]
  split
  · fin_cases w <;> rfl
  · exact (StoredWay.value_afterRead _).trans (k.values_get w).symm

/-- What the ways of the home bucket read as after a re-insertion. -/
theorem Reinserted.value (h : Reinserted t slot kit home loc t') (w : Fin 4) : (t'.s.bucket home).values.get w =
    if loc = .way home w then some ⟨kit, slot⟩ else (t.s.bucket home).seen.get w := by
  rw [Bucket.values_get, h.way]
  split
  · rfl
  · rw [if_pos rfl, Bucket.wayLeft_value]

theorem placeFor_ne_way {s : State} {b : Nat} (other : b ≠ home) (ways : Four (Option Entry)) (w : Fin 4) :
    s.placeFor home ways ≠ .way b w := by
  rcases placeFor_cases s home ways with ⟨v, _, place⟩ | ⟨_, ⟨i, place⟩ | place⟩ <;> rw [place]
  · exact fun same => other (Location.way.inj same).1.symm
  · exact nofun
  · exact nofun

/-- The other buckets stay. -/
theorem Reinserted.bucket_other {ways : Four (Option Entry)}
    (h : Reinserted t slot kit home (t.s.placeFor home ways) t') {b : Nat} (other : b ≠ home) :
    t'.s.bucket b = t.s.bucket b := by
  have same : (t'.s.bucket b).ways = (t.s.bucket b).ways := Four.ext_get fun w => by
    rw [h.way, if_neg (placeFor_ne_way other ways w), if_neg other]
  have state : (t'.s.bucket b).state = (t.s.bucket b).state := by rw [h.state, if_neg other]
  exact congrArg₂ Bucket.mk same state

end

/-- Settles O39: the reinserted slot's place, bucket and corrections, read off what a re-insertion does. -/
theorem reinsertion : Obligations.Reinsertion := by
  intro t slot kit wf nowhere sound
  have h := Turn.reinsert_reinserted (kit := kit) (home := homeBucket kit) wf nowhere
  have seen : (t.s.bucket (homeBucket kit)).seen = (t.s.bucket (homeBucket kit)).values := by
    rw [Bucket.seen, sound, if_neg Bool.false_ne_true]
  have stateLeft : (t.s.bucket (homeBucket kit)).stateLeft t.s.sweep.pass = (t.s.bucket (homeBucket kit)).state := by
    rw [Bucket.stateLeft, sound, if_neg Bool.false_ne_true]
  rw [seen] at h
  have location := h.location
  refine ⟨fun w empty => ?_, fun full i before inRange empty => ?_, fun full none => ?_, fun w => ?_, fun b other => ?_, ?_⟩
  · have place := placeFor_way (s := t.s) (b := homeBucket kit) empty
    rw [place] at h location
    refine ⟨location, Four.ext_get fun v => ?_, ?_⟩
    · rw [h.value, Four.get_set, seen]
      simp only [Location.way.injEq, true_and, eq_comm]
    · rw [h.state, if_pos rfl, if_neg nofun, stateLeft]
  · have place := placeFor_spill (b := homeBucket kit) full inRange empty before
    rw [place] at h location
    exact ⟨location, (h.spill i).trans (if_pos rfl)⟩
  · have place := placeFor_nowhere (b := homeBucket kit) full none
    rw [place] at h location
    exact ⟨location, (h.state _).trans ((if_pos rfl).trans (if_pos rfl))⟩
  · rw [location, h.way, if_pos rfl, Bucket.wayLeft_of_sound sound]
    rfl
  · exact h.bucket_other other
  · rw [h.counted, State.dirCorrectedLeft_of_sound sound]
    rfl

end Sys2Proof.Machine
end

section
/-! PROOFS. A re-insertion once the turn's write is made (R72, R75, R152). -/

namespace Sys2Proof.Machine

set_option Elab.async false

/-- What ends a turn leaves the tags and the integrity unit alone; of the directory the states of the buckets alone
change, by `after` (R144). -/
structure DirCloses (after : BucketState → BucketState) (a b : State) : Prop where
  tags : b.memory.tags = a.memory.tags
  integrity : b.integrity = a.integrity
  spill : b.dir.spill = a.dir.spill
  ways : ∀ d, (b.bucket d).ways = (a.bucket d).ways
  state : ∀ d, (b.bucket d).state = after (a.bucket d).state
  wf : Memory.wf a → Memory.wf b

/-- The same of what leaves the whole memory alone. -/
structure Closes (after : BucketState → BucketState) (a b : State) : Prop extends DirCloses after a b where
  memory : b.memory = a.memory

theorem Closes.of_memory {after : BucketState → BucketState} {a b : State} (memory : b.memory = a.memory)
    (integrity : b.integrity = a.integrity) (spill : b.dir.spill = a.dir.spill)
    (ways : ∀ d, (b.bucket d).ways = (a.bucket d).ways) (state : ∀ d, (b.bucket d).state = after (a.bucket d).state)
    (wf : Memory.wf a → Memory.wf b) : Closes after a b :=
  ⟨⟨congrArg RecordMemory.tags memory, integrity, spill, ways, state, wf⟩, memory⟩

theorem DirCloses.of_dir {a b : State} (tags : b.memory.tags = a.memory.tags) (integrity : b.integrity = a.integrity)
    (dir : b.dir = a.dir) (wf : Memory.wf a → Memory.wf b) : DirCloses id a b :=
  have bucket (d : Nat) : b.bucket d = a.bucket d := congrArg (fun x : Directory => cellRead Bucket.cleared x.buckets d) dir
  ⟨tags, integrity, congrArg Directory.spill dir, fun d => congrArg Bucket.ways (bucket d),
    fun d => congrArg Bucket.state (bucket d), wf⟩

theorem Closes.of_dir {a b : State} (memory : b.memory = a.memory) (integrity : b.integrity = a.integrity)
    (dir : b.dir = a.dir) (wf : Memory.wf a → Memory.wf b) : Closes id a b :=
  ⟨.of_dir (congrArg RecordMemory.tags memory) integrity dir wf, memory⟩

theorem Aside.closes {a b : State} (h : Aside a b) : Closes id a b := .of_dir h.memory h.integrity h.dir h.wf

theorem Turn.write_bucket_of_unwritten {t : Turn} (wf : Memory.wf t.s) {b : Nat} (unwritten : ∀ w, (b, w) ∉ t.ways) :
    t.write.bucket b = t.s.bucket b := by
  rcases Turn.write_bucket wf b with same | ⟨w, _, carried, _⟩
  · exact same
  · exact absurd carried (unwritten w)

section
variable {t : Turn} {f : State → State} {after : BucketState → BucketState}

theorem DirCloses.tag (h : DirCloses after t.s (f t.s)) (x : Nat) : (t.map f).write.settle.tag x = t.s.tag x :=
  (Turn.write_tag (t.map f) x).trans (congrArg (fun tags => cellRead Tag.cleared tags x) h.tags)

theorem Closes.body (h : Closes after t.s (f t.s)) (x : Nat) : (t.map f).s.body x = t.s.body x :=
  congrArg (fun m : RecordMemory => cellRead StoredBody.cleared m.bodies x) h.memory

theorem Closes.bank (h : Closes after t.s (f t.s)) (b : Fin 4) : (t.map f).write.settle.bank b = t.s.bank b :=
  (Turn.write_bank (t.map f) b).trans (congrArg (fun m : RecordMemory => m.banks.get b) h.memory)

theorem Closes.bankFlag (h : Closes after t.s (f t.s)) :
    (t.map f).write.settle.memory.bankFlag = t.s.memory.bankFlag :=
  (Turn.write_bankFlag (t.map f)).trans (congrArg RecordMemory.bankFlag h.memory)

theorem DirCloses.spillEntry (h : DirCloses after t.s (f t.s)) (i : Nat) :
    (t.map f).write.settle.spillEntry i = t.s.spillEntry i :=
  congrArg (cellRead none · i) ((Turn.write_spill (t.map f)).trans h.spill)

theorem DirCloses.way (h : DirCloses after t.s (f t.s)) (b : Nat) (w : Fin 4) :
    ((t.map f).s.bucket b).ways.get w = (t.s.bucket b).ways.get w :=
  congrArg (fun k : Four StoredWay => k.get w) (h.ways b)

theorem DirCloses.clean (h : DirCloses after t.s (f t.s)) (clean : t.waysClean) : (t.map f).waysClean := fun b w mem => by
  rw [h.way]
  exact clean b w mem

theorem DirCloses.values (h : DirCloses after t.s (f t.s)) (wf : Memory.wf t.s) (clean : t.waysClean) (b : Nat) :
    ((t.map f).write.settle.bucket b).values = (t.s.bucket b).values := by
  refine (Turn.write_values (h.wf wf) (h.clean clean) b).trans (Four.ext_get fun w => ?_)
  rw [Bucket.values_get, Bucket.values_get, h.way]

theorem DirCloses.bucketState (h : DirCloses after t.s (f t.s)) (wf : Memory.wf t.s) (b : Nat) :
    ((t.map f).write.settle.bucket b).state = after (t.s.bucket b).state :=
  (Turn.write_bucketState (t := t.map f) (h.wf wf) b).trans (h.state b)

theorem DirCloses.way_unarmed (h : DirCloses after t.s (f t.s)) (wf : Memory.wf t.s) {b : Nat}
    (other : t.s.integrity.armed.map (·.target) ≠ some (.bucket b)) (w : Fin 4) :
    ((t.map f).write.settle.bucket b).ways.get w = (t.s.bucket b).ways.get w := by
  have other' : (t.map f).s.integrity.armed.map (·.target) ≠ some (.bucket b) := by
    rw [show (t.map f).s.integrity = t.s.integrity from h.integrity]
    exact other
  exact (congrArg (fun k : Bucket => k.ways.get w) (Turn.write_bucket_of_unarmed (h.wf wf) other')).trans (h.way b w)

theorem DirCloses.ways_unwritten (h : DirCloses after t.s (f t.s)) (wf : Memory.wf t.s) {b : Nat}
    (unwritten : ∀ w, (b, w) ∉ t.ways) : ((t.map f).write.settle.bucket b).ways = (t.s.bucket b).ways :=
  (congrArg Bucket.ways (Turn.write_bucket_of_unwritten (t := t.map f) (h.wf wf) unwritten)).trans (h.ways b)

theorem DirCloses.dirCorrected (h : DirCloses after t.s (f t.s)) :
    (t.map f).write.settle.integrity.dirCorrected = t.s.integrity.dirCorrected :=
  (Turn.write_dirCorrected (t.map f)).trans (congrArg Integrity.dirCorrected h.integrity)

theorem DirCloses.armed (h : DirCloses after t.s (f t.s)) {slots buckets : List Nat} (bodies : ∀ x, x ∈ t.bodies ↔ x ∈ slots)
    (ways : ∀ b, (∃ w, (b, w) ∈ t.ways) ↔ b ∈ buckets) :
    (t.map f).write.settle.integrity.armed = t.s.armedLeft slots buckets := by
  refine (Turn.write_armed (t := t.map f) bodies ways).trans ?_
  rw [State.armedLeft, State.armedLeft, show (t.map f).s.integrity = t.s.integrity from h.integrity]

theorem DirCloses.errors (h : DirCloses after t.s (f t.s)) {s : State} {es : List ErrorPlace} {who : Requester}
    {minute : Option Nat} (errors : FeedsErrors s t.s es who minute) :
    FeedsErrors s (t.map f).write.settle es who minute := by
  have integrity : (t.map f).write.settle.integrity = { t.s.integrity with
      armed := (t.map f).write.settle.integrity.armed } := by
    rw [← h.integrity]
    exact congrArg State.integrity (t.map f).write_frame
  rw [FeedsErrors, integrity]
  exact errors

end

/-! ## A slot that has been re-inserted -/

section
variable {s : State} {t t' : Turn} {slot home : Nat} {kit : KitId} {f : State → State} {after : BucketState → BucketState}

theorem eq_of_mem_readWrites {s : State} {b : Nat} (mem : b ∈ s.readWrites (some home)) : b = home := by
  rw [State.readWrites, List.mem_filter] at mem
  exact (Option.some.inj (Option.mem_toList.1 mem.1)).symm

theorem eq_of_mem_entryWrites {s : State} {b : Nat} (mem : b ∈ s.entryWrites home) : b = home := by
  rw [State.entryWrites] at mem
  split at mem
  · exact List.mem_singleton.1 mem
  · exact eq_of_mem_readWrites mem

theorem State.dirCorrectedLeft_congr {s s' : State} (dir : s'.dir = s.dir)
    (counted : s'.integrity.dirCorrected = s.integrity.dirCorrected) (looked : Option Nat) :
    s'.dirCorrectedLeft looked = s.dirCorrectedLeft looked := by
  have bucket (b : Nat) : s'.bucket b = s.bucket b := congrArg (fun d : Directory => cellRead Bucket.cleared d.buckets b) dir
  simp only [State.dirCorrectedLeft, bucket, counted]

/-- A re-insertion by a turn that has found the directory of `s` as it was. -/
theorem Reinserted.reenters (h : Reinserted t slot kit home (t.s.placeFor home (t.s.bucket home).seen) t')
    (closes : DirCloses after t'.s (f t'.s)) (dir : t.s.dir = s.dir) (fresh : t.ways = [])
    (counted : t.s.integrity.dirCorrected = s.integrity.dirCorrected)
    (armed : t.s.integrity.armed = s.integrity.armed) {pass : BitVec 16} (passes : t.s.sweep.pass = pass) :
    Reenters s (t'.map f).write.settle slot kit home pass after := by
  have bucket (b : Nat) : t.s.bucket b = s.bucket b := congrArg (fun d : Directory => cellRead Bucket.cleared d.buckets b) dir
  have entry (i : Nat) : t.s.spillEntry i = s.spillEntry i := congrArg (fun d : Directory => cellRead none d.spill i) dir
  have clean : t'.waysClean := h.clean fun b w mem => by
    rw [fresh] at mem
    exact absurd mem List.not_mem_nil
  have location := (congrArg Tag.location (closes.tag slot)).trans h.location
  have values (w : Fin 4) := (congrArg (Four.get · w) (closes.values h.wf clean home)).trans (h.value w)
  have state (b : Nat) := (closes.bucketState h.wf b).trans (congrArg after (h.state b))
  have spill (i : Nat) := (closes.spillEntry i).trans (h.spill i)
  have dirCorrected := closes.dirCorrected.trans h.counted
  have armed' : t'.s.integrity.armed = s.integrity.armed := h.outside.2.2.2.2.2.2.trans armed
  rw [bucket] at values location
  simp only [passes, bucket, entry] at state spill
  refine ⟨fun w empty before => ?_, fun full i inRange empty before => ?_, fun full filled => ?_, fun b other => ⟨?_, ?_⟩,
    fun b w unarmed => ?_, ?_⟩
  · have place : t.s.placeFor home (s.bucket home).seen = _ := placeFor_way (lowestEmpty_eq_some_iff.2 ⟨empty, before⟩)
    rw [place] at location
    refine ⟨location, Four.ext_get fun v => ?_, ?_, fun i => ?_⟩
    · rw [values, place, Four.get_set]
      simp only [Location.way.injEq, true_and, eq_comm (a := w) (b := v)]
      rfl
    · rw [state, if_pos rfl, place, if_neg nofun]
      rfl
    · rw [spill, place, if_neg nofun]
  · have place : t.s.placeFor home (s.bucket home).seen = _ := placeFor_spill (lowestEmpty_eq_none_iff.2 full) inRange
      ((entry i).trans empty) fun j below => by
        rw [entry]
        exact before j below
    rw [place] at location
    refine ⟨location, Four.ext_get fun v => ?_, ?_, fun j => ?_⟩
    · rw [values, place, if_neg nofun]
      rfl
    · rw [state, if_pos rfl, place, if_neg nofun]
      rfl
    · rw [spill, place]
      simp only [Location.spill.injEq, eq_comm]
  · have place : t.s.placeFor home (s.bucket home).seen = _ := placeFor_nowhere (lowestEmpty_eq_none_iff.2 full)
      fun j below => by
        rw [entry]
        exact filled j below
    rw [place] at location
    refine ⟨location, Four.ext_get fun v => ?_, ?_, fun j => ?_⟩
    · rw [values, place, if_neg nofun]
      rfl
    · rw [state, if_pos rfl, place, if_pos rfl]
    · rw [spill, place, if_neg nofun]
  · refine (closes.ways_unwritten h.wf fun w mem => ?_).trans (congrArg Bucket.ways ((h.bucket_other other).trans (bucket b)))
    rcases (h.ways b).1 ⟨w, mem⟩ with ⟨v, old⟩ | written
    · rw [fresh] at old
      exact absurd old List.not_mem_nil
    · exact other (eq_of_mem_entryWrites written)
  · rw [state, if_neg other]
  · refine (closes.way_unarmed h.wf (armed' ▸ unarmed) w).trans ((h.way b w).trans ?_)
    rw [(congrArg Tag.location (closes.tag slot)).trans h.location, bucket]
    congr 1
    by_cases here : b = home
    · rw [if_pos here, if_pos here, here]
      rfl
    · rw [if_neg here, if_neg here, bucket]
  · exact dirCorrected.trans (State.dirCorrectedLeft_congr dir counted _)

end

end Sys2Proof.Machine
end

section
/-! PROOFS. The position of the sweep: the slots passed over, and the move past the slot visited (R139, R144). -/

namespace Sys2Proof.Machine

set_option Elab.async false

section
variable {s : State} {p : Nat}

/-- The state in which the sweep stands at slot `p`, reached from its position (R139 step 1, R144). -/
def State.visiting (s : State) (p : Nat) : State :=
  let wraps := p < s.sweep.position
  { s with
    dir := { s.dir with buckets := if wraps then s.endPass.dir.buckets else s.dir.buckets }
    sweep := { s.sweep with position := p, pass := if wraps then s.sweep.pass + 1 else s.sweep.pass } }

theorem State.visiting_of_wraps (wraps : p < s.sweep.position) :
    s.visiting p = { s.endPass with sweep := { s.endPass.sweep with position := p } } := by
  unfold State.visiting
  simp only [wraps, if_true]
  rfl

theorem State.visiting_of_ahead (ahead : ¬p < s.sweep.position) :
    s.visiting p = { s with sweep := { s.sweep with position := p } } := by
  unfold State.visiting
  simp only [ahead, if_false]

theorem State.visiting_position (s : State) : s.visiting s.sweep.position = s := by
  rw [State.visiting_of_ahead (lt_irrefl _)]

/-- A slot before the first one in use is passed over without another effect on where the sweep stands. -/
theorem State.movePosition_visiting (inRange : s.sweep.position < 4096) (further : p ≠ s.sweep.position) (slot : p < 4096) :
    s.movePosition.visiting p = s.visiting p := by
  have slots : Config.slots = 4096 := rfl
  rw [State.movePosition, slots]
  dsimp only
  split
  · next wraps =>
    rw [State.visiting_of_wraps (s := s) (by omega)]
    refine (State.visiting_of_ahead fun below : p < (s.sweep.position + 1) % 4096 => ?_).trans rfl
    omega
  · next stays =>
    have next : (s.sweep.position + 1) % 4096 = s.sweep.position + 1 := by omega
    by_cases wraps : p < s.sweep.position
    · rw [State.visiting_of_wraps wraps]
      refine (State.visiting_of_wraps (?_ : p < (s.sweep.position + 1) % 4096)).trans rfl
      omega
    · rw [State.visiting_of_ahead wraps]
      refine (State.visiting_of_ahead fun below : p < (s.sweep.position + 1) % 4096 => ?_).trans rfl
      omega

/-- The position of a slot out of use is left for the next. -/
theorem State.movePosition_firstFrom {q : Nat → Prop} (inRange : s.sweep.position < 4096) (first : FirstFrom s.sweep.position q p)
    (further : ¬q s.sweep.position) : FirstFrom s.movePosition.sweep.position q p
      ∧ s.movePosition.sweep.position < 4096 ∧ p ≠ s.sweep.position
      ∧ (p + 4096 - s.movePosition.sweep.position) % 4096 + 1 = (p + 4096 - s.sweep.position) % 4096 := by
  have slots : Config.slots = 4096 := rfl
  have position : s.movePosition.sweep.position = (s.sweep.position + 1) % 4096 := by
    rw [State.movePosition]
    dsimp only
    split <;> rfl
  obtain ⟨slot, holds, least⟩ := first
  have other : p ≠ s.sweep.position := fun same => further (same ▸ holds)
  rw [position]
  refine ⟨⟨slot, holds, fun y inRange' holdsY => ?_⟩, Nat.mod_lt _ (by decide), other, by omega⟩
  have least := least y inRange' holdsY
  have otherY : y ≠ s.sweep.position := fun same => further (same ▸ holdsY)
  omega

theorem State.movePosition_bank (s : State) (b : Fin 4) : s.movePosition.bank b = s.bank b := by
  rw [State.movePosition]
  dsimp only
  split <;> rfl

/-- Passing over at most `n` slots reaches the first slot in use, when it lies that near (R139 step 1). -/
theorem State.passOver_eq (n : Nat) : ∀ s : State, s.sweep.position < 4096 →
    FirstFrom s.sweep.position (fun x => (s.bank (bankIndex x)).inUse = true) p →
    (p + 4096 - s.sweep.position) % 4096 < n → s.passOver n = s.visiting p := by
  induction n with
  | zero => exact fun s _ _ near => absurd near (Nat.not_lt_zero _)
  | succ n ih =>
    intro s inRange first near
    rw [State.passOver, State.positionInUse]
    split
    · next here =>
      have nearest := first.2.2 s.sweep.position inRange here
      have slot := first.1
      have same : p = s.sweep.position := by omega
      rw [same, State.visiting_position]
    · next unused =>
      obtain ⟨first', inRange', further, nearer⟩ := State.movePosition_firstFrom inRange first unused
      rw [ih s.movePosition inRange' ?_ (by omega), State.movePosition_visiting inRange further first.1]
      simp only [State.movePosition_bank]
      exact first'

/-- Of the four slots from the position one lies in each bank. -/
theorem firstFrom_bank_near {start : Nat} {q : Fin 4 → Prop} (inRange : start < 4096)
    (first : FirstFrom start (fun x => q (bankIndex x)) p) : (p + 4096 - start) % 4096 < 4 := by
  obtain ⟨slot, holds, least⟩ := first
  by_contra far
  have bank : bankIndex ((start + (p + 4096 - start) % 4096 % 4) % 4096) = bankIndex p := Fin.ext (by
    show (start + (p + 4096 - start) % 4096 % 4) % 4096 % 4 = p % 4
    omega)
  have nearer := least _ (Nat.mod_lt _ (by decide)) (bank.symm ▸ holds)
  omega

theorem State.passOver_four (inRange : s.sweep.position < 4096)
    (first : FirstFrom s.sweep.position (fun x => (s.bank (bankIndex x)).inUse = true) p) :
    s.passOver 4 = s.visiting p :=
  State.passOver_eq 4 s inRange first
    (firstFrom_bank_near (q := fun b => (s.bank b).inUse = true) inRange first)

theorem State.visiting_wf (wf : Memory.wf s) (p : Nat) : Memory.wf (s.visiting p) := by
  obtain ⟨bodies, tags, buckets, spill, rest⟩ := wf
  refine ⟨bodies, tags, ?_, spill, rest⟩
  unfold State.visiting
  dsimp only
  split
  · exact ((Machine.endPass_keeps s).wf ⟨bodies, tags, buckets, spill, rest⟩).2.2.1
  · exact buckets

/-- The directory in which the sweep visits `p`: that of the pass then current (R144). -/
theorem State.visiting_dir (s : State) (p : Nat) :
    (s.visiting p).dir = (if p < s.sweep.position then s.endPass else s).dir := by
  unfold State.visiting
  dsimp only
  split <;> rfl

theorem State.visiting_bucket (wf : Memory.wf s) (p d : Nat) : ((s.visiting p).bucket d).ways = (s.bucket d).ways
    ∧ ((s.visiting p).bucket d).state =
      if p < s.sweep.position then (s.bucket d).state.passed s.sweep.pass else (s.bucket d).state := by
  have dir := congrArg (fun x : Directory => cellRead Bucket.cleared x.buckets d) (s.visiting_dir p)
  have bucket : (s.visiting p).bucket d = (if p < s.sweep.position then s.endPass else s).bucket d := dir
  rw [bucket]
  split
  · rw [State.bucket_endPass wf.2.2.1, Bucket.endPass_eq]
    exact ⟨rfl, rfl⟩
  · exact ⟨rfl, rfl⟩

end

/-! ## The move past the slot visited -/

/-- The end of a visit to slot `p` (R139, R144). -/
def State.leavesSlot (s : State) : State := s.spendCredit.movePosition

section
variable {a : State} {p : Nat}

theorem State.leavesSlot_sweep (here : a.sweep.position = p) : a.leavesSlot.sweep = { a.sweep with
    credits := a.sweep.credits - 1, position := (p + 1) % 4096
    pass := if (p + 1) % 4096 = 0 then a.sweep.pass + 1 else a.sweep.pass } := by
  have slots : Config.slots = 4096 := rfl
  have position : a.spendCredit.sweep.position = p := here
  rw [State.leavesSlot, State.movePosition, position, slots]
  dsimp only
  by_cases last : (p + 1) % 4096 = 0
  · rw [if_pos last, if_pos last]
    rfl
  · rw [if_neg last, if_neg last]
    rfl

theorem State.leavesSlot_closes (here : a.sweep.position = p) (wf : Memory.wf a) :
    Closes (if (p + 1) % 4096 = 0 then BucketState.passed a.sweep.pass else id) a a.leavesSlot := by
  have slots : Config.slots = 4096 := rfl
  have position : a.spendCredit.sweep.position = p := here
  have wf' : Memory.wf a → Memory.wf a.leavesSlot := ((Machine.spendCredit_keeps a).trans (movePosition_keeps _)).wf
  by_cases last : (p + 1) % 4096 = 0
  · have ends : a.leavesSlot =
        { a.spendCredit with sweep := { a.spendCredit.sweep with position := (p + 1) % 4096 } }.endPass := by
      rw [State.leavesSlot, State.movePosition, position, slots]
      exact if_pos last
    have bucket (d : Nat) : a.leavesSlot.bucket d = (a.bucket d).endPass a.sweep.pass := by
      rw [ends]
      exact State.bucket_endPass wf.2.2.1 d
    rw [if_pos last]
    refine .of_memory (by rw [ends]; rfl) (by rw [ends]; rfl) (by rw [ends]; rfl) (fun d => ?_) (fun d => ?_) wf'
    · rw [bucket, Bucket.endPass_eq]
    · rw [bucket, Bucket.endPass_eq]
      rfl
  · have moves : a.leavesSlot =
        { a.spendCredit with sweep := { a.spendCredit.sweep with position := (p + 1) % 4096 } } := by
      rw [State.leavesSlot, State.movePosition, position, slots]
      exact if_neg last
    rw [if_neg last]
    exact .of_dir (by rw [moves]; rfl) (by rw [moves]; rfl) (by rw [moves]; rfl) wf'

theorem State.leavesSlot_outside (a : State) : a.leavesSlot.engine = a.engine ∧ a.leavesSlot.link = a.link
    ∧ a.leavesSlot.port = a.port := by
  rw [State.leavesSlot, State.movePosition]
  dsimp only
  split <;> exact ⟨rfl, rfl, rfl⟩

end

/-- The sweep turn, from the slot it visits (R139). -/
theorem exec_sweepVisit_at {s : State} {p : Nat} (granted : s.arbiter = some .sweep)
    (passed : (s.begins .sweep).passOver 4 = (s.begins .sweep).visiting p) (inUse : (s.bank (bankIndex p)).inUse = true) :
    exec .sweepVisit s =
      .next (((Turn.start .sweep ((s.begins .sweep).visiting p)).visit p).map State.leavesSlot).write.settle := by
  rw [exec_sweepVisit granted, State.turn, workSweepVisit]
  have start : (Turn.start .sweep (s.begins .sweep)).map (State.passOver 4) = Turn.start .sweep ((s.begins .sweep).visiting p) :=
    congrArg (Turn.start .sweep) passed
  rw [start]
  rw [if_pos (show (Turn.start .sweep ((s.begins .sweep).visiting p)).s.positionInUse = true from inUse)]
  rfl

end Sys2Proof.Machine
end

section
/-! PROOFS. The sweep's visit to a live slot (R141 to R143). -/

namespace Sys2Proof.Machine

set_option Elab.async false

/-! ## What a visit leaves before its write -/

/-- A visit to slot `p` of the state `u` has left `tag` in it but for its location, and `r` with this access to the body;
the bucket `wiped`, if any, is wiped, and ways of the buckets `written` are written (R141 to R143). -/
structure Visited (u : State) (t : Turn) (p : Nat) (tag : Tag) (r : Record) (access : BodyAccess) (wiped : Option Nat)
    (written : List Nat) : Prop where
  wf : Memory.wf t.s
  link : t.s.link = u.link
  port : t.s.port = u.port
  sweep : t.s.sweep = u.sweep
  tag : t.s.tag p = { tag with location := (t.s.tag p).location }
  others : ∀ x, x ≠ p → t.s.tag x = (u.tag x).without wiped ∧ t.s.body x = u.body x
  body : t.s.body p = if u.writesBody p access then ⟨r, r, []⟩ else u.body p
  bodies : ∀ x, x ∈ t.bodies ↔ x ∈ (if u.writesBody p access then [p] else [])
  counts : CountsFollow u t.s p
  banks : BanksFollow u t.s p
  corrected : (t.s.bank (bankIndex p)).corrected = u.correctedLeft p access
  errors : FeedsErrors u t.s ((if access = .untouched then [] else u.errorsAt p) ++ (wiped.map .directory).toList) .sweep u.now
  armed : t.s.integrity.armed = u.integrity.armed
  ways : ∀ b, (∃ w, (b, w) ∈ t.ways) ↔ b ∈ written

/-- The counts do not follow a location. -/
theorem CountsFollow.relocated {a b c : State} {slot : Nat} {loc : Location} (h : CountsFollow a b slot)
    (tag : c.tag slot = { b.tag slot with location := loc }) (engine : c.engine = b.engine) : CountsFollow a c slot := by
  dsimp only [CountsFollow]
  rw [tag, engine]
  exact h

theorem BanksFollow.relocated {a b c : State} {slot : Nat} {loc : Location} (h : BanksFollow a b slot)
    (tag : c.tag slot = { b.tag slot with location := loc }) (bank : ∀ x, c.bank x = b.bank x)
    (flag : c.memory.bankFlag = b.memory.bankFlag) : BanksFollow a c slot := by
  obtain ⟨othersb, stateb, freeb, flagb⟩ := h
  refine ⟨fun x other => (bank x).trans (othersb x other), (congrArg Bank.state (bank _)).trans stateb, ?_, flag.trans flagb⟩
  rw [bank, freeb, tag]

section
variable {u : State} {t t' : Turn} {p : Nat} {tag : Tag} {r : Record} {access : BodyAccess}

theorem OnSlot.visited (h : OnSlot u t .sweep p tag r access) (fresh : t.ways = []) : Visited u t p tag r access none [] := by
  obtain ⟨link, port, _, _, sweep⟩ := h.frame.outside
  refine ⟨h.wf, link, port, sweep, by rw [h.tag], fun x other => ?_, h.body, h.bodies, h.counts, h.banks, h.corrected, ?_,
    h.armed, fun b => ?_⟩
  · rw [Tag.without_none]
    exact h.others x other
  · rw [Option.map_none, Option.toList_none, List.append_nil]
    exact h.errors
  · rw [fresh]
    exact ⟨fun ⟨_, mem⟩ => absurd mem List.not_mem_nil, fun mem => absurd mem List.not_mem_nil⟩

theorem State.wipedBy_congr {s s' : State} {home : Nat} (ways : (s'.bucket home).ways = (s.bucket home).ways) :
    s'.wipedBy home = s.wipedBy home := by
  have broken : (s'.bucket home).broken = (s.bucket home).broken := by rw [Bucket.broken, ways]; rfl
  rw [State.wipedBy, broken]
  rfl

theorem State.entryWrites_congr {s s' : State} {home : Nat} (ways : (s'.bucket home).ways = (s.bucket home).ways) :
    s'.entryWrites home = s.entryWrites home := by
  have broken : (s'.bucket home).broken = (s.bucket home).broken := by rw [Bucket.broken, ways]; rfl
  have values : (s'.bucket home).values = (s.bucket home).values := by rw [Bucket.values, ways]; rfl
  have corrections : (s'.bucket home).corrections = (s.bucket home).corrections := by rw [Bucket.corrections, ways]; rfl
  rw [State.entryWrites, State.entryWrites, values, State.readWrites, State.readWrites, Option.toList_some,
    List.filter_singleton, List.filter_singleton, broken, corrections]

theorem OnSlot.visited_reinserted {kit : KitId} {home : Nat} {loc : Location} (h : OnSlot u t .sweep p tag r access)
    (fresh : t.ways = []) (dir : t.s.dir = u.dir) (re : Reinserted t p kit home loc t') :
    Visited u t' p tag r access (u.wipedBy home) (u.entryWrites home) := by
  have ways : (t.s.bucket home).ways = (u.bucket home).ways :=
    congrArg (fun d : Directory => (cellRead Bucket.cleared d.buckets home).ways) dir
  obtain ⟨link, port, _, _, sweep⟩ := h.frame.outside
  obtain ⟨engine, link', port', sweep', _, _, armed⟩ := re.outside
  have tag' : t'.s.tag p = { t.s.tag p with location := loc } := (re.tag p).trans (if_pos rfl)
  have wiped := State.wipedBy_congr ways
  refine ⟨re.wf, link'.trans link, port'.trans port, sweep'.trans sweep, ?_, fun x other => ⟨?_, ?_⟩, ?_, fun x => ?_,
    h.counts.relocated tag' engine, h.banks.relocated tag' re.bank.1 re.bank.2, ?_, ?_, armed.trans h.armed, fun b => ?_⟩
  · rw [tag', h.tag]
  · rw [re.tag, if_neg other, (h.others x other).1, wiped]
  · rw [re.body]
    exact (h.others x other).2
  · rw [re.body]
    exact h.body
  · rw [re.bodies]
    exact h.bodies x
  · rw [re.bank.1]
    exact h.corrected
  · have errors := re.errors
    rw [wiped, h.whose, h.now] at errors
    exact h.errors.append errors
  · refine (re.ways b).trans ?_
    rw [fresh, State.entryWrites_congr ways]
    exact ⟨fun mem => mem.resolve_left fun ⟨_, mem⟩ => absurd mem List.not_mem_nil, .inr⟩

end

/-! ## The visit -/

section
variable {u : State} {t : Turn} {p : Nat}

theorem Turn.visit_free (free : (t.s.tag p).lifecycle = .free) : t.visit p = t.scrub p := if_pos free

theorem Turn.visit_damaged (live : (t.s.tag p).lifecycle ≠ .free) (damaged : (t.s.tag p).damaged = true) :
    t.visit p = t := (if_neg live).trans (if_pos damaged)

theorem Turn.visit_undamaged (live : (t.s.tag p).lifecycle ≠ .free) (undamaged : ¬(t.s.tag p).damaged = true) :
    t.visit p = if ((t.readLive p true).1.s.tag p).damaged then (t.readLive p true).1
      else ((t.readLive p true).1.evaluate p (t.readLive p true).2).reinsert p (t.readLive p true).2.kit
        (homeBucket (t.readLive p true).2.kit) := by
  rw [Turn.visit, if_neg live, Turn.visitLive, if_neg undamaged]

/-- The record of a slot as the evaluation of a visit leaves it (R142). -/
def State.evaluated (u : State) (p : Nat) : Record :=
  match u.now with
  | none => u.reading p
  | some now => visitedRecord (u.tag p).lifecycle (u.reading p) (u.tariffClass (u.reading p).cls) now

/-- The tag of a slot that a visit has read and evaluated, before its re-insertion (R142). -/
def State.tagVisited (u : State) (p : Nat) : Tag :=
  { u.tagRead p with
    marked := if u.evaluated p = u.reading p then (u.tagRead p).marked else (u.evaluated p).marks.any }

/-- The access of a visit to the body of a live, undamaged slot: written when the evaluation changed it (R142). -/
def State.accessVisited (u : State) (p : Nat) : BodyAccess :=
  if u.evaluated p = u.reading p then .read else .written

theorem ReadOn.evaluates (h : ReadOn u t .sweep p none) :
    OnSlot u (t.evaluate p (u.reading p)) .sweep p (u.tagVisited p) (u.evaluated p) (u.accessVisited p)
      ∧ (t.evaluate p (u.reading p)).s.dir = t.s.dir ∧ (t.evaluate p (u.reading p)).ways = t.ways
      ∧ (t.evaluate p (u.reading p)).s.integrity = t.s.integrity := by
  have lifecycle : (t.s.tag p).lifecycle = (u.tag p).lifecycle := (congrArg Tag.lifecycle h.on.tag).trans rfl
  have tag_of (same : u.evaluated p = u.reading p) : u.tagVisited p = u.tagRead p := by
    rw [State.tagVisited, if_pos same]
  rw [Turn.evaluate, h.now]
  cases clock : u.now with
  | none =>
    have same : u.evaluated p = u.reading p := by rw [State.evaluated, clock]
    rw [tag_of same, State.accessVisited, if_pos same, same]
    exact ⟨h.on, rfl, rfl, rfl⟩
  | some now =>
    have record : u.evaluated p = visitedRecord (u.tag p).lifecycle (u.reading p) (u.tariffClass (u.reading p).cls) now := by
      rw [State.evaluated, clock]
    dsimp only
    rw [h.tariffClass, lifecycle, ← record]
    by_cases same : u.evaluated p = u.reading p
    · rw [if_pos same, tag_of same, State.accessVisited, if_pos same, same]
      exact ⟨h.on, rfl, rfl, rfl⟩
    · rw [if_neg same, State.accessVisited, if_neg same, State.tagVisited, if_neg same]
      exact ⟨h.on.putRecord _ _, rfl, rfl, rfl⟩

theorem Turn.start_readOn (wf : Memory.wf u) (p : Nat) : ((Turn.start .sweep u).readLive p true).2 = u.reading p
    ∧ ReadOn u ((Turn.start .sweep u).readLive p true).1 .sweep p none := (Looked.start wf .sweep).readOn p

/-- A turn has left the directory alone so far. -/
structure Undirected (u : State) (t : Turn) : Prop where
  dir : t.s.dir = u.dir
  ways : t.ways = []
  counted : t.s.integrity.dirCorrected = u.integrity.dirCorrected

theorem Turn.readLive_undirected (u : State) (p : Nat) : Undirected u ((Turn.start .sweep u).readLive p true).1 :=
  have ⟨dir, counted, ways⟩ := (Turn.start .sweep u).readLive_dir p true
  ⟨dir, ways, counted⟩

/-- The visit to a live slot whose read finds it uncorrectable evaluates nothing (R141). -/
theorem Turn.visit_newlyDamaged (wf : Memory.wf u) (live : (u.tag p).lifecycle ≠ .free) (damages : u.newlyDamaged p = true) :
    ReadOn u ((Turn.start .sweep u).visit p) .sweep p none ∧ Undirected u ((Turn.start .sweep u).visit p) := by
  obtain ⟨_, on⟩ := Turn.start_readOn wf p
  have undamaged : ¬(u.tag p).damaged = true := fun damaged => by
    rw [State.newlyDamaged, damaged] at damages
    cases damages
  have tag : ((Turn.start .sweep u).readLive p true).1.s.tag p = u.tagRead p := on.on.tag
  have found : (((Turn.start .sweep u).readLive p true).1.s.tag p).damaged = true := by
    rw [tag, State.tagRead_of_newlyDamaged damages]
  have visit : (Turn.start .sweep u).visit p = ((Turn.start .sweep u).readLive p true).1 :=
    (Turn.visit_undamaged live undamaged).trans (if_pos found)
  rw [visit]
  exact ⟨on, Turn.readLive_undirected u p⟩

/-- The visit to a live slot that can be read evaluates it and re-inserts it when it has no location (R141 to R143). -/
theorem Turn.visit_readable (wf : Memory.wf u) (live : (u.tag p).lifecycle ≠ .free) (undamaged : (u.tagRead p).damaged = false) :
    ∃ t, ReadOn u t .sweep p none ∧ Undirected u t ∧ (Turn.start .sweep u).visit p =
      (t.evaluate p (u.reading p)).reinsert p (u.reading p).kit (homeBucket (u.reading p).kit) := by
  obtain ⟨record, on⟩ := Turn.start_readOn wf p
  have before : ¬(u.tag p).damaged = true := fun damaged => by
    rw [State.tagRead, damaged] at undamaged
    cases undamaged
  have tag : ((Turn.start .sweep u).readLive p true).1.s.tag p = u.tagRead p := on.on.tag
  have after : ¬(((Turn.start .sweep u).readLive p true).1.s.tag p).damaged = true := by
    rw [tag, undamaged]
    exact Bool.false_ne_true
  refine ⟨_, on, Turn.readLive_undirected u p, ?_⟩
  rw [Turn.visit_undamaged live before, if_neg after, record]

end

end Sys2Proof.Machine
end

section
/-! PROOFS. The whole sweep turn on a live slot (R139 to R144). -/

namespace Sys2Proof.Machine

set_option Elab.async false

/-! ## The turn's end -/

/-- What a sweep turn leaves once its write is made, but for the directory (R139 to R143). -/
structure SweepEnds (u v : State) (p : Nat) (tag : Tag) (r : Record) (access : BodyAccess) (wiped : Option Nat)
    (written : List Nat) : Prop where
  link : v.link = u.link
  port : v.port = u.port
  sweep : v.sweep = { u.sweep with
    credits := u.sweep.credits - 1, position := (p + 1) % 4096
    pass := if (p + 1) % 4096 = 0 then u.sweep.pass + 1 else u.sweep.pass }
  tag : v.tag p = { tag with location := (v.tag p).location }
  others : ∀ x, x ≠ p → v.tag x = (u.tag x).without wiped ∧ v.body x = u.body x
  body : v.body p = u.bodyLeft p access r
  counts : CountsFollow u v p
  banks : BanksFollow u v p
  corrected : (v.bank (bankIndex p)).corrected = u.correctedLeft p access
  errors : FeedsErrors u v ((if access = .untouched then [] else u.errorsAt p) ++ (wiped.map .directory).toList) .sweep u.now
  armed : v.integrity.armed = u.armedLeft (if u.writesBody p access then [p] else []) written

section
variable {u : State} {t : Turn} {p : Nat} {tag : Tag} {r : Record} {access : BodyAccess} {wiped : Option Nat}
  {written : List Nat}

theorem Visited.closes (h : Visited u t p tag r access wiped written) (here : u.sweep.position = p) :
    Closes (if (p + 1) % 4096 = 0 then BucketState.passed u.sweep.pass else id) t.s t.s.leavesSlot := by
  rw [← h.sweep] at here ⊢
  exact State.leavesSlot_closes here h.wf

theorem leavesSlot_settled (t : Turn) : (t.map State.leavesSlot).write.settle.link = t.s.link
    ∧ (t.map State.leavesSlot).write.settle.port = t.s.port
    ∧ (t.map State.leavesSlot).write.settle.engine = { t.s.engine with
        waits := (t.map State.leavesSlot).write.settle.engine.waits
        begun := (t.map State.leavesSlot).write.settle.engine.begun } := by
  obtain ⟨engine, link, port⟩ := t.s.leavesSlot_outside
  refine ⟨(Turn.write_link _).trans link, (Turn.write_port _).trans port, ?_⟩
  rw [State.settle_engine, Turn.write_engine, show (t.map State.leavesSlot).s.engine = t.s.engine from engine]

theorem Visited.ends (h : Visited u t p tag r access wiped written) (here : u.sweep.position = p) :
    SweepEnds u (t.map State.leavesSlot).write.settle p tag r access wiped written := by
  have closes := h.closes here
  have wf := closes.wf h.wf
  have armed : (t.map State.leavesSlot).s.integrity.armed = u.integrity.armed :=
    (congrArg Integrity.armed closes.integrity).trans h.armed
  obtain ⟨link, port, engine⟩ := leavesSlot_settled t
  refine ⟨link.trans h.link, port.trans h.port, ?_, ?_, fun x other => ⟨?_, ?_⟩, ?_, ?_, ?_, ?_, ?_, ?_⟩
  · refine (Turn.write_sweep (t.map State.leavesSlot)).trans ?_
    rw [← h.sweep] at here ⊢
    exact State.leavesSlot_sweep here
  · rw [closes.tag]
    exact h.tag
  · rw [closes.tag]
    exact (h.others x other).1
  · refine (Turn.write_body_other (t := t.map State.leavesSlot) wf fun mem => ?_).trans
      ((closes.body x).trans (h.others x other).2)
    have mem := (h.bodies x).1 mem
    split at mem
    · exact other (List.mem_singleton.1 mem)
    · exact absurd mem List.not_mem_nil
  · have body := h.body
    have carried : p ∈ (t.map State.leavesSlot).bodies ↔ p ∈ (if u.writesBody p access then [p] else []) := h.bodies p
    rw [State.bodyLeft]
    split at body
    · next writes =>
      rw [if_pos writes] at carried ⊢
      refine (Turn.write_body_carried wf (carried.2 List.mem_cons_self) ((closes.body p).trans body)).trans ?_
      rw [State.bodyWritten, armed]
      rfl
    · next writes =>
      rw [if_neg writes] at carried ⊢
      exact (Turn.write_body_other wf fun mem => absurd (carried.1 mem) List.not_mem_nil).trans ((closes.body p).trans body)
  · refine h.counts.congr (closes.tag p) ?_
    rw [engine]
    exact ⟨rfl, rfl, rfl, rfl, rfl, rfl⟩
  · exact h.banks.congr (closes.tag p) (fun x _ => closes.bank x) (congrArg Bank.state (closes.bank _))
      (congrArg Bank.free (closes.bank _)) closes.bankFlag
  · rw [closes.bank]
    exact h.corrected
  · exact closes.errors h.errors
  · refine (closes.armed h.bodies h.ways).trans ?_
    rw [State.armedLeft, h.armed]
    rfl

end

/-! ## The state it begins on, and the one it leaves -/

section
variable {s v : State} {p : Nat}

/-- The state on which the sweep's visit to slot `p` begins. -/
abbrev State.sweepBegins (s : State) (p : Nat) : State := (s.begins .sweep).visiting p

theorem State.sweepBegins_dir (s : State) (p : Nat) :
    (s.sweepBegins p).dir = (if p < s.sweep.position then s.endPass else s).dir := by
  refine ((s.begins .sweep).visiting_dir p).trans ?_
  show (if p < s.sweep.position then (s.begins .sweep).endPass else s.begins .sweep).dir = _
  split <;> rfl

theorem State.sweepBegins_ways (wf : Memory.wf s) (p d : Nat) : ((s.sweepBegins p).bucket d).ways = (s.bucket d).ways :=
  (State.visiting_bucket (s := s.begins .sweep) wf p d).1

theorem sweepTurn_keeps (granted : s.arbiter = some .sweep) (exec' : exec .sweepVisit s = .next v) : KeepsSurroundings s v := by
  have keeps := (turn_keeps s .sweep workSweepVisit (workSweepVisit_keeps (Turn.start .sweep _))).surroundings
  rw [exec_sweepVisit granted] at exec'
  cases exec'
  exact keeps

/-- The sweep turn as a visit, with what the turn leaves of the units a visit does not touch. -/
theorem sweepTurn_visits (wf : Memory.wf s) (granted : s.arbiter = some .sweep)
    (passed : (s.begins .sweep).passOver 4 = (s.begins .sweep).visiting p) (inUse : (s.bank (bankIndex p)).inUse = true) :
    Memory.wf (s.sweepBegins p) ∧ (s.sweepBegins p).sweep.position = p ∧ ∃ v, exec .sweepVisit s = .next v
      ∧ v = (((Turn.start .sweep (s.sweepBegins p)).visit p).map State.leavesSlot).write.settle ∧ KeepsSurroundings s v :=
  ⟨State.visiting_wf (s := s.begins .sweep) wf p, rfl, _, exec_sweepVisit_at granted passed inUse, rfl,
    sweepTurn_keeps granted (exec_sweepVisit_at granted passed inUse)⟩

/-- The position, the pass and the credits after a sweep turn at slot `p`. -/
theorem sweepMoves_of (swept : v.sweep = { (s.sweepBegins p).sweep with
      credits := s.sweep.credits - 1, position := (p + 1) % 4096
      pass := if (p + 1) % 4096 = 0 then (s.sweepBegins p).sweep.pass + 1 else (s.sweepBegins p).sweep.pass })
    (inRange : s.sweep.position < 4096) (slot : p < 4096) : SweepMoves s v p := by
  refine ⟨(congrArg SweepUnit.rate swept).trans rfl, congrArg SweepUnit.credits swept, congrArg SweepUnit.position swept,
    (congrArg SweepUnit.pass swept).trans ?_⟩
  show (if (p + 1) % 4096 = 0 then (if p < s.sweep.position then s.sweep.pass + 1 else s.sweep.pass) + 1
    else (if p < s.sweep.position then s.sweep.pass + 1 else s.sweep.pass)) = _
  by_cases last : p = 4095
  · rw [if_pos (by omega), if_neg (by omega), if_pos (.inr last)]
  · rw [if_neg (by omega)]
    simp only [last, or_false]

theorem SweepEnds.moves {tag : Tag} {r : Record} {access : BodyAccess} {wiped : Option Nat} {written : List Nat}
    (h : SweepEnds (s.sweepBegins p) v p tag r access wiped written) (inRange : s.sweep.position < 4096)
    (slot : p < 4096) : SweepMoves s v p := sweepMoves_of (h.sweep.trans rfl) inRange slot

end

end Sys2Proof.Machine
end

section
/-! PROOFS. The sweep turn on a live slot that can be read, and on one found uncorrectable (R141 to R143, R149). -/

namespace Sys2Proof.Machine

set_option Elab.async false

section
variable {u : State} {p : Nat}

/-- The visit to a live slot that can be read: its evaluation, then its re-insertion when it has no location. -/
theorem Turn.visit_evaluates (wf : Memory.wf u) (live : (u.tag p).lifecycle ≠ .free)
    (undamaged : (u.tagRead p).damaged = false) :
    ∃ t, OnSlot u t .sweep p (u.tagVisited p) (u.evaluated p) (u.accessVisited p) ∧ Undirected u t
      ∧ (Turn.start .sweep u).visit p = t.reinsert p (u.reading p).kit (homeBucket (u.reading p).kit) := by
  obtain ⟨t, on, ⟨dir, ways, counted⟩, visit⟩ := Turn.visit_readable wf live undamaged
  obtain ⟨on', dir', ways', integrity⟩ := on.evaluates
  exact ⟨_, on', ⟨dir'.trans dir, ways'.trans ways, (congrArg Integrity.dirCorrected integrity).trans counted⟩, visit⟩

theorem State.tagVisited_location (u : State) (p : Nat) : (u.tagVisited p).location = (u.tag p).location := rfl

/-- The visit to a live slot that can be read and has a location writes no entry (R143). -/
theorem Turn.visit_entered (wf : Memory.wf u) (live : (u.tag p).lifecycle ≠ .free)
    (undamaged : (u.tagRead p).damaged = false) (entered : (u.tag p).location ≠ .nowhere) :
    OnSlot u ((Turn.start .sweep u).visit p) .sweep p (u.tagVisited p) (u.evaluated p) (u.accessVisited p)
      ∧ Undirected u ((Turn.start .sweep u).visit p) := by
  obtain ⟨t, on, un, visit⟩ := Turn.visit_evaluates wf live undamaged
  have stays : ¬(t.s.tag p).location = .nowhere := by
    rw [on.tag]
    exact entered
  rw [visit, Turn.reinsert, if_neg stays]
  exact ⟨on, un⟩

/-- The visit to a live slot that can be read and has no location re-inserts it (R143). -/
theorem Turn.visit_reinserts (wf : Memory.wf u) (live : (u.tag p).lifecycle ≠ .free)
    (undamaged : (u.tagRead p).damaged = false) (nowhere : (u.tag p).location = .nowhere) :
    ∃ t, OnSlot u t .sweep p (u.tagVisited p) (u.evaluated p) (u.accessVisited p) ∧ Undirected u t
      ∧ Reinserted t p (u.reading p).kit (homeBucket (u.reading p).kit)
          (t.s.placeFor (homeBucket (u.reading p).kit) (t.s.bucket (homeBucket (u.reading p).kit)).seen)
          ((Turn.start .sweep u).visit p) := by
  obtain ⟨t, on, un, visit⟩ := Turn.visit_evaluates wf live undamaged
  refine ⟨t, on, un, ?_⟩
  rw [visit]
  exact Turn.reinsert_reinserted on.wf (by rw [on.tag]; exact nowhere)

/-- The bucket that a visit wipes (R143). -/
def State.visitWipes (u : State) (p : Nat) : Option Nat :=
  if (u.tag p).location = .nowhere then u.wipedBy (homeBucket (u.reading p).kit) else none

/-- The buckets whose ways a visit writes (R143). -/
def State.visitWrites (u : State) (p : Nat) : List Nat :=
  if (u.tag p).location = .nowhere then u.entryWrites (homeBucket (u.reading p).kit) else []

theorem Turn.visit_visited (wf : Memory.wf u) (live : (u.tag p).lifecycle ≠ .free)
    (undamaged : (u.tagRead p).damaged = false) :
    Visited u ((Turn.start .sweep u).visit p) p (u.tagVisited p) (u.evaluated p) (u.accessVisited p) (u.visitWipes p)
      (u.visitWrites p) := by
  by_cases nowhere : (u.tag p).location = .nowhere
  · obtain ⟨t, on, un, re⟩ := Turn.visit_reinserts wf live undamaged nowhere
    rw [State.visitWipes, State.visitWrites, if_pos nowhere, if_pos nowhere]
    exact on.visited_reinserted un.ways un.dir re
  · obtain ⟨on, un⟩ := Turn.visit_entered wf live undamaged nowhere
    rw [State.visitWipes, State.visitWrites, if_neg nowhere, if_neg nowhere]
    exact on.visited un.ways

theorem State.accessVisited_touched (u : State) (p : Nat) : u.accessVisited p ≠ .untouched := by
  rw [State.accessVisited]
  split <;> exact nofun

theorem State.correctedLeft_accessVisited (u : State) (p : Nat) :
    u.correctedLeft p (u.accessVisited p) = u.correctedLeft p .read := by
  rw [State.accessVisited]
  split
  · rfl
  · exact State.correctedLeft_written u p

end

/-- The end of a pass at slot 4,095, which lies ahead of the position (R144). -/
theorem passed_of_last {s : State} {p : Nat} (inRange : s.sweep.position < 4096) (slot : p < 4096) :
    (if (p + 1) % 4096 = 0 then BucketState.passed (s.sweepBegins p).sweep.pass else id) =
      if p = 4095 then BucketState.passed s.sweep.pass else id := by
  by_cases last : p = 4095
  · have pass : (s.sweepBegins p).sweep.pass = s.sweep.pass := if_neg (by
      show ¬p < s.sweep.position
      omega)
    rw [pass, if_pos (by omega), if_pos last]
  · rw [if_neg (by omega), if_neg last]

/-- The access of a visit, as whether its evaluation changes the record (R142). -/
theorem State.accessVisited_eq {u : State} {p : Nat} {r : Record} (reading : u.reading p = r) : u.accessVisited p =
    if (u.now.any fun now => decide (visitedRecord (u.tag p).lifecycle r (u.tariffClass r.cls) now ≠ r)) then .written
    else .read := by
  rw [State.accessVisited, State.evaluated, reading]
  cases u.now with
  | none => exact if_pos rfl
  | some now =>
    dsimp only [Option.any]
    by_cases same : visitedRecord (u.tag p).lifecycle r (u.tariffClass r.cls) now = r
    · rw [if_pos same, if_neg (by simp [same])]
    · rw [if_neg same, if_pos (by simp [same])]

theorem State.errorsAt_of_gives {s : State} {p : Nat} {r : Record} (gives : s.gives p r) : s.errorsAt p = [] := by
  rcases gives with ⟨damaged, _⟩ | ⟨_, sound, _⟩
  · rw [State.errorsAt, State.newlyDamaged, damaged]
    rfl
  · rw [State.errorsAt, State.newlyDamaged, decide_eq_false sound, Bool.and_false, if_neg nofun]

/-- The end of a sweep turn on a slot read as `r`, told of the state before the turn. -/
theorem SweepEnds.ofVisit {s v : State} {p : Nat} {r : Record} (wf : Memory.wf s) (gives : s.gives p r)
    (h : SweepEnds (s.sweepBegins p) v p ((s.sweepBegins p).tagVisited p) ((s.sweepBegins p).evaluated p)
      ((s.sweepBegins p).accessVisited p) ((s.sweepBegins p).visitWipes p) ((s.sweepBegins p).visitWrites p)) :
    let wiped := if (s.tag p).location = .nowhere then s.wipedBy (homeBucket r.kit) else none
    FeedsErrors s v (wiped.map .directory).toList .sweep s.now
      ∧ (∀ x, x ≠ p → v.tag x = (s.tag x).without wiped ∧ v.body x = s.body x)
      ∧ v.integrity.armed = s.armedLeft (if s.writesBody p ((s.sweepBegins p).accessVisited p) then [p] else [])
          (if (s.tag p).location = .nowhere then s.entryWrites (homeBucket r.kit) else []) := by
  obtain ⟨tagRead, reading⟩ := gives.read
  have readingU : (s.sweepBegins p).reading p = r := reading
  have ways := State.sweepBegins_ways wf p (homeBucket r.kit)
  have wiped : (s.sweepBegins p).visitWipes p =
      if (s.tag p).location = .nowhere then s.wipedBy (homeBucket r.kit) else none := by
    rw [State.visitWipes, readingU, State.wipedBy_congr ways]
    rfl
  have written : (s.sweepBegins p).visitWrites p =
      if (s.tag p).location = .nowhere then s.entryWrites (homeBucket r.kit) else [] := by
    rw [State.visitWrites, readingU, State.entryWrites_congr ways]
    rfl
  have others := h.others
  have errors := h.errors
  have armed := h.armed
  rw [wiped] at others errors
  rw [written] at armed
  have quiet : (s.sweepBegins p).errorsAt p = [] := State.errorsAt_of_gives gives
  rw [if_neg (State.accessVisited_touched _ p), quiet, List.nil_append] at errors
  exact ⟨errors, others, armed⟩

/-- The visit to a slot without a location, once the turn's write is made (R72, R143, R144). -/
theorem sweepTurn_reenters {s v : State} {p : Nat} (wf : Memory.wf s) (inRange : s.sweep.position < 4096) (slot : p < 4096)
    (live : (s.tag p).lifecycle ≠ .free) (undamaged : (s.tagRead p).damaged = false) (nowhere : (s.tag p).location = .nowhere)
    (turn : v = (((Turn.start .sweep (s.sweepBegins p)).visit p).map State.leavesSlot).write.settle) :
    Reenters (if p < s.sweep.position then s.endPass else s) v p (s.reading p).kit (homeBucket (s.reading p).kit)
      (if p < s.sweep.position then s.sweep.pass + 1 else s.sweep.pass)
      (if p = 4095 then BucketState.passed s.sweep.pass else id) := by
  have wf' : Memory.wf (s.sweepBegins p) := State.visiting_wf (s := s.begins .sweep) wf p
  obtain ⟨t, on, ⟨dir, ways, counted⟩, re⟩ := Turn.visit_reinserts (u := s.sweepBegins p) (p := p) wf' live undamaged nowhere
  have closes := (Turn.visit_visited (u := s.sweepBegins p) (p := p) wf' live undamaged).closes rfl
  rw [passed_of_last inRange slot] at closes
  have integrity : (if p < s.sweep.position then s.endPass else s).integrity = s.integrity := by split <;> rfl
  have passes : t.s.sweep.pass = if p < s.sweep.position then s.sweep.pass + 1 else s.sweep.pass :=
    congrArg SweepUnit.pass on.frame.outside.2.2.2.2
  rw [turn]
  exact re.reenters closes.toDirCloses (dir.trans (s.sweepBegins_dir p)) ways
    (counted.trans (congrArg Integrity.dirCorrected integrity).symm)
    (on.armed.trans (congrArg Integrity.armed integrity).symm) passes

/-- The visit to a slot with a location, which it keeps (R143). -/
theorem sweepTurn_location {s v : State} {p : Nat} (wf : Memory.wf s)
    (live : (s.tag p).lifecycle ≠ .free) (undamaged : (s.tagRead p).damaged = false) (entered : (s.tag p).location ≠ .nowhere)
    (turn : v = (((Turn.start .sweep (s.sweepBegins p)).visit p).map State.leavesSlot).write.settle) :
    (v.tag p).location = (s.tag p).location := by
  have wf' : Memory.wf (s.sweepBegins p) := State.visiting_wf (s := s.begins .sweep) wf p
  obtain ⟨on, _⟩ := Turn.visit_entered (u := s.sweepBegins p) (p := p) wf' live undamaged entered
  have closes := (Turn.visit_visited (u := s.sweepBegins p) (p := p) wf' live undamaged).closes rfl
  rw [turn, closes.tag, on.tag]
  rfl

/-- Settles O49: the visit's evaluation and re-insertion, then the move past the slot. -/
theorem sweepVisitLive : Obligations.SweepVisitLive := by
  intro s p r wf granted inRange first
  dsimp only
  intro live undamaged reads
  have gives : s.gives p r := .inr ⟨undamaged, reads⟩
  obtain ⟨tagRead, reading⟩ := gives.read
  obtain ⟨wf', here, v, exec', turn, keeps⟩ := sweepTurn_visits wf granted
    (State.passOver_four (s := s.begins .sweep) inRange first) first.2.1
  have readingU : (s.sweepBegins p).reading p = r := reading
  have tagReadU : (s.sweepBegins p).tagRead p = s.tag p := tagRead
  have undamaged' : ((s.sweepBegins p).tagRead p).damaged = false := by rw [tagReadU, undamaged]
  have ends := (Turn.visit_visited (u := s.sweepBegins p) (p := p) wf' live undamaged').ends here
  rw [← turn] at ends
  obtain ⟨errors, others, armed⟩ := ends.ofVisit wf gives
  have access := State.accessVisited_eq readingU
  have body := ends.body
  have tag := ends.tag
  rw [access] at armed body
  refine ⟨v, exec', keeps, ends.port, ends.link, ends.moves inRange first.1, ends.counts, ends.banks, others, errors,
    ends.corrected.trans (State.correctedLeft_accessVisited _ p), armed, fun entered => ?_, fun nowhere => ?_, ?_⟩
  · exact sweepTurn_location wf live undamaged' entered turn
  · have reenters := sweepTurn_reenters wf inRange first.1 live undamaged' nowhere turn
    rw [reading] at reenters
    exact reenters
  · cases clock : s.now with
    | none =>
      have evaluated : (s.sweepBegins p).evaluated p = r := by
        rw [State.evaluated, show (s.sweepBegins p).now = none from clock, readingU]
      rw [State.tagVisited, evaluated, readingU, if_pos rfl, tagReadU] at tag
      rw [evaluated] at body
      rw [show (s.sweepBegins p).now = none from clock] at body
      exact ⟨tag, body⟩
    | some now =>
      have evaluated : (s.sweepBegins p).evaluated p = visitedRecord (s.tag p).lifecycle r (s.tariffClass r.cls) now := by
        rw [State.evaluated, show (s.sweepBegins p).now = some now from clock, readingU]
        rfl
      rw [State.tagVisited, evaluated, readingU, tagReadU] at tag
      rw [evaluated] at body
      rw [show (s.sweepBegins p).now = some now from clock] at body
      exact ⟨body, tag⟩

end Sys2Proof.Machine
end

section
/-! PROOFS. Reads that find a record uncorrectable (R149). -/

namespace Sys2Proof.Machine

set_option Elab.async false

section
variable {u : State} {t : Turn} {f : State → State} {after : BucketState → BucketState}

/-- The directory after a turn that has written none of it. -/
theorem Undirected.ends (un : Undirected u t) (wf : Memory.wf t.s) (closes : Closes after t.s (f t.s)) :
    let v := (t.map f).write.settle
    (∀ d, (v.bucket d).ways = (u.bucket d).ways ∧ (v.bucket d).state = after (u.bucket d).state)
      ∧ (∀ i, v.spillEntry i = u.spillEntry i) ∧ v.integrity.dirCorrected = u.integrity.dirCorrected := by
  obtain ⟨dir, ways, counted⟩ := un
  have bucket (d : Nat) : t.s.bucket d = u.bucket d := congrArg (fun x : Directory => cellRead Bucket.cleared x.buckets d) dir
  refine ⟨fun d => ⟨?_, ?_⟩, fun i => ?_, closes.dirCorrected.trans counted⟩
  · refine (closes.ways_unwritten wf fun w mem => ?_).trans (congrArg Bucket.ways (bucket d))
    rw [ways] at mem
    exact absurd mem List.not_mem_nil
  · rw [closes.bucketState wf, bucket]
  · exact (closes.spillEntry i).trans (congrArg (fun x : Directory => cellRead none x.spill i) dir)

theorem entriesStay_of_ways {s v : State} (ways : ∀ d, (v.bucket d).ways = (s.bucket d).ways)
    (spill : ∀ i, v.spillEntry i = s.spillEntry i) (counted : v.integrity.dirCorrected = s.integrity.dirCorrected) :
    EntriesStay s v none := by
  refine ⟨fun b => ?_, spill, fun b w _ => ?_, counted⟩
  · rw [Bucket.values, ways]
    rfl
  · rw [ways]
    exact (if_neg nofun).symm

end

/-- The sweep visit to a slot in use at the position itself. -/
theorem State.passOver_here {s : State} (inUse : (s.bank (bankIndex s.sweep.position)).inUse = true) :
    s.passOver 4 = s.visiting s.sweep.position := by
  rw [State.visiting_position]
  exact if_pos inUse

/-- A sweep visit whose read finds the slot uncorrectable (R141, R149). -/
theorem sweepTurn_becomesDamaged {s : State} (wf : Memory.wf s) (granted : s.arbiter = some .sweep)
    (inUse : (s.bank (bankIndex s.sweep.position)).inUse = true) (live : (s.tag s.sweep.position).lifecycle ≠ .free)
    (damages : s.newlyDamaged s.sweep.position = true) : ∃ t, exec .sweepVisit s = .next t
      ∧ BecomesDamaged s t s.sweep.position .sweep none ∧ t.link = s.link ∧ t.port = s.port := by
  have passed : (s.begins .sweep).passOver 4 = (s.begins .sweep).visiting s.sweep.position :=
    State.passOver_here (s := s.begins .sweep) inUse
  obtain ⟨wf', here, v, exec', turn, keeps⟩ := sweepTurn_visits wf granted passed inUse
  obtain ⟨on, un⟩ := Turn.visit_newlyDamaged (u := s.sweepBegins s.sweep.position) wf' live damages
  have visited := on.on.visited un.ways
  have closes := visited.closes here
  have ends := visited.ends here
  obtain ⟨ways, spill, counted⟩ := un.ends on.on.wf closes
  have tag := (closes.tag s.sweep.position).trans on.on.tag
  rw [← turn] at ends ways spill counted tag
  have uncorrected : s.corrects s.sweep.position = false := State.corrects_of_newlyDamaged damages
  have unwritten : (s.sweepBegins s.sweep.position).writesBody s.sweep.position .read = false := uncorrected
  have quiet : (s.sweepBegins s.sweep.position).errorsAt s.sweep.position = [.record s.sweep.position] :=
    State.errorsAt_of_newlyDamaged damages
  have errors := ends.errors
  have armed := ends.armed
  have body := ends.body
  rw [if_neg nofun, quiet] at errors
  rw [unwritten, if_neg nofun] at armed
  rw [State.bodyLeft, unwritten, if_neg nofun] at body
  have fed : FeedsErrors s v [.record s.sweep.position] .sweep s.now := errors
  refine ⟨v, exec', ⟨tag.trans (State.tagRead_of_newlyDamaged damages), fun x other => ?_, fun x => ?_,
    entriesStay_of_ways (fun d => (ways d).1.trans (State.sweepBegins_ways wf _ d)) spill counted, ends.counts, ends.banks, ?_,
    fed.single, armed, keeps⟩, ends.link, ends.port⟩
  · exact ((ends.others x other).1).trans (Tag.without_none _)
  · by_cases same : x = s.sweep.position
    · rw [same]
      exact body
    · exact (ends.others x same).2
  · refine ends.corrected.trans ((if_neg fun both => ?_).trans rfl)
    have corrects : s.corrects s.sweep.position = true := both.2
    rw [uncorrected] at corrects
    cases corrects

end Sys2Proof.Machine
end

section
/-! PROOFS. The first read of an uncorrectable body, turn by turn (R149). -/

namespace Sys2Proof.Machine

set_option Elab.async false

section
variable {s t : State} {slot : Nat}

theorem State.reading_of_undamaged (undamaged : (s.tag slot).damaged = false) : s.reading slot = (s.body slot).read := by
  rw [State.reading, undamaged, if_neg Bool.false_ne_true]

theorem Replied.readDamaged {looked : Option Nat} {code : Byte} {c : TariffClass}
    (h : Replied s t slot looked code (readReply slot (s.tagRead slot) (s.reading slot) c s.now))
    (live : (s.tag slot).lifecycle ≠ .free) (undamaged : (s.tag slot).damaged = false)
    (double : (s.body slot).check = .double) : BecomesDamaged s t slot .command looked
      ∧ t.finishedWith code .ok (imageBytes (recordImage slot { s.tag slot with damaged := true } (s.body slot).read
          (some .keep))) := by
  have damages := State.newlyDamaged_of undamaged double
  obtain ⟨⟨leaves, _⟩, _, _, finished⟩ := h
  refine ⟨leaves.becomesDamaged damages, ?_⟩
  have finished' : t.finishedWith code .ok (imageBytes (recordImage slot (s.tagRead slot) (s.reading slot)
    (standingOf (s.tagRead slot).damaged (s.tagRead slot).lifecycle (s.reading slot) c.grace s.now))) := finished
  rw [State.tagRead_of_newlyDamaged damages, State.reading_of_undamaged undamaged] at finished'
  have keep := standingOf_damaged live (s.body slot).read c.grace s.now
  rwa [keep] at finished'

/-- The check-in of a kit whose record is DAMAGED, already or from this read (R105). -/
theorem checkInTurn_damaged {a : Arrival} {rest : List Arrival} (next : CheckInNext s a rest)
    (locates : s.locates a.checkIn.kit slot) (damaged : (s.tagRead slot).damaged = true) :
    ∃ t, exec .checkInTurn s = .next t
      ∧ SlotLeaves s t slot (s.tagRead slot) (s.reading slot) .read (some (homeBucket a.checkIn.kit)) .checkIn s.now
      ∧ t.link = ({ s with link := { s.link with queue := rest, inService := some a } }.handOver
          ⟨a.checkIn.kit, (s.reading slot).issued, .keep, 0, 0, a.checkIn.serial⟩ a).link := by
  obtain ⟨t, row, _, _, _, _, _, _, served⟩ := checkInTurn_head next locates
  rw [damaged] at served
  obtain ⟨⟨leaves, _⟩, link⟩ := served
  exact ⟨t, row, leaves, link⟩

/-- A turn that has only read a slot already DAMAGED (R147). -/
theorem SlotLeaves.ofDamaged {looked : Option Nat} {who : Requester}
    (h : SlotLeaves s t slot (s.tagRead slot) (s.reading slot) .read looked who s.now)
    (damaged : (s.tag slot).damaged = true) : (∀ x, t.tag x = s.tag x) ∧ (∀ x, t.body x = s.body x)
      ∧ KeepsSurroundings s t := by
  obtain ⟨keeps, others, _, _, tag, body, _⟩ := h
  have quiet : s.newlyDamaged slot = false := by rw [State.newlyDamaged, damaged]; rfl
  have unwritten : s.writesBody slot .read = false := by
    show s.corrects slot = false
    rw [State.corrects, damaged]
    rfl
  rw [State.tagRead_of_not_newlyDamaged quiet] at tag
  rw [State.bodyLeft, unwritten, if_neg nofun] at body
  refine ⟨fun x => ?_, fun x => ?_, keeps⟩
  · by_cases same : x = slot
    · rw [same, tag]
    · exact (others x same).1
  · by_cases same : x = slot
    · rw [same, body]
    · exact (others x same).2

theorem nextMarked_live (next : s.nextMarked = some slot) : (s.tag slot).lifecycle ≠ .free :=
  ((needsHost_iff slot).1 (scan_sound next)).1

/-- FETCH MARKED on a slot whose read finds it uncorrectable (R17, R149). -/
theorem fetchMarkedTurn_damaged (h : s.commandTurnFor .fetchMarked) (next : s.nextMarked = some slot)
    (undamaged : (s.tag slot).damaged = false) (double : (s.body slot).check = .double) :
    ∃ t, exec .commandTurn s = .next t
      ∧ SlotLeaves s t slot { s.tag slot with damaged := true, marked := false }
          { (s.body slot).read with marks := ⟨false, false, false, false, false, false⟩ } .written none .command s.now
      ∧ FeedsError s t (.record slot) .command ∧ t.link = s.link ∧ t.engine.fetchCursor = (slot + 1) % 4096
      ∧ t.finishedWith 0x1B .ok (imageBytes (recordImage slot { s.tag slot with damaged := true } (s.body slot).read
          (some .keep))) := by
  have damages := State.newlyDamaged_of undamaged double
  have keep := standingOf_damaged (nextMarked_live next) (s.body slot).read
    (s.tariffClass (s.body slot).read.cls).grace s.now
  obtain ⟨t, row, leaves, link, _, finished, cursor⟩ := fetchMarkedTurn_some h next
  rw [State.tagRead_of_newlyDamaged damages, State.reading_of_undamaged undamaged] at leaves finished
  rw [keep] at finished
  obtain ⟨_, _, _, _, _, _, _, _, _, errors, _⟩ := id leaves
  rw [if_neg nofun, State.errorsAt_of_newlyDamaged damages] at errors
  exact ⟨t, row, leaves, errors.single, link, cursor, finished⟩

end

/-- Settles O41: each turn whose first read of the record finds it uncorrectable, and what a read returns. -/
theorem doubleErrors : Obligations.DoubleErrors := by
  refine ⟨fun s kit slot c clock turn locates undamaged double => ⟨fun refuses => ?_, ?_⟩,
    fun s a rest slot next locates => ⟨fun undamaged double => ?_, fun damaged => ?_⟩,
    fun s wf granted inUse live undamaged double =>
      sweepTurn_becomesDamaged wf granted inUse live (State.newlyDamaged_of undamaged double),
    fun s slot turn inUse live undamaged double => ?_,
    fun s slot turn next undamaged double => fetchMarkedTurn_damaged turn next undamaged double,
    fun b => ?_, fun b wf => ⟨StoredBody.check_eq_double_iff wf, StoredBody.check_eq_good_iff wf⟩⟩
  · have damages := State.newlyDamaged_of undamaged double
    have damaged : (s.tagRead slot).damaged = true := by rw [State.tagRead_of_newlyDamaged damages]
    obtain ⟨t, row, ⟨leaves, _⟩, _, _, finished⟩ := damagedTurn_refused turn refuses clock locates damaged
    exact ⟨t, row, leaves.becomesDamaged damages, finished⟩
  · rintro rfl
    obtain ⟨t, row, replied⟩ := readRecordTurn_replied turn locates
    exact ⟨t, row, replied.readDamaged locates.2.2 undamaged double⟩
  · have damages := State.newlyDamaged_of undamaged double
    have damaged : (s.tagRead slot).damaged = true := by rw [State.tagRead_of_newlyDamaged damages]
    obtain ⟨t, row, leaves, link⟩ := checkInTurn_damaged next locates damaged
    exact ⟨t, row, leaves.becomesDamaged damages, link⟩
  · obtain ⟨t, row, leaves, link⟩ := checkInTurn_damaged next locates (by rw [State.tagRead, damaged]; rfl)
    obtain ⟨tags, bodies, keeps⟩ := leaves.ofDamaged damaged
    exact ⟨t, row, tags, bodies, keeps, link⟩
  · obtain ⟨t, row, replied⟩ := readSlotTurn_live turn (by rw [inUse]; exact nofun) live
    exact ⟨t, row, replied.readDamaged live undamaged double⟩
  · dsimp only
    rw [StoredBody.read_eq]
    exact ⟨rfl, rfl, rfl, rfl, rfl, rfl, rfl, rfl, rfl, rfl, rfl, rfl, rfl, rfl, rfl, rfl, rfl⟩

end Sys2Proof.Machine
end

section
/-! PROOFS. The sweep turn on a FREE slot and on one already DAMAGED, and what every sweep turn leaves (R139 to R144). -/

namespace Sys2Proof.Machine

set_option Elab.async false

/-! ## The scrub -/

/-- A FREE slot has been scrubbed: its body alone, the counts of corrections and the report may have changed (R140). -/
structure Scrubbed (u : State) (t : Turn) (p : Nat) : Prop where
  wf : Memory.wf t.s
  frame : t.s = { u with
    memory := { u.memory with bodies := t.s.memory.bodies, banks := t.s.memory.banks }
    integrity := { t.s.integrity with dirCorrected := u.integrity.dirCorrected, armed := u.integrity.armed } }
  ways : t.ways = []
  others : ∀ x, x ≠ p → t.s.body x = u.body x
  bodies : ∀ x ∈ t.bodies, x = p

section
variable {u : State} {p : Nat}

theorem Turn.scrub_good (good : (u.body p).check = .good) : (Turn.start .sweep u).scrub p = Turn.start .sweep u := by
  rw [Turn.scrub, show ((Turn.start .sweep u).s.body p).check = .good from good]

theorem Turn.scrub_single (single : (u.body p).check = .single) : (Turn.start .sweep u).scrub p =
    ((Turn.start .sweep u).countCorrected (bankIndex p)).putBody p (u.body p).read := by
  rw [Turn.scrub, show ((Turn.start .sweep u).s.body p).check = .single from single]
  rfl

theorem Turn.scrub_double (double : (u.body p).check = .double) : (Turn.start .sweep u).scrub p =
    ((Turn.start .sweep u).putBody p Record.cleared).map (·.feedError (.record p) .sweep) := by
  rw [Turn.scrub, show ((Turn.start .sweep u).s.body p).check = .double from double]
  rfl

theorem Turn.scrub_scrubbed (wf : Memory.wf u) (p : Nat) : Scrubbed u ((Turn.start .sweep u).scrub p) p := by
  have wf' := (Turn.scrub_keeps (Turn.start .sweep u) p).wf wf
  cases check : (u.body p).check with
  | good =>
    rw [Turn.scrub_good check]
    exact ⟨wf, rfl, rfl, fun _ _ => rfl, fun x mem => absurd mem List.not_mem_nil⟩
  | single =>
    rw [Turn.scrub_single check] at wf' ⊢
    refine ⟨wf', rfl, rfl, fun x other => ?_, fun x mem => List.mem_singleton.1 mem⟩
    exact (Turn.body_putBody ((Turn.countCorrected_keeps (Turn.start .sweep u) _).wf wf) p _ x).trans (if_neg other)
  | double =>
    rw [Turn.scrub_double check] at wf' ⊢
    refine ⟨wf', ?_, rfl, fun x other => ?_, fun x mem => List.mem_singleton.1 mem⟩
    · simp only [Turn.map, State.feedError]
      split <;> rfl
    · refine Eq.trans ?_ ((Turn.body_putBody (t := Turn.start .sweep u) wf p Record.cleared x).trans (if_neg other))
      obtain ⟨memory, _⟩ := feedError_memory_dir ((Turn.start .sweep u).putBody p Record.cleared).s (.record p) .sweep
      exact congrArg (fun m : RecordMemory => cellRead StoredBody.cleared m.bodies x) memory

theorem Scrubbed.undirected {t : Turn} (h : Scrubbed u t p) : Undirected u t :=
  ⟨by rw [h.frame], h.ways, by rw [h.frame]⟩

end

/-! ## What every sweep turn leaves -/

/-- What a sweep turn at slot `p` leaves of the other units and of the other slots. -/
structure VisitFrame (s v : State) (p : Nat) : Prop where
  port : v.port = s.port
  link : v.link = s.link
  moves : SweepMoves s v p
  others : ∀ x, x ≠ p → v.body x = s.body x ∧ (v.tag x).lifecycle = (s.tag x).lifecycle
    ∧ (v.tag x).damaged = (s.tag x).damaged ∧ (v.tag x).marked = (s.tag x).marked

/-- A sweep turn at slot `p` has written no entry of the directory. -/
structure DirectoryKept (s v : State) (p : Nat) : Prop where
  counted : v.integrity.dirCorrected = s.integrity.dirCorrected
  buckets : ∀ d, (v.bucket d).ways = (s.bucket d).ways ∧ (v.bucket d).state =
    if p < s.sweep.position ∨ p = 4095 then (s.bucket d).state.passed s.sweep.pass else (s.bucket d).state
  spill : ∀ i, v.spillEntry i = s.spillEntry i

section
variable {s v : State} {t : Turn} {p : Nat}

theorem SweepEnds.frame {tag : Tag} {r : Record} {access : BodyAccess} {wiped : Option Nat} {written : List Nat}
    (h : SweepEnds (s.sweepBegins p) v p tag r access wiped written) (inRange : s.sweep.position < 4096) (slot : p < 4096) :
    VisitFrame s v p := by
  refine ⟨h.port, h.link, h.moves inRange slot, fun x other => ?_⟩
  obtain ⟨tag, body⟩ := h.others x other
  obtain ⟨lifecycle, damaged, marked⟩ := Tag.without_keeps (s.tag x) wiped
  have tag : v.tag x = (s.tag x).without wiped := tag
  rw [tag]
  exact ⟨body, lifecycle, damaged, marked⟩

theorem Undirected.kept (wf : Memory.wf s) (inRange : s.sweep.position < 4096) (slot : p < 4096)
    (un : Undirected (s.sweepBegins p) t) (wf' : Memory.wf t.s)
    (closes : Closes (if (p + 1) % 4096 = 0 then BucketState.passed (s.sweepBegins p).sweep.pass else id) t.s t.s.leavesSlot) :
    DirectoryKept s (t.map State.leavesSlot).write.settle p := by
  rw [passed_of_last inRange slot] at closes
  obtain ⟨buckets, spill, counted⟩ := un.ends wf' closes
  refine ⟨counted, fun d => ⟨(buckets d).1.trans (State.sweepBegins_ways wf p d), (buckets d).2.trans ?_⟩, spill⟩
  have state : ((s.sweepBegins p).bucket d).state =
      if p < s.sweep.position then (s.bucket d).state.passed s.sweep.pass else (s.bucket d).state :=
    (State.visiting_bucket (s := s.begins .sweep) wf p d).2
  rw [state]
  by_cases last : p = 4095
  · rw [if_pos last, if_neg (by omega), if_pos (.inr last)]
  · simp only [last, if_false, or_false, id]

/-- The engine after a sweep turn that has touched no tag. -/
theorem sweepTurn_engine (same : t.s.engine = (s.sweepBegins p).engine) :
    (t.map State.leavesSlot).write.settle.engine = { s.engine with
      waits := (t.map State.leavesSlot).write.settle.engine.waits
      consecutive := (t.map State.leavesSlot).write.settle.engine.consecutive, begun := none } := by
  have engine : (t.map State.leavesSlot).write.engine = (s.sweepBegins p).engine :=
    (Turn.write_engine (t.map State.leavesSlot)).trans (t.s.leavesSlot_outside.1.trans same)
  rw [State.settle_engine, engine]
  rfl

theorem Scrubbed.closes (h : Scrubbed (s.sweepBegins p) t p) :
    Closes (if (p + 1) % 4096 = 0 then BucketState.passed (s.sweepBegins p).sweep.pass else id) t.s t.s.leavesSlot := by
  have sweep : t.s.sweep = (s.sweepBegins p).sweep := by rw [h.frame]
  rw [← sweep]
  exact State.leavesSlot_closes (congrArg SweepUnit.position sweep) h.wf

theorem Scrubbed.visitFrame (h : Scrubbed (s.sweepBegins p) t p) (inRange : s.sweep.position < 4096) (slot : p < 4096) :
    VisitFrame s (t.map State.leavesSlot).write.settle p := by
  have closes := h.closes
  obtain ⟨link, port, _⟩ := leavesSlot_settled t
  have swept : (t.map State.leavesSlot).write.settle.sweep = { (s.sweepBegins p).sweep with
      credits := s.sweep.credits - 1, position := (p + 1) % 4096
      pass := if (p + 1) % 4096 = 0 then (s.sweepBegins p).sweep.pass + 1 else (s.sweepBegins p).sweep.pass } := by
    have sweep : t.s.sweep = (s.sweepBegins p).sweep := by rw [h.frame]
    refine (Turn.write_sweep (t.map State.leavesSlot)).trans ((State.leavesSlot_sweep (congrArg SweepUnit.position sweep)).trans ?_)
    rw [sweep]
    rfl
  refine ⟨port.trans (by rw [h.frame]; rfl), link.trans (by rw [h.frame]; rfl), sweepMoves_of swept inRange slot,
    fun x other => ⟨?_, ?_⟩⟩
  · refine (Turn.write_body_other (t := t.map State.leavesSlot) (closes.wf h.wf) fun mem => other (h.bodies x mem)).trans
      ((closes.body x).trans (h.others x other))
  · have tag : (t.map State.leavesSlot).write.settle.tag x = s.tag x := by
      rw [closes.tag, h.frame]
      rfl
    rw [tag]
    exact ⟨rfl, rfl, rfl⟩

end

end Sys2Proof.Machine
end

section
/-! PROOFS. The whole sweep turn (R139 to R144). -/

namespace Sys2Proof.Machine

set_option Elab.async false

section
variable {s : State} {p : Nat}

/-- The turn of the sweep that visits `p`, but for what the visit does. -/
abbrev Turn.swept (t : Turn) : State := (t.map State.leavesSlot).write.settle

theorem Closes.integrity_written {t : Turn} {f : State → State} {after : BucketState → BucketState}
    (h : Closes after t.s (f t.s)) : (t.map f).write.settle.integrity = { t.s.integrity with
      armed := (t.map f).write.settle.integrity.armed } := by
  rw [← h.integrity]
  exact congrArg State.integrity (t.map f).write_frame

/-- A visit that has read no body and written nothing. -/
theorem sweepTurn_untouched (here : (s.sweepBegins p).sweep.position = p) (wf : Memory.wf (s.sweepBegins p)) :
    (Turn.swept (Turn.start .sweep (s.sweepBegins p))).memory = s.memory
      ∧ (Turn.swept (Turn.start .sweep (s.sweepBegins p))).integrity = s.integrity := by
  have closes := State.leavesSlot_closes here wf
  have written : ((Turn.start .sweep (s.sweepBegins p)).map State.leavesSlot).write = (s.sweepBegins p).leavesSlot :=
    Turn.write_of_none rfl rfl
  have memory : (Turn.swept (Turn.start .sweep (s.sweepBegins p))).memory =
      ((Turn.start .sweep (s.sweepBegins p)).map State.leavesSlot).write.memory := rfl
  have integrity : (Turn.swept (Turn.start .sweep (s.sweepBegins p))).integrity =
      ((Turn.start .sweep (s.sweepBegins p)).map State.leavesSlot).write.integrity := rfl
  rw [memory, integrity, written]
  exact ⟨closes.memory, closes.integrity⟩

/-- A FREE slot whose body is found corrected: it is written back and counted (R140). -/
theorem sweepTurn_scrubSingle (wf : Memory.wf (s.sweepBegins p)) (single : (s.body p).check = .single) :
    let v := Turn.swept ((Turn.start .sweep (s.sweepBegins p)).scrub p)
    v.body p = s.bodyWritten p (s.body p).read
      ∧ v.integrity = { s.integrity with armed := s.armedLeft [p] [] }
      ∧ (∀ x, x ≠ bankIndex p → v.bank x = s.bank x)
      ∧ (v.bank (bankIndex p)).corrected = min ((s.bank (bankIndex p)).corrected + 1) 65535 := by
  have h := Turn.scrub_scrubbed wf p
  have closes := h.closes
  have scrub : (Turn.start .sweep (s.sweepBegins p)).scrub p = _ := Turn.scrub_single single
  have bodies : ∀ x, x ∈ ((Turn.start .sweep (s.sweepBegins p)).scrub p).bodies ↔ x ∈ [p] := fun x => by rw [scrub]; rfl
  have body : ((Turn.start .sweep (s.sweepBegins p)).scrub p).s.body p = ⟨(s.body p).read, (s.body p).read, []⟩ := by
    rw [scrub]
    exact (Turn.body_putBody ((Turn.countCorrected_keeps (Turn.start .sweep (s.sweepBegins p)) _).wf wf) p _ p).trans (if_pos rfl)
  have integrity : ((Turn.start .sweep (s.sweepBegins p)).scrub p).s.integrity = s.integrity := by rw [scrub]; rfl
  have bank (x : Fin 4) : ((Turn.start .sweep (s.sweepBegins p)).scrub p).s.bank x = if x = bankIndex p then
      { s.bank (bankIndex p) with corrected := bump (s.bank (bankIndex p)).corrected } else s.bank x := by
    rw [scrub]
    exact (s.sweepBegins p).bank_setBank (bankIndex p) x _
  have ways (b : Nat) : (∃ w, (b, w) ∈ ((Turn.start .sweep (s.sweepBegins p)).scrub p).ways) ↔ b ∈ [] := by
    rw [h.ways]
    simp
  generalize (Turn.start .sweep (s.sweepBegins p)).scrub p = t at h closes bodies body integrity bank ways
  refine ⟨?_, ?_, fun x other => ?_, ?_⟩
  · refine (Turn.write_body_carried (t := t.map State.leavesSlot) (closes.wf h.wf) ((bodies p).2 List.mem_cons_self)
      ((closes.body p).trans body)).trans ?_
    rw [State.bodyWritten, State.bodyWritten,
      show (t.map State.leavesSlot).s.integrity = s.integrity from closes.integrity.trans integrity]
  · rw [closes.integrity_written, closes.armed bodies ways, State.armedLeft, State.armedLeft, integrity]
  · rw [closes.bank, bank, if_neg other]
  · rw [closes.bank, bank, if_pos rfl]
    rfl

/-- A FREE slot whose body is found uncorrectable: it is cleared and the error reported (R140). -/
theorem sweepTurn_scrubDouble (wf : Memory.wf (s.sweepBegins p)) (double : (s.body p).check = .double) :
    let v := Turn.swept ((Turn.start .sweep (s.sweepBegins p)).scrub p)
    v.body p = s.bodyWritten p Record.cleared ∧ v.memory.banks = s.memory.banks
      ∧ v.integrity.armed = s.armedLeft [p] [] ∧ FeedsError s v (.record p) .sweep := by
  have h := Turn.scrub_scrubbed wf p
  have closes := h.closes
  have scrub : (Turn.start .sweep (s.sweepBegins p)).scrub p = _ := Turn.scrub_double double
  obtain ⟨memory, _, _, armed, _⟩ := feedError_memory_dir ((Turn.start .sweep (s.sweepBegins p)).putBody p Record.cleared).s
    (.record p) .sweep
  have fed := feedError_feeds ((Turn.start .sweep (s.sweepBegins p)).putBody p Record.cleared).s (.record p) .sweep
  have bodies : ∀ x, x ∈ ((Turn.start .sweep (s.sweepBegins p)).scrub p).bodies ↔ x ∈ [p] := fun x => by rw [scrub]; rfl
  have memory' : ((Turn.start .sweep (s.sweepBegins p)).scrub p).s.memory =
      ((Turn.start .sweep (s.sweepBegins p)).putBody p Record.cleared).s.memory := by
    rw [scrub]
    exact memory
  have body : ((Turn.start .sweep (s.sweepBegins p)).scrub p).s.body p = ⟨Record.cleared, Record.cleared, []⟩ :=
    (congrArg (fun m : RecordMemory => cellRead StoredBody.cleared m.bodies p) memory').trans
      ((Turn.body_putBody (t := Turn.start .sweep (s.sweepBegins p)) wf p Record.cleared p).trans (if_pos rfl))
  have armed' : ((Turn.start .sweep (s.sweepBegins p)).scrub p).s.integrity.armed = s.integrity.armed := by
    rw [scrub]
    exact armed
  have errors : FeedsErrors s ((Turn.start .sweep (s.sweepBegins p)).scrub p).s [.record p] .sweep s.now := by
    rw [scrub]
    exact fed
  have banks : ((Turn.start .sweep (s.sweepBegins p)).scrub p).s.memory.banks = s.memory.banks :=
    (congrArg RecordMemory.banks memory').trans rfl
  have ways (b : Nat) : (∃ w, (b, w) ∈ ((Turn.start .sweep (s.sweepBegins p)).scrub p).ways) ↔ b ∈ [] := by
    rw [h.ways]
    simp
  generalize (Turn.start .sweep (s.sweepBegins p)).scrub p = t at h closes bodies body armed' errors banks ways
  refine ⟨?_, ?_, ?_, (closes.errors errors).single⟩
  · refine (Turn.write_body_carried (t := t.map State.leavesSlot) (closes.wf h.wf) ((bodies p).2 List.mem_cons_self)
      ((closes.body p).trans body)).trans ?_
    rw [State.bodyWritten, State.bodyWritten,
      show (t.map State.leavesSlot).s.integrity = t.s.integrity from closes.integrity, armed']
  · have written : (t.map State.leavesSlot).write.memory.banks = (t.map State.leavesSlot).s.memory.banks := by
      rw [Turn.write_frame]
    exact written.trans ((congrArg RecordMemory.banks closes.memory).trans banks)
  · rw [closes.armed bodies ways, State.armedLeft, State.armedLeft, armed']

theorem Turn.swept_tags (t : Turn) {after : BucketState → BucketState} (closes : Closes after t.s t.s.leavesSlot) :
    t.swept.memory.tags = t.s.memory.tags := by
  have written : (t.map State.leavesSlot).write.memory.tags = (t.map State.leavesSlot).s.memory.tags := by
    rw [Turn.write_frame]
  exact written.trans (congrArg RecordMemory.tags closes.memory)

/-- What the statement says of the slot visited, by its tag and its body. -/
theorem sweepTurn_slot (wf : Memory.wf s) (inRange : s.sweep.position < 4096) (slot : p < 4096) :
    let v := ((Turn.start .sweep (s.sweepBegins p)).visit p).swept
    VisitFrame s v p
      ∧ ((s.tag p).lifecycle = .free ∨ (s.tag p).damaged = true ∨ (s.body p).check = .double ∨ (s.tag p).location ≠ .nowhere →
          DirectoryKept s v p)
      ∧ ((s.tag p).lifecycle = .free ∨ (s.tag p).damaged = true → v.engine = { s.engine with
          waits := v.engine.waits, consecutive := v.engine.consecutive, begun := none }) := by
  have wf' : Memory.wf (s.sweepBegins p) := State.visiting_wf (s := s.begins .sweep) wf p
  by_cases free : (s.tag p).lifecycle = .free
  · have h := Turn.scrub_scrubbed wf' p
    have visit : (Turn.start .sweep (s.sweepBegins p)).visit p = (Turn.start .sweep (s.sweepBegins p)).scrub p :=
      Turn.visit_free free
    rw [visit]
    exact ⟨h.visitFrame inRange slot, fun _ => h.undirected.kept wf inRange slot h.wf h.closes,
      fun _ => sweepTurn_engine (by rw [h.frame])⟩
  by_cases damaged : (s.tag p).damaged = true
  · have visit : (Turn.start .sweep (s.sweepBegins p)).visit p = Turn.start .sweep (s.sweepBegins p) :=
      Turn.visit_damaged free damaged
    have on := (Looked.start wf' .sweep).onSlot p Record.cleared
    have un : Undirected (s.sweepBegins p) (Turn.start .sweep (s.sweepBegins p)) := ⟨rfl, rfl, rfl⟩
    have visited := on.visited rfl
    rw [visit]
    exact ⟨(visited.ends rfl).frame inRange slot, fun _ => un.kept wf inRange slot wf' (visited.closes rfl),
      fun _ => sweepTurn_engine rfl⟩
  by_cases damages : s.newlyDamaged p = true
  · obtain ⟨on, un⟩ := Turn.visit_newlyDamaged (u := s.sweepBegins p) wf' free damages
    have visited := on.on.visited un.ways
    exact ⟨(visited.ends rfl).frame inRange slot, fun _ => un.kept wf inRange slot visited.wf (visited.closes rfl),
      fun either => (either.elim free damaged).elim⟩
  · have quiet := Bool.eq_false_iff.2 damages
    have undamaged : ((s.sweepBegins p).tagRead p).damaged = false := by
      refine (congrArg Tag.damaged (State.tagRead_of_not_newlyDamaged (s := s.sweepBegins p) quiet)).trans ?_
      exact Bool.eq_false_iff.2 damaged
    have visited := Turn.visit_visited (u := s.sweepBegins p) wf' free undamaged
    refine ⟨(visited.ends rfl).frame inRange slot, fun cases => ?_, fun either => (either.elim free damaged).elim⟩
    have entered : (s.tag p).location ≠ .nowhere := by
      rcases cases with free' | damaged' | double | entered
      · exact absurd free' free
      · exact absurd damaged' damaged
      · exact absurd (State.newlyDamaged_of (Bool.eq_false_iff.2 damaged) double) damages
      · exact entered
    obtain ⟨_, un⟩ := Turn.visit_entered (u := s.sweepBegins p) wf' free undamaged entered
    exact un.kept wf inRange slot visited.wf (visited.closes rfl)

end

/-- Settles O48: the slots passed over, the visit by the slot's tag, and the move past it. -/
theorem sweepVisit : Obligations.SweepVisit := by
  intro s p wf granted inRange first
  obtain ⟨wf', here, v, row, turn, keeps⟩ := sweepTurn_visits wf granted
    (State.passOver_four (s := s.begins .sweep) inRange first) first.2.1
  have slot := first.1
  obtain ⟨frame, kept, engine⟩ := sweepTurn_slot wf inRange slot
  have turn : v = ((Turn.start .sweep (s.sweepBegins p)).visit p).swept := turn
  rw [← turn] at frame kept engine
  refine ⟨v, row, keeps, frame.port, frame.link, frame.moves, frame.others, fun quiet => ?_, engine, fun damaged live => ?_,
    fun free => ?_⟩
  · obtain ⟨counted, buckets, spill⟩ := kept quiet
    exact ⟨counted, buckets, spill⟩
  · have visit : (Turn.start .sweep (s.sweepBegins p)).visit p = Turn.start .sweep (s.sweepBegins p) :=
      Turn.visit_damaged live damaged
    rw [turn, visit]
    exact sweepTurn_untouched here wf'
  · have visit : (Turn.start .sweep (s.sweepBegins p)).visit p = (Turn.start .sweep (s.sweepBegins p)).scrub p :=
      Turn.visit_free free
    have scrubbed := Turn.scrub_scrubbed wf' p
    rw [turn, visit]
    refine ⟨(Turn.swept_tags _ scrubbed.closes).trans (by rw [scrubbed.frame]; rfl), fun good => ?_,
      fun single => sweepTurn_scrubSingle wf' single, fun double => ?_⟩
    · rw [Turn.scrub_good (u := s.sweepBegins p) good]
      exact sweepTurn_untouched here wf'
    · obtain ⟨body, banks, armed, ⟨empty, full⟩⟩ := sweepTurn_scrubDouble wf' double
      refine ⟨body, banks, armed, ?_, fun none => ⟨(empty none).1, (empty none).2.1⟩,
        fun some' => ⟨(full some').1, (full some').2.1⟩⟩
      by_cases none : s.integrity.report = none
      · exact (empty none).2.2
      · exact (full none).2.2

end Sys2Proof.Machine
end

section
/-! PROOFS. A record placed in a new slot (R68, R84, R93), and the slot allocated (R12, R156). -/

namespace Sys2Proof.Machine

set_option Elab.async false

/-! ## The slot allocated -/

section
variable {s : State} {slot : Nat}

theorem State.mayAllocate_iff (s : State) (x : Nat) : s.mayAllocate x = true ↔ s.isOpen x := by
  rw [State.mayAllocate, Bool.and_eq_true, decide_eq_true_eq, decide_eq_true_eq]

theorem State.roomReserved_iff (s : State) :
    s.roomReserved = true ↔ ∃ b, s.evacuatingBank = some b ∧ s.allocatable ≤ s.liveIn b := by
  rw [State.roomReserved]
  cases s.evacuatingBank with
  | none => simp
  | some b => simp

theorem State.nextFree_eq_none_iff (inRange : s.engine.allocPtr < 4096) :
    s.nextFree = none ↔ ∀ x, x < 4096 → ¬s.isOpen x :=
  (scan_slots_eq_none_iff inRange).trans (forall₂_congr fun x _ =>
    Bool.eq_false_iff.trans (not_congr (s.mayAllocate_iff x)))

theorem State.nextFree_eq_some_iff (inRange : s.engine.allocPtr < 4096) :
    s.nextFree = some slot ↔ FirstFrom s.engine.allocPtr s.isOpen slot := by
  refine (scan_slots_eq_some_iff inRange).trans ?_
  simp only [FirstFrom, s.mayAllocate_iff]

theorem State.allocate_eq_none_iff (inRange : s.engine.allocPtr < 4096) : s.allocate = none ↔
    s.allocatable = 0 ∨ (∃ b, s.evacuatingBank = some b ∧ s.allocatable ≤ s.liveIn b) ∨ ∀ x, x < 4096 → ¬s.isOpen x := by
  rw [← s.roomReserved_iff, ← State.nextFree_eq_none_iff inRange, State.allocate, ← or_assoc]
  split
  · next full => exact iff_of_true rfl (.inl full)
  · next room => exact (or_iff_right room).symm

theorem State.allocate_eq_some_iff (inRange : s.engine.allocPtr < 4096) : s.allocate = some slot ↔
    s.allocatable ≠ 0 ∧ (¬∃ b, s.evacuatingBank = some b ∧ s.allocatable ≤ s.liveIn b)
      ∧ FirstFrom s.engine.allocPtr s.isOpen slot := by
  rw [← s.roomReserved_iff, ← State.nextFree_eq_some_iff inRange, State.allocate, ← and_assoc, ← not_or]
  split
  · next full => exact iff_of_false nofun fun both => both.1 full
  · next room => exact (and_iff_right room).symm

theorem State.isOpen_of_allocate (taken : s.allocate = some slot) : s.isOpen slot := by
  rw [State.allocate] at taken
  split at taken
  · cases taken
  · exact (s.mayAllocate_iff slot).1 (scan_sound taken)

theorem State.allocatable_eq_sum (s : State) : s.allocatable =
    ((List.finRange 4).map fun b => if (s.bank b).state = .inService then (s.bank b).free else 0).sum := by
  have banks : List.finRange 4 = [0, 1, 2, 3] := rfl
  rw [banks, State.allocatable]
  simp only [List.map_cons, List.map_nil, List.sum_cons, List.sum_nil]
  show _ + _ + _ + _ = _ + (_ + (_ + (_ + 0)))
  rw [Nat.add_zero, ← Nat.add_assoc, ← Nat.add_assoc]
  rfl

end

/-! ## A record in a new slot -/

section
variable {u : State} {t : Turn} {slot : Nat} {loc : Location} {lc : Lifecycle} {r : Record}

/-- Allocation reads the tags, the banks and the allocation pointer. -/
theorem Looked.allocate {looked : Option Nat} {who : Requester} (h : Looked u t who looked) : t.s.allocate = u.allocate := by
  rw [h.frame]
  rfl

/-- The turn that has placed a record, before its answer. -/
theorem Turn.placeNew_eq (t : Turn) (loc : Location) (slot : Nat) (lc : Lifecycle) (r : Record) :
    t.placeNew loc slot lc r =
      (((t.putAt loc (some ⟨r.kit, slot⟩) (some ⟨r.kit, slot, homeBucket r.kit⟩)).putBody slot r).putTag slot
        ⟨lc, false, loc, r.marks.any⟩).map (·.pastSlot slot) := by
  rw [Turn.placeNew, Turn.putEntry_eq]

/-- A turn that has looked has written the entry of a record yet to be placed (R68). -/
structure Entered (u : State) (t : Turn) (loc : Location) (slot : Nat) (kit : KitId) : Prop where
  wf : Memory.wf t.s
  tag : ∀ x, t.s.tag x = u.tag x
  body : ∀ x, t.s.body x = u.body x
  bank : ∀ x, t.s.bank x = u.bank x
  bankFlag : t.s.memory.bankFlag = u.memory.bankFlag
  engine : t.s.engine = u.engine
  link : t.s.link = u.link
  sweep : t.s.sweep = u.sweep
  integrity : t.s.integrity = { u.integrity with dirCorrected := u.dirCorrectedLeft (some (homeBucket kit)) }
  bodies : t.bodies = []
  dir : DirIs t
    (fun b w => if loc = .way b w then ⟨some ⟨kit, slot⟩, some ⟨kit, slot⟩, .good⟩ else
      u.waysRead (some (homeBucket kit)) b w)
    (fun b => (u.bucket b).state)
    (fun i => if loc = .spill i then some ⟨kit, slot, homeBucket kit⟩ else u.spillEntry i)
    (loc.buckets ++ u.readWrites (some (homeBucket kit)))

/-- The body, the tag and the allocation pointer of a record placed, and its answer (R12, R84, R93). -/
theorem Entered.leaves (h : Entered u t loc slot r.kit) (free : (u.tag slot).lifecycle = .free) (live : lc ≠ .free)
    {code : Byte} {fields : List Byte} {t' : Turn}
    (placed : t' = (((t.putBody slot r).putTag slot ⟨lc, false, loc, r.marks.any⟩).map (·.pastSlot slot)).answer code .ok fields)
    (keeps : KeepsSurroundings u t'.write.settle) : Places u t'.write.settle loc slot ⟨lc, false, loc, r.marks.any⟩ r := by
  have wf2 : Memory.wf (t.putBody slot r).s := (Turn.putBody_keeps t slot r).wf h.wf
  have wf' : Memory.wf t'.s := by
    rw [placed]
    exact (Turn.putTag_keeps _ slot _).wf wf2
  have tags (x : Nat) : t'.s.tag x = if x = slot then ⟨lc, false, loc, r.marks.any⟩ else u.tag x := by
    rw [placed]
    refine (State.tag_putTag wf2 slot _ x).trans ?_
    split
    · rfl
    · exact h.tag x
  have bodies (x : Nat) : t'.s.body x = if x = slot then ⟨r, r, []⟩ else u.body x := by
    rw [placed]
    refine (Turn.body_putBody h.wf slot r x).trans ?_
    split
    · rfl
    · exact h.body x
  have integrity : t'.s.integrity = { u.integrity with dirCorrected := u.dirCorrectedLeft (some (homeBucket r.kit)) } := by
    rw [placed]
    exact h.integrity
  have carried (x : Nat) : x ∈ t'.bodies ↔ x ∈ [slot] := by
    rw [placed]
    show x ∈ slot :: t.bodies ↔ _
    rw [h.bodies]
  have dir := h.dir.congr (t' := t') (by rw [placed]; rfl) (by rw [placed]; rfl)
  have armed : t'.s.integrity.armed = u.integrity.armed := by rw [integrity]
  have before : (t.putBody slot r).s.tag slot = u.tag slot := h.tag slot
  have counts : CountsFollow u t'.s slot := by
    refine (((countsFollow_refl (t := (t.putBody slot r).s) before h.engine).trans
      (putTag_countsFollow wf2 slot ⟨lc, false, loc, r.marks.any⟩) (before ▸ Tag.grows_refl _)).congr ?_ ?_)
    · rw [tags, if_pos rfl, State.tag_putTag wf2, if_pos rfl]
    · rw [placed]
      exact ⟨rfl, rfl, rfl, rfl, rfl, rfl⟩
  have banks : BanksFollow u t'.s slot := by
    refine (((banksFollow_refl (t := (t.putBody slot r).s) before h.bank h.bankFlag).trans
      (putTag_banksFollow wf2 slot ⟨lc, false, loc, r.marks.any⟩) (congrArg Tag.lifecycle before)).congr ?_ ?_ ?_ ?_ ?_)
    · rw [tags, if_pos rfl, State.tag_putTag wf2, if_pos rfl]
    · rw [placed]
      exact fun _ _ => rfl
    · rw [placed]
      rfl
    · rw [placed]
      rfl
    · rw [placed]
      rfl
  obtain ⟨values, states, spills, ways⟩ := dir.settled wf'
  have engine : t'.write.settle.engine = { t'.s.engine with
      waits := t'.write.settle.engine.waits, begun := t'.write.settle.engine.begun } := by
    rw [State.settle_engine, Turn.write_engine]
  refine ⟨(Turn.write_tag t' slot).trans ((tags slot).trans (if_pos rfl)), ?_, fun x other => ⟨?_, ?_⟩, fun b w => ?_,
    fun b w unarmed => ?_, states, spills, ?_, ?_, ?_, ?_, ?_, ?_, counts.congr (Turn.write_tag t' slot) ?_,
    banks.congr (Turn.write_tag t' slot) (fun x _ => Turn.write_bank t' x) (congrArg Bank.state (Turn.write_bank t' _))
      (congrArg Bank.free (Turn.write_bank t' _)) (Turn.write_bankFlag t'), ?_, keeps, ?_, ?_⟩
  · refine (Turn.write_body_carried wf' ((carried slot).2 List.mem_cons_self) ((bodies slot).trans (if_pos rfl))).trans ?_
    rw [State.bodyWritten, State.bodyWritten, armed]
  · exact (Turn.write_tag t' x).trans ((tags x).trans (if_neg other))
  · refine (Turn.write_body_other wf' fun mem => other (List.mem_singleton.1 ((carried x).1 mem))).trans ?_
    exact (bodies x).trans (if_neg other)
  · refine (values b w).trans ?_
    split
    · rfl
    · exact State.waysRead_value _ _ _ _
  · exact ways b w (armed ▸ unarmed)
  · have written : t'.write.integrity = { t'.s.integrity with armed := t'.write.integrity.armed } := by
      rw [Turn.write_frame]
    refine written.trans ?_
    rw [Turn.write_armed carried dir.ways, State.armedLeft, integrity]
    cases loc <;> rfl
  · rw [engine, placed]
    rfl
  · rw [engine, placed]
    show t.s.engine.fetchCursor = _
    rw [h.engine]
  · rw [engine, placed]
    show t.s.engine.checkInSearch = _
    rw [h.engine]
  · rw [show t'.write.settle.bank (bankIndex slot) = t'.s.bank (bankIndex slot) from Turn.write_bank t' _, banks.2.2.1,
      tags, if_pos rfl, free]
    simp only [live, decide_false, decide_true]
    rfl
  · refine (congrArg Bank.corrected (Turn.write_bank t' _)).trans ?_
    rw [placed]
    refine (congrArg Bank.corrected (State.bank_putTag (t.putBody slot r).s slot _ _)).trans ?_
    rw [if_pos rfl]
    exact (congrArg Bank.corrected (h.bank (bankIndex slot))).trans rfl
  · rw [engine]
    exact ⟨rfl, rfl, rfl, rfl, rfl, rfl⟩
  · rw [engine, placed]
    show t.s.engine.movesMade = _
    rw [h.engine]
  · refine (Turn.write_link t').trans ?_
    rw [placed]
    exact h.link
  · refine (Turn.write_sweep t').trans ?_
    rw [placed]
    exact h.sweep

theorem Looked.places (h : Looked u t .command (some (homeBucket r.kit))) (free : (u.tag slot).lifecycle = .free)
    (live : lc ≠ .free) {code : Byte} {fields : List Byte}
    (keeps : KeepsSurroundings u ((t.placeNew loc slot lc r).answer code .ok fields).write.settle) :
    Places u ((t.placeNew loc slot lc r).answer code .ok fields).write.settle loc slot ⟨lc, false, loc, r.marks.any⟩ r
      ∧ ((t.placeNew loc slot lc r).answer code .ok fields).write.settle.finishedWith code .ok fields := by
  refine ⟨?_, Turn.answer_finished _ code .ok fields⟩
  obtain ⟨link, _, engine, _, memory⟩ := h.outside
  have sweep : t.s.sweep = u.sweep := by rw [h.frame]
  have armed : t.s.integrity.armed = u.integrity.armed := by rw [h.frame]
  have integrity : t.s.integrity = { u.integrity with dirCorrected := u.dirCorrectedLeft (some (homeBucket r.kit)) } := by
    rw [← h.read.counted]
    exact congrArg State.integrity h.frame
  have tag (x : Nat) : t.s.tag x = u.tag x := congrArg (fun m : RecordMemory => cellRead Tag.cleared m.tags x) memory
  have body (x : Nat) : t.s.body x = u.body x :=
    congrArg (fun m : RecordMemory => cellRead StoredBody.cleared m.bodies x) memory
  have bank (x : Fin 4) : t.s.bank x = u.bank x := congrArg (fun m : RecordMemory => m.banks.get x) memory
  have dir := h.read.dirIs.putAt h.wf loc (some ⟨r.kit, slot⟩) (some ⟨r.kit, slot, homeBucket r.kit⟩)
  have wf1 := Turn.putAt_wf h.wf loc (some ⟨r.kit, slot⟩) (some ⟨r.kit, slot, homeBucket r.kit⟩)
  have frame := t.putAt_frame loc (some ⟨r.kit, slot⟩) (some ⟨r.kit, slot, homeBucket r.kit⟩)
  rw [Turn.placeNew_eq] at keeps ⊢
  generalize t.putAt loc (some ⟨r.kit, slot⟩) (some ⟨r.kit, slot, homeBucket r.kit⟩) = t1 at dir wf1 frame keeps ⊢
  have tag1 (x : Nat) : t1.s.tag x = u.tag x := (by rw [frame]; rfl : t1.s.tag x = t.s.tag x).trans (tag x)
  have body1 (x : Nat) : t1.s.body x = u.body x := (by rw [frame]; rfl : t1.s.body x = t.s.body x).trans (body x)
  have bank1 (x : Fin 4) : t1.s.bank x = u.bank x := (by rw [frame]; rfl : t1.s.bank x = t.s.bank x).trans (bank x)
  have flag1 : t1.s.memory.bankFlag = u.memory.bankFlag :=
    (by rw [frame] : t1.s.memory.bankFlag = t.s.memory.bankFlag).trans (congrArg RecordMemory.bankFlag memory)
  have engine1 : t1.s.engine = u.engine := (by rw [frame] : t1.s.engine = t.s.engine).trans engine
  have link1 : t1.s.link = u.link := (by rw [frame] : t1.s.link = t.s.link).trans link
  have sweep1 : t1.s.sweep = u.sweep := (by rw [frame] : t1.s.sweep = t.s.sweep).trans sweep
  have integrity1 : t1.s.integrity = { u.integrity with dirCorrected := u.dirCorrectedLeft (some (homeBucket r.kit)) } :=
    (by rw [frame] : t1.s.integrity = t.s.integrity).trans integrity
  have bodies1 : t1.bodies = [] := (by rw [frame] : t1.bodies = t.bodies).trans h.bodies
  exact Entered.leaves ⟨wf1, tag1, body1, bank1, flag1, engine1, link1, sweep1, integrity1, bodies1, dir⟩ free live rfl keeps

end

end Sys2Proof.Machine
end

section
/-! PROOFS. The turn of ENROL (R68, R84). -/

namespace Sys2Proof.Machine

set_option Elab.async false

/-! ## The insert -/

section
variable {u : State} {t : Turn} {who : Requester} {looked : Option Nat} {code : Byte} {kit : KitId}
  {ways : Four (Option Entry)} {l : Lookup} {place : Turn → Location → Nat → Turn}

theorem Turn.insert_rebuilding : t.insert code kit ways .rebuilding place = t.refuse code .rebuilding := by
  rw [Turn.insert, if_pos rfl]

theorem Lookup.absent_ne_rebuilding : Lookup.absent ≠ .rebuilding := nofun

theorem Looked.insert_full (h : Looked u t who looked) (absent : l ≠ .rebuilding)
    (full : u.placeFor (homeBucket kit) ways = .nowhere) : t.insert code kit ways l place = t.refuse code .directoryFull := by
  rw [Turn.insert, if_neg absent, placeFor_congr h.read.spill, full, if_pos rfl]

theorem Looked.insert_tableFull (h : Looked u t who looked) (absent : l ≠ .rebuilding)
    (room : u.placeFor (homeBucket kit) ways ≠ .nowhere) (none : u.allocate = none) :
    t.insert code kit ways l place = t.refuse code .tableFull := by
  rw [Turn.insert, if_neg absent, placeFor_congr h.read.spill, if_neg room, h.allocate, none]

theorem Looked.insert_placed (h : Looked u t who looked) (absent : l ≠ .rebuilding)
    (room : u.placeFor (homeBucket kit) ways ≠ .nowhere) {slot : Nat} (taken : u.allocate = some slot) :
    t.insert code kit ways l place = place t (u.placeFor (homeBucket kit) ways) slot := by
  rw [Turn.insert, if_neg absent, placeFor_congr h.read.spill, if_neg room, h.allocate, taken]

/-- A count whose lifecycle a placed record takes rises by 1. -/
theorem Places.enrolled {s v : State} {loc : Location} {slot : Nat} {marked : Bool} {r : Record}
    (h : Places s v loc slot ⟨.enrolled, false, loc, marked⟩ r) (free : (s.tag slot).lifecycle = .free) :
    v.engine.enrolled = s.engine.enrolled + 1 := by
  obtain ⟨tag, _, _, _, _, _, _, _, _, _, _, _, _, ⟨enrolled, _⟩, _⟩ := h
  rw [tag, free] at enrolled
  exact enrolled

end

/-! ## ENROL -/

section
variable {s : State} {kit : KitId} {cls : Byte} {outstanding : BitVec 32} {now : Nat}

/-- The place of the record that ENROL or RESTORE makes of a kit that its lookup does not find. -/
abbrev State.newPlace (s : State) (kit : KitId) : Location := s.placeFor (homeBucket kit) (s.bucket (homeBucket kit)).values

/-- The end of a kit's lookup in a readable bucket. -/
abbrev State.looksUp (s : State) (kit : KitId) : Lookup := s.lookupEnd (s.bucket (homeBucket kit)).values kit

/-- ENROL places its record and is answered (R84). -/
def placeEnrolled (kit : KitId) (cls : Byte) (outstanding : BitVec 32) (now : Nat) (t : Turn) (loc : Location)
    (slot : Nat) : Turn :=
  (t.placeNew loc slot .enrolled (enrolledRecord kit cls.toNat outstanding.toNat now)).answer 0x10 .ok (beBytes 2 slot)

/-- What ENROL does once its lookup has ended (R68, R84). -/
def enrolLooked (kit : KitId) (cls : Byte) (outstanding : BitVec 32) (now : Nat) (t : Turn) (ways : Four (Option Entry))
    (l : Lookup) : Turn :=
  match l with
  | .found slot => (t.readFound slot).refuse 0x10 .kitExists
  | l => t.insert 0x10 kit ways l (placeEnrolled kit cls outstanding now)

theorem enrolLooked_absent (t : Turn) (ways : Four (Option Entry)) : enrolLooked kit cls outstanding now t ways .absent =
    t.insert 0x10 kit ways .absent (placeEnrolled kit cls outstanding now) := rfl

theorem enrolLooked_rebuilding (t : Turn) (ways : Four (Option Entry)) :
    enrolLooked kit cls outstanding now t ways .rebuilding = t.refuse 0x10 .rebuilding :=
  Turn.insert_rebuilding (kit := kit) (ways := ways) (place := placeEnrolled kit cls outstanding now)

theorem workEnrol_closed {t : Turn} (running : t.s.now = some now) (closed : (t.s.tariffClass cls.toNat).price = 0) :
    workEnrol kit cls outstanding t = t.refuse 0x10 .classClosed := by
  rw [workEnrol, Turn.withClock_some running, if_pos closed]

theorem workEnrol_looks {t : Turn} (running : t.s.now = some now) (sold : (t.s.tariffClass cls.toNat).price ≠ 0) :
    workEnrol kit cls outstanding t =
      enrolLooked kit cls outstanding now (t.lookup kit).1 (t.lookup kit).2.1 (t.lookup kit).2.2 := by
  rw [workEnrol, Turn.withClock_some running, if_neg sold]
  rfl

/-- The work of an ENROL turn whose lookup reads a sound bucket. -/
theorem enrolTurn_work (h : s.commandTurnFor (.enrol kit cls outstanding)) (running : s.now = some now)
    (sound : (s.bucket (homeBucket kit)).broken = false) (sold : (s.tariffClass cls.toNat).price ≠ 0) :
    ∃ t, Looked (s.begins .command) t .command (some (homeBucket kit))
      ∧ (RecordCommand.enrol kit cls outstanding).work (Turn.start .command (s.begins .command)) =
        enrolLooked kit cls outstanding now t (s.bucket (homeBucket kit)).values (s.looksUp kit) := by
  obtain ⟨t, lookup, looked⟩ := Turn.lookup_of_sound (s := s.begins .command) h.1 .command (kit := kit) sound
  refine ⟨t, looked, ?_⟩
  rw [RecordCommand.work, workEnrol_looks (t := Turn.start .command (s.begins .command)) running sold, lookup]
  rfl

/-- ENROL of a kit whose lookup finds a live slot (R68). -/
theorem enrolTurn_exists (h : s.commandTurnFor (.enrol kit cls outstanding)) (running : s.now = some now)
    (sound : (s.bucket (homeBucket kit)).broken = false) (sold : (s.tariffClass cls.toNat).price ≠ 0) {slot : Nat}
    (found : s.looksUp kit = .found slot) (live : (s.tag slot).lifecycle ≠ .free) :
    ∃ t, exec .commandTurn s = .next t ∧
      CommandLeaves s t slot (s.tagRead slot) (s.reading slot) .read (some (homeBucket kit)) 0x10 .kitExists [] := by
  obtain ⟨t, looked, work⟩ := enrolTurn_work h running sound sold
  obtain ⟨_, on⟩ := looked.readOn slot
  have live' : ¬(t.s.tag slot).lifecycle = .free := by
    rw [looked.tag]
    exact live
  refine commandTurn_answers h ?_
  rw [work, found, enrolLooked, Turn.readFound, if_neg live']
  exact on.answers 0x10 .kitExists []

/-- The refusals of ENROL that write nothing, after its lookup. -/
theorem enrolTurn_refused (h : s.commandTurnFor (.enrol kit cls outstanding)) (running : s.now = some now)
    (sound : (s.bucket (homeBucket kit)).broken = false) (sold : (s.tariffClass cls.toNat).price ≠ 0) {st : Status}
    (refused : ∀ t, Looked (s.begins .command) t .command (some (homeBucket kit)) →
      enrolLooked kit cls outstanding now t (s.bucket (homeBucket kit)).values (s.looksUp kit) = t.refuse 0x10 st) :
    ∃ v, exec .commandTurn s = .next v ∧ LookupLeaves s v (some (homeBucket kit)) ∧ v.link = s.link
      ∧ v.engine.checkInSearch = s.engine.checkInSearch ∧ v.finishedWith 0x10 st [] := by
  obtain ⟨t, looked, work⟩ := enrolTurn_work h running sound sold
  exact commandTurn_lookedAnswer h looked (work.trans (refused t looked))

/-- ENROL accepted (R84). -/
theorem enrolTurn_placed (h : s.commandTurnFor (.enrol kit cls outstanding)) (running : s.now = some now)
    (sound : (s.bucket (homeBucket kit)).broken = false) (sold : (s.tariffClass cls.toNat).price ≠ 0)
    (absent : s.looksUp kit = .absent) (room : s.newPlace kit ≠ .nowhere) {slot : Nat} (taken : s.allocate = some slot) :
    ∃ t, exec .commandTurn s = .next t
      ∧ Places s t (s.newPlace kit) slot ⟨.enrolled, false, s.newPlace kit, true⟩
          (enrolledRecord kit cls.toNat outstanding.toNat now)
      ∧ t.engine.enrolled = s.engine.enrolled + 1 ∧ t.finishedWith 0x10 .ok (beBytes 2 slot) := by
  obtain ⟨t, looked, work⟩ := enrolTurn_work h running sound sold
  rw [absent, enrolLooked_absent, looked.insert_placed (u := s.begins .command) Lookup.absent_ne_rebuilding room taken] at work
  have keeps := commandTurn_keeps s (.enrol kit cls outstanding)
  have row := exec_commandTurn h
  rw [State.turn, work] at keeps row
  obtain ⟨free, _⟩ := State.isOpen_of_allocate taken
  have live : Lifecycle.enrolled ≠ .free := nofun
  obtain ⟨places, finished⟩ := looked.places (r := enrolledRecord kit cls.toNat outstanding.toNat now)
    (u := s.begins .command) free live keeps
  have placesS : Places s _ (s.newPlace kit) slot ⟨.enrolled, false, s.newPlace kit, true⟩
    (enrolledRecord kit cls.toNat outstanding.toNat now) := places
  exact ⟨_, row, placesS, placesS.enrolled free, finished⟩

end

/-- Settles O36: the refusals of ENROL in their order, the record it places, and where entry and slot are taken. -/
theorem enrolTurn : Obligations.EnrolTurn := by
  refine ⟨fun s kit cls outstanding now turn running sound => ?_, fun _ _ _ _ => rfl,
    fun s b ways => ⟨fun w empty before => placeFor_way (lowestEmpty_eq_some_iff.2 ⟨empty, before⟩),
      fun full i inRange empty before => placeFor_spill (lowestEmpty_eq_none_iff.2 full) inRange empty before,
      fun full none => placeFor_nowhere (lowestEmpty_eq_none_iff.2 full) none⟩,
    fun s inRange => ⟨State.allocate_eq_none_iff inRange, fun slot => State.allocate_eq_some_iff inRange,
      s.allocatable_eq_sum⟩⟩
  dsimp only
  by_cases closed : (s.tariffClass cls.toNat).price = 0
  · simp only [if_pos closed]
    have work : (RecordCommand.enrol kit cls outstanding).work (Turn.start .command (s.begins .command)) =
      (Turn.start .command (s.begins .command)).refuse 0x10 .classClosed :=
      workEnrol_closed (t := Turn.start .command (s.begins .command)) running closed
    exact commandTurn_lookedAnswer turn (Looked.start (s := s.begins .command) turn.1 .command) work
  simp only [if_neg closed]
  have refused {st : Status} := enrolTurn_refused turn running sound closed (st := st)
  cases looks : s.lookupEnd (s.bucket (homeBucket kit)).values kit with
  | found slot =>
    dsimp only
    by_cases free : (s.tag slot).lifecycle = .free
    · simp only [if_pos free]
      refine refused fun t looked => ?_
      have free' : (t.s.tag slot).lifecycle = .free := by
        rw [looked.tag]
        exact free
      rw [State.looksUp, looks, enrolLooked, Turn.readFound, if_pos free']
    · simp only [if_neg free]
      exact enrolTurn_exists turn running sound closed looks free
  | rebuilding =>
    refine refused fun t looked => ?_
    rw [State.looksUp, looks, enrolLooked_rebuilding]
  | absent =>
    dsimp only
    by_cases full : s.newPlace kit = .nowhere
    · simp only [if_pos full]
      refine refused fun t looked => ?_
      rw [State.looksUp, looks, enrolLooked_absent]
      exact looked.insert_full (u := s.begins .command) Lookup.absent_ne_rebuilding full
    simp only [if_neg full]
    cases taken : s.allocate with
    | none =>
      refine refused fun t looked => ?_
      rw [State.looksUp, looks, enrolLooked_absent]
      exact looked.insert_tableFull (u := s.begins .command) Lookup.absent_ne_rebuilding full taken
    | some slot => exact enrolTurn_placed turn running sound closed looks full taken

end Sys2Proof.Machine
end

section
/-! PROOFS. The record and the response of RESTORE (R92 to R95). -/

namespace Sys2Proof.Machine

set_option Elab.async false

section
variable {i : RecordImage}

theorem badImage_lifecycle (good : badImage i = false) : i.lifecycle = 1 ∨ i.lifecycle = 2 ∨ i.lifecycle = 3 ∨ i.lifecycle = 4 := by
  have range : 1 ≤ i.lifecycle.toNat ∧ i.lifecycle.toNat ≤ 4 := by
    simp only [badImage, Bool.or_eq_false_iff, decide_eq_false_iff_not] at good
    omega
  obtain ⟨low, high⟩ := range
  bv_omega

theorem imageLifecycle_code (good : badImage i = false) : (imageLifecycle i).code = i.lifecycle := by
  rcases badImage_lifecycle good with h | h | h | h <;> rw [imageLifecycle, h] <;> rfl

theorem restoredReserve_eq (good : badImage i = false) (c : TariffClass) (now : Nat) : restoredReserve i c now =
    i.reserve.toNat + if i.lifecycle = 1 ∨ i.lifecycle = 2 then i.expiry.toNat - (now + c.horizon) else 0 := by
  rcases badImage_lifecycle good with h | h | h | h <;> rw [restoredReserve, imageLifecycle, h] <;> rfl

theorem imagePrior_bind (good : badImage i = false) : (imagePrior i).bind lifecycleOf =
    if i.presence.getLsbD 3 = true then some (if i.prior = 1 then .enrolled else .running) else none := by
  have freeze : badFreeze i = false := by
    simp only [badImage, Bool.or_eq_false_iff] at good
    tauto
  rw [imagePrior]
  split
  · next present =>
    have known : i.prior = 1 ∨ i.prior = 2 := by
      rw [badFreeze, imagePrior, if_pos present] at freeze
      cases frozen : imageFrozen i with
      | none =>
        rw [frozen] at freeze
        cases freeze
      | some f =>
        rw [frozen] at freeze
        simp only [Bool.or_eq_false_iff, decide_eq_false_iff_not] at freeze
        tauto
    rcases known with h | h <;> rw [h] <;> rfl
  · rfl

/-- The record RESTORE writes, item by item (R94, R95). -/
theorem restoredRecord_eq (good : badImage i = false) (c : TariffClass) (now : Nat) (drift : Int) :
    restoredRecord i c now drift =
      { kit := i.kit, cls := i.cls.toNat
        expiry := if i.expiry.toNat ≤ now + c.horizon then i.expiry.toNat else now + c.horizon
        reserve := i.reserve.toNat + (if i.lifecycle = 1 ∨ i.lifecycle = 2 then i.expiry.toNat - (now + c.horizon) else 0)
        residue := i.residue.toNat, outstanding := i.outstanding.toNat, paidTotal := i.paidTotal.toNat
        issued := i.issued + 1024#16, acknowledged := i.acknowledged
        awaiting := some (i.issued + 1025#16)
        lastCheckIn := if i.presence.getLsbD 1 = true then some (min i.lastCheckIn.toNat now) else none
        drift := drift
        frozen := if i.presence.getLsbD 2 = true then some i.frozen.toNat else none
        prior := if i.presence.getLsbD 3 = true then some (if i.prior = 1 then .enrolled else .running) else none
        lapseNoted := false, silenceNoted := false
        marks := ⟨false, i.marks.getLsbD 1, i.marks.getLsbD 2, i.marks.getLsbD 3, i.marks.getLsbD 4, i.marks.getLsbD 5⟩ } := by
  have last : (imageLastCheckIn i).map (min now) =
      if i.presence.getLsbD 1 = true then some (min i.lastCheckIn.toNat now) else none := by
    rw [imageLastCheckIn]
    split
    · rw [Option.map_some, Nat.min_comm]
    · rfl
  have serial : i.issued + Config.serialLeap + 1 = i.issued + 1025#16 := by bv_omega
  rw [restoredRecord, restoredReserve_eq good, imagePrior_bind good, last, serial]
  rfl

end

end Sys2Proof.Machine
end

section
/-! PROOFS. The turn of RESTORE (R93). -/

namespace Sys2Proof.Machine

set_option Elab.async false

/-- RESTORE places the record of the image in a new slot, unless its reserve is out of range (R93, R94). -/
def placeRestored (i : RecordImage) (c : TariffClass) (now : Nat) (t : Turn) (loc : Location) (slot : Nat) : Turn :=
  let r := restoredRecord i c now 0
  let lc := imageLifecycle i
  if Config.maxReserve < r.reserve then t.refuse 0x18 .creditFull
  else (t.placeNew loc slot lc r).answer 0x18 .ok (restoreBytes slot true lc r c now)

/-- What RESTORE does once its lookup has ended (R93). -/
def restoreLooked (i : RecordImage) (c : TariffClass) (now : Nat) (t : Turn) (ways : Four (Option Entry)) (l : Lookup) : Turn :=
  match l with
  | .found slot => t.restoreInPlace i c now slot
  | l => t.insert 0x18 i.kit ways l (placeRestored i c now)

section
variable {s : State} {i : RecordImage} {now : Nat}

theorem restoreLooked_absent (c : TariffClass) (t : Turn) (ways : Four (Option Entry)) :
    restoreLooked i c now t ways .absent = t.insert 0x18 i.kit ways .absent (placeRestored i c now) := rfl

theorem restoreLooked_rebuilding (c : TariffClass) (t : Turn) (ways : Four (Option Entry)) :
    restoreLooked i c now t ways .rebuilding = t.refuse 0x18 .rebuilding :=
  Turn.insert_rebuilding (kit := i.kit) (ways := ways) (place := placeRestored i c now)

theorem workRestore_looks {t : Turn} (running : t.s.now = some now) : workRestore i t =
    restoreLooked i (t.s.tariffClass i.cls.toNat) now (t.lookup i.kit).1 (t.lookup i.kit).2.1 (t.lookup i.kit).2.2 := by
  rw [workRestore, Turn.withClock_some running]
  rfl

/-- The work of a RESTORE turn whose lookup reads a sound bucket. -/
theorem restoreTurn_work (h : s.commandTurnFor (.restore i)) (running : s.now = some now)
    (sound : (s.bucket (homeBucket i.kit)).broken = false) :
    ∃ t, Looked (s.begins .command) t .command (some (homeBucket i.kit))
      ∧ (RecordCommand.restore i).work (Turn.start .command (s.begins .command)) =
        restoreLooked i (s.tariffClass i.cls.toNat) now t (s.bucket (homeBucket i.kit)).values (s.looksUp i.kit) := by
  obtain ⟨t, lookup, looked⟩ := Turn.lookup_of_sound (s := s.begins .command) h.1 .command (kit := i.kit) sound
  refine ⟨t, looked, ?_⟩
  rw [RecordCommand.work, workRestore_looks (t := Turn.start .command (s.begins .command)) running, lookup]
  rfl

/-- The refusals of RESTORE that write nothing, after its lookup. -/
theorem restoreTurn_refused (h : s.commandTurnFor (.restore i)) (running : s.now = some now)
    (sound : (s.bucket (homeBucket i.kit)).broken = false) {st : Status}
    (refused : ∀ t, Looked (s.begins .command) t .command (some (homeBucket i.kit)) →
      restoreLooked i (s.tariffClass i.cls.toNat) now t (s.bucket (homeBucket i.kit)).values (s.looksUp i.kit) =
        t.refuse 0x18 st) :
    ∃ v, exec .commandTurn s = .next v ∧ LookupLeaves s v (some (homeBucket i.kit)) ∧ v.link = s.link
      ∧ v.engine.checkInSearch = s.engine.checkInSearch ∧ v.finishedWith 0x18 st [] := by
  obtain ⟨t, looked, work⟩ := restoreTurn_work h running sound
  exact commandTurn_lookedAnswer h looked (work.trans (refused t looked))

/-- RESTORE in a new slot (R93). -/
theorem restoreTurn_placed (h : s.commandTurnFor (.restore i)) (running : s.now = some now) (good : badImage i = false)
    (sound : (s.bucket (homeBucket i.kit)).broken = false) (absent : s.looksUp i.kit = .absent)
    (room : s.newPlace i.kit ≠ .nowhere) {slot : Nat} (taken : s.allocate = some slot)
    (fits : ¬1048575 < (restoredRecord i (s.tariffClass i.cls.toNat) now 0).reserve) :
    let r := restoredRecord i (s.tariffClass i.cls.toNat) now 0
    ∃ t, exec .commandTurn s = .next t
      ∧ Places s t (s.newPlace i.kit) slot ⟨imageLifecycle i, false, s.newPlace i.kit, r.marks.any⟩ r
      ∧ t.finishedWith 0x18 .ok (restoreBytes slot true (imageLifecycle i) r (s.tariffClass i.cls.toNat) now) := by
  intro r
  obtain ⟨t, looked, work⟩ := restoreTurn_work h running sound
  rw [absent, restoreLooked_absent, looked.insert_placed (u := s.begins .command) Lookup.absent_ne_rebuilding room taken,
    placeRestored] at work
  rw [if_neg fits] at work
  have keeps := commandTurn_keeps s (.restore i)
  have row := exec_commandTurn h
  rw [State.turn, work] at keeps row
  obtain ⟨free, _⟩ := State.isOpen_of_allocate taken
  obtain ⟨places, finished⟩ := looked.places (r := r) (u := s.begins .command) free (imageLifecycle_ne_free good) keeps
  exact ⟨_, row, places, finished⟩

/-- RESTORE in place, DAMAGED or not (R93). -/
theorem restoreTurn_inPlace (h : s.commandTurnFor (.restore i)) (running : s.now = some now)
    (sound : (s.bucket (homeBucket i.kit)).broken = false) {slot : Nat} (found : s.looksUp i.kit = .found slot) :
    let c := s.tariffClass i.cls.toNat
    let r := restoredRecord i c now (s.reading slot).drift
    let tag := s.tagRead slot
    ∃ t, exec .commandTurn s = .next t ∧
      if 1048575 < r.reserve then CommandLeaves s t slot tag (s.reading slot) .read (some (homeBucket i.kit)) 0x18 .creditFull []
      else CommandLeaves s t slot ⟨imageLifecycle i, false, tag.location, r.marks.any⟩ r .written (some (homeBucket i.kit))
        0x18 .ok (restoreBytes slot false (imageLifecycle i) r c now) := by
  intro c r tag
  obtain ⟨t, looked, work⟩ := restoreTurn_work h running sound
  obtain ⟨record, on⟩ := looked.readOn slot
  rw [found, restoreLooked, Turn.restoreInPlace] at work
  dsimp only at work
  have reading : (s.begins .command).reading slot = s.reading slot := rfl
  have tagRead : (t.readLive slot true).1.s.tag slot = s.tagRead slot := on.on.tag
  rw [record, reading, tagRead] at work
  by_cases over' : 1048575 < r.reserve
  · simp only [if_pos over']
    refine commandTurn_answers h ?_
    rw [work, if_pos over']
    exact on.answers 0x18 .creditFull []
  · simp only [if_neg over']
    refine commandTurn_answers h ?_
    rw [work, if_neg over']
    exact ⟨_, on.on.put r _, on.read.congr rfl rfl rfl, rfl⟩

end

/-- Settles O37: RESTORE's refusals in their order, in place or in a new slot, and the record it writes. -/
theorem restoreTurn : Obligations.RestoreTurn := by
  refine ⟨fun s i now turn running good sound => ?_, fun i c now drift good => ⟨imageLifecycle_code good,
    restoredRecord_eq good c now drift⟩, fun slot new lc r c now => rfl⟩
  dsimp only
  have refused {st : Status} := restoreTurn_refused turn running sound (st := st)
  cases looks : s.lookupEnd (s.bucket (homeBucket i.kit)).values i.kit with
  | found slot =>
    obtain ⟨t, row, leaves⟩ := restoreTurn_inPlace turn running sound looks
    exact ⟨t, row, fun _ => leaves⟩
  | rebuilding =>
    refine refused fun t looked => ?_
    rw [State.looksUp, looks, restoreLooked_rebuilding]
  | absent =>
    dsimp only
    by_cases full : s.newPlace i.kit = .nowhere
    · simp only [if_pos full]
      refine refused fun t looked => ?_
      rw [State.looksUp, looks, restoreLooked_absent]
      exact looked.insert_full (u := s.begins .command) Lookup.absent_ne_rebuilding full
    simp only [if_neg full]
    cases taken : s.allocate with
    | none =>
      refine refused fun t looked => ?_
      rw [State.looksUp, looks, restoreLooked_absent]
      exact looked.insert_tableFull (u := s.begins .command) Lookup.absent_ne_rebuilding full taken
    | some slot =>
      dsimp only
      by_cases over' : 1048575 < (restoredRecord i (s.tariffClass i.cls.toNat) now 0).reserve
      · simp only [if_pos over']
        refine refused fun t looked => ?_
        rw [State.looksUp, looks, restoreLooked_absent,
          looked.insert_placed (u := s.begins .command) Lookup.absent_ne_rebuilding full taken]
        exact if_pos over'
      · simp only [if_neg over']
        exact restoreTurn_placed turn running good sound looks full taken over'

end Sys2Proof.Machine
end

section
/-! PROOFS. The read of a live slot in any turn (R147 to R150, R157). -/

namespace Sys2Proof.Machine

set_option Elab.async false

/-- A slot has been read by a turn through the correction code, with or without the write-back (R147 to R149, R157). -/
structure LiveRead (t : Turn) (slot : Nat) (wb : Bool) (t' : Turn) : Prop where
  whose : t'.who = t.who
  wf : Memory.wf t'.s
  frame : t'.s = { t.s with
    memory := t'.s.memory
    integrity := { t'.s.integrity with dirCorrected := t.s.integrity.dirCorrected, armed := t.s.integrity.armed }
    engine := { t.s.engine with damaged := t.s.engine.damaged + oneIf (t.s.newlyDamaged slot) } }
  ways : t'.ways = t.ways
  tag : ∀ x, t'.s.tag x = if x = slot then t.s.tagRead slot else t.s.tag x
  body : ∀ x, t'.s.body x =
    if x = slot ∧ (wb && t.s.corrects slot) = true then ⟨t.s.reading slot, t.s.reading slot, []⟩ else t.s.body x
  bodies : t'.bodies = if (wb && t.s.corrects slot) = true then slot :: t.bodies else t.bodies
  bank : ∀ b, t'.s.bank b = if b = bankIndex slot ∧ t.s.corrects slot = true then
    { t.s.bank b with corrected := bump (t.s.bank b).corrected } else t.s.bank b
  bankFlag : t'.s.memory.bankFlag = t.s.memory.bankFlag
  errors : FeedsErrors t.s t'.s (t.s.errorsAt slot) t.who t.s.now

section
variable {t : Turn} {slot : Nat} {wb : Bool}

theorem State.tag_eq_tagRead {s : State} (quiet : s.newlyDamaged slot = false) (x : Nat) :
    s.tag x = if x = slot then s.tagRead slot else s.tag x := by
  split
  · next here => rw [here, State.tagRead_of_not_newlyDamaged quiet]
  · rfl

theorem State.errorsAt_of_quiet {s : State} (quiet : s.newlyDamaged slot = false) : s.errorsAt slot = [] := by
  rw [State.errorsAt, quiet, if_neg Bool.false_ne_true]

/-- A read that corrects (R148). -/
theorem Turn.readLive_corrects (wf : Memory.wf t.s) (corrects : t.s.corrects slot = true) :
    LiveRead t slot wb (t.readLive slot wb).1 := by
  have quiet := State.newlyDamaged_of_corrects corrects
  have wf' : Memory.wf (t.countCorrected (bankIndex slot)).s := (Turn.countCorrected_keeps t _).wf wf
  have bank (x : Fin 4) : (t.countCorrected (bankIndex slot)).s.bank x =
      if x = bankIndex slot ∧ t.s.corrects slot = true then { t.s.bank x with corrected := bump (t.s.bank x).corrected }
      else t.s.bank x := by
    refine (t.s.bank_setBank (bankIndex slot) x _).trans ?_
    rw [corrects]
    simp only [and_true]
    split
    · next here => rw [here]
    · rfl
  have engine : t.s.engine = { t.s.engine with damaged := t.s.engine.damaged + oneIf (t.s.newlyDamaged slot) } := by
    rw [quiet]
    rfl
  have errors : FeedsErrors t.s t.s (t.s.errorsAt slot) t.who t.s.now := by
    rw [State.errorsAt_of_quiet quiet]
    exact feedsErrors_nil ⟨rfl, rfl, rfl⟩ _ _
  rw [Turn.readLive_turn, if_pos corrects]
  cases wb with
  | true =>
    rw [if_pos rfl]
    refine ⟨rfl, (Turn.putBody_keeps _ slot _).wf wf', ?_, rfl, State.tag_eq_tagRead quiet, fun x => ?_, ?_, bank, rfl, errors⟩
    · rw [← engine]
      rfl
    · rw [Bool.true_and, corrects]
      simp only [and_true]
      exact Turn.body_putBody wf' slot _ x
    · rw [Bool.true_and, if_pos corrects]
      rfl
  | false =>
    rw [if_neg Bool.false_ne_true]
    refine ⟨rfl, wf', ?_, rfl, State.tag_eq_tagRead quiet, fun x => ?_, ?_, bank, rfl, errors⟩
    · rw [← engine]
      rfl
    · rw [Bool.false_and, if_neg fun both => Bool.false_ne_true both.2]
      rfl
    · rw [Bool.false_and, if_neg Bool.false_ne_true]
      rfl

theorem feedError_apart (x : State) (place : ErrorPlace) (who : Requester) : x.feedError place who = { x with
    memory := (x.feedError place who).memory
    engine := (x.feedError place who).engine
    integrity := { (x.feedError place who).integrity with
      dirCorrected := x.integrity.dirCorrected, armed := x.integrity.armed } } := by
  unfold State.feedError
  split
  · rfl
  · split <;> rfl

/-- A read that finds the slot uncorrectable (R149). -/
theorem Turn.readLive_damages (wf : Memory.wf t.s) (damages : t.s.newlyDamaged slot = true) :
    LiveRead t slot wb (t.readLive slot wb).1 := by
  have uncorrected := State.corrects_of_newlyDamaged damages
  have undamaged : (t.s.tag slot).damaged = false := by
    cases damaged : (t.s.tag slot).damaged with
    | false => rfl
    | true =>
      rw [State.newlyDamaged, damaged] at damages
      cases damages
  obtain ⟨memory, dir, engine, armed, counted⟩ :=
    feedError_memory_dir (t.s.putTag slot { t.s.tag slot with damaged := true }) (.record slot) t.who
  have frame := feedError_apart (t.s.putTag slot { t.s.tag slot with damaged := true }) (.record slot) t.who
  have tags (x : Nat) : (t.damage slot).s.tag x = if x = slot then { t.s.tag slot with damaged := true } else t.s.tag x :=
    (congrArg (fun m : RecordMemory => cellRead Tag.cleared m.tags x) memory).trans (State.tag_putTag wf slot _ x)
  have bodies (x : Nat) : (t.damage slot).s.body x = t.s.body x :=
    (congrArg (fun m : RecordMemory => cellRead StoredBody.cleared m.bodies x) memory).trans rfl
  have bank (x : Fin 4) : (t.damage slot).s.bank x = t.s.bank x := by
    refine (congrArg (fun m : RecordMemory => m.banks.get x) memory).trans ((State.bank_putTag _ _ _ x).trans ?_)
    split
    · dsimp only
      rw [Nat.add_sub_cancel]
    · rfl
  have engine' : (t.damage slot).s.engine = { t.s.engine with
      damaged := t.s.engine.damaged + oneIf (t.s.newlyDamaged slot) } := by
    refine engine.trans ?_
    rw [damages]
    show RecordEngine.recount _ _ _ = _
    unfold RecordEngine.recount
    simp only [adjusted_self, undamaged]
    rfl
  have fed := feedError_feeds (t.s.putTag slot { t.s.tag slot with damaged := true }) (.record slot) t.who
  have whole : (t.damage slot).s = { t.s with
      memory := (t.damage slot).s.memory
      integrity := { (t.damage slot).s.integrity with
        dirCorrected := t.s.integrity.dirCorrected, armed := t.s.integrity.armed }
      engine := { t.s.engine with damaged := t.s.engine.damaged + oneIf (t.s.newlyDamaged slot) } } := by
    rw [← engine']
    exact frame
  rw [Turn.readLive_turn, if_neg (by rw [uncorrected]; exact nofun), if_pos damages]
  refine ⟨rfl, (Turn.damage_keeps t slot).wf wf, whole, rfl, fun x => ?_, fun x => ?_, ?_, fun b => ?_,
    (congrArg RecordMemory.bankFlag memory).trans rfl, ?_⟩
  · rw [tags, State.tagRead_of_newlyDamaged damages]
  · rw [uncorrected, Bool.and_false, if_neg fun both => Bool.false_ne_true both.2, bodies]
  · rw [uncorrected, Bool.and_false, if_neg Bool.false_ne_true]
    rfl
  · rw [uncorrected, if_neg fun both => Bool.false_ne_true both.2, bank]
  · rw [State.errorsAt_of_newlyDamaged damages]
    exact fed

/-- A read that changes nothing. -/
theorem Turn.readLive_quiet (wf : Memory.wf t.s) (uncorrected : t.s.corrects slot = false)
    (quiet : t.s.newlyDamaged slot = false) : LiveRead t slot wb (t.readLive slot wb).1 := by
  rw [Turn.readLive_turn, if_neg (by rw [uncorrected]; exact nofun), if_neg (by rw [quiet]; exact nofun)]
  refine ⟨rfl, wf, ?_, rfl, State.tag_eq_tagRead quiet, fun x => ?_, ?_, fun b => ?_, rfl, ?_⟩
  · rw [quiet]
    rfl
  · rw [uncorrected, Bool.and_false, if_neg fun both => Bool.false_ne_true both.2]
  · rw [uncorrected, Bool.and_false, if_neg Bool.false_ne_true]
  · rw [uncorrected, if_neg fun both => Bool.false_ne_true both.2]
  · rw [State.errorsAt_of_quiet quiet]
    exact feedsErrors_nil ⟨rfl, rfl, rfl⟩ _ _

theorem Turn.readLive_read (wf : Memory.wf t.s) (slot : Nat) (wb : Bool) : LiveRead t slot wb (t.readLive slot wb).1 := by
  cases corrects : t.s.corrects slot with
  | true => exact Turn.readLive_corrects wf corrects
  | false =>
    cases damages : t.s.newlyDamaged slot with
    | true => exact Turn.readLive_damages wf damages
    | false => exact Turn.readLive_quiet wf corrects damages

end

end Sys2Proof.Machine
end

section
/-! PROOFS. The slots a search step examines (R65). -/

namespace Sys2Proof.Machine

set_option Elab.async false

/-! ## Slots read one after the other -/

/-- The corrected count of a bank after the reads of these slots (R148). -/
def State.correctedBy (u : State) (read : List Nat) (b : Fin 4) : Nat :=
  countedOn (u.bank b).corrected (read.filter fun x => decide (bankIndex x = b) && u.corrects x).length

/-- A turn of `u` has read these slots, with their write-backs, corrections and errors, and has done nothing else. -/
structure SlotsRead (u : State) (t : Turn) (who : Requester) (read : List Nat) : Prop where
  whose : t.who = who
  wf : Memory.wf t.s
  frame : t.s = { u with
    memory := t.s.memory
    integrity := { t.s.integrity with dirCorrected := u.integrity.dirCorrected, armed := u.integrity.armed }
    engine := { u.engine with damaged := u.engine.damaged + (read.filter u.newlyDamaged).length } }
  ways : t.ways = []
  tag : ∀ x, t.s.tag x = if x ∈ read then u.tagRead x else u.tag x
  body : ∀ x, t.s.body x = if x ∈ read.filter u.corrects then ⟨u.reading x, u.reading x, []⟩ else u.body x
  bodies : ∀ x, x ∈ t.bodies ↔ x ∈ read.filter u.corrects
  bank : ∀ b, t.s.bank b = { u.bank b with corrected := u.correctedBy read b }
  bankFlag : t.s.memory.bankFlag = u.memory.bankFlag
  errors : FeedsErrors u t.s ((read.filter u.newlyDamaged).map .record) who u.now

section
variable {u : State} {t : Turn} {who : Requester} {read : List Nat} {x : Nat}

theorem SlotsRead.start (wf : Memory.wf u) (who : Requester) : SlotsRead u (Turn.start who u) who [] :=
  ⟨rfl, wf, rfl, rfl, fun _ => rfl, fun _ => rfl, fun _ => Iff.rfl, fun _ => rfl, rfl, feedsErrors_nil ⟨rfl, rfl, rfl⟩ _ _⟩

theorem SlotsRead.now (h : SlotsRead u t who read) : t.s.now = u.now := by
  rw [h.frame]
  rfl

/-- A slot not read so far holds what the state holds. -/
theorem SlotsRead.finds (h : SlotsRead u t who read) (fresh : x ∉ read) : t.s.tagRead x = u.tagRead x
    ∧ t.s.reading x = u.reading x ∧ t.s.corrects x = u.corrects x ∧ t.s.newlyDamaged x = u.newlyDamaged x := by
  have tag : t.s.tag x = u.tag x := (h.tag x).trans (if_neg fresh)
  have body : t.s.body x = u.body x := (h.body x).trans (if_neg fun mem => fresh (List.mem_of_mem_filter mem))
  have newly : t.s.newlyDamaged x = u.newlyDamaged x := by rw [State.newlyDamaged, State.newlyDamaged, tag, body]
  refine ⟨?_, ?_, ?_, newly⟩
  · rw [State.tagRead, State.tagRead, tag, newly]
  · rw [State.reading, State.reading, tag, body]
  · rw [State.corrects, State.corrects, tag, body]

theorem filter_concat_length (p : Nat → Bool) (l : List Nat) (x : Nat) :
    ((l ++ [x]).filter p).length = (l.filter p).length + oneIf (p x) := by
  rw [List.filter_append, List.length_append, List.filter_singleton]
  cases p x <;> rfl

/-- One more slot is read. -/
theorem SlotsRead.readLive (h : SlotsRead u t who read) (fresh : x ∉ read) :
    (t.readLive x true).2 = u.reading x ∧ SlotsRead u (t.readLive x true).1 who (read ++ [x]) := by
  obtain ⟨tagRead, reading, corrects, newly⟩ := h.finds fresh
  have one := Turn.readLive_read h.wf x true
  rw [Turn.readLive_record]
  generalize (t.readLive x true).1 = t' at one ⊢
  obtain ⟨whose, wf, frame, ways, tag, body, bodies, bank, flag, errors⟩ := one
  rw [tagRead] at tag
  rw [reading, corrects, Bool.true_and] at body
  rw [corrects, Bool.true_and] at bodies
  rw [corrects] at bank
  rw [newly] at frame
  have here (y : Nat) : y ∈ (read ++ [x]).filter u.corrects ↔
      y = x ∧ u.corrects x = true ∨ y ∈ read.filter u.corrects := by
    rw [List.mem_filter, List.mem_filter, List.mem_append, List.mem_singleton]
    constructor
    · rintro ⟨old | rfl, holds⟩
      · exact .inr ⟨old, holds⟩
      · exact .inl ⟨rfl, holds⟩
    · rintro (⟨rfl, holds⟩ | ⟨old, holds⟩)
      · exact ⟨.inr rfl, holds⟩
      · exact ⟨.inl old, holds⟩
  refine ⟨reading, whose.trans h.whose, wf, ?_, ways.trans h.ways, fun y => ?_, fun y => ?_, fun y => ?_, fun b => ?_,
    flag.trans h.bankFlag, ?_⟩
  · rw [filter_concat_length]
    refine frame.trans ?_
    rw [h.frame]
    simp only [Nat.add_assoc]
  · rw [tag, h.tag]
    simp only [List.mem_append, List.mem_singleton]
    by_cases same : y = x
    · rw [if_pos same, if_pos (.inr same), same]
    · simp only [same, if_false, or_false]
  · rw [body, h.body]
    simp only [here]
    by_cases same : y = x ∧ u.corrects x = true
    · rw [if_pos same, if_pos (.inl same), same.1]
    · simp only [same, if_false, false_or]
  · rw [here, ← h.bodies, bodies]
    split
    · next holds =>
      rw [List.mem_cons, holds]
      simp only [and_true]
    · next fails => exact ⟨.inr, fun either => either.resolve_left fun both => fails both.2⟩
  · rw [bank, h.bank, State.correctedBy, State.correctedBy, filter_concat_length]
    by_cases counts : b = bankIndex x ∧ u.corrects x = true
    · rw [if_pos counts, counts.2, decide_eq_true counts.1.symm]
      dsimp only
      rw [bump_countedOn]
      rfl
    · rw [if_neg counts]
      have none : (decide (bankIndex x = b) && u.corrects x) = false := by
        rw [Bool.and_eq_false_iff, decide_eq_false_iff_not, ← Bool.not_eq_true, ← not_and_or]
        exact fun both => counts ⟨both.1.symm, both.2⟩
      rw [none]
      rfl
  · have fed : FeedsErrors t.s t'.s (u.errorsAt x) who u.now := by
      have same : t.s.errorsAt x = u.errorsAt x := by rw [State.errorsAt, State.errorsAt, newly]
      rw [same, h.whose, h.now] at errors
      exact errors
    have list : ((read ++ [x]).filter u.newlyDamaged).map ErrorPlace.record =
        (read.filter u.newlyDamaged).map .record ++ u.errorsAt x := by
      rw [List.filter_append, List.map_append, List.filter_singleton, State.errorsAt]
      cases u.newlyDamaged x <;> rfl
    rw [list]
    exact h.errors.append fed

end

/-! ## The slots of a step -/

section
variable {u : State} {kit : KitId}

/-- A slot whose body a search step reads (R65). -/
def State.searchable (u : State) (x : Nat) : Bool := decide ((u.tag x).lifecycle ≠ .free) && !(u.tag x).damaged

/-- A slot that is the one sought (R65). -/
def State.isSought (u : State) (kit : KitId) (x : Nat) : Bool :=
  u.searchable x && !u.newlyDamaged x && decide ((u.reading x).kit = kit)

/-- The slots that a search step reads of those in order, up to its match (R65). -/
def State.readUntil (u : State) (kit : KitId) : List Nat → List Nat
  | [] => []
  | x :: xs => if u.isSought kit x then [x] else if u.searchable x then x :: u.readUntil kit xs else u.readUntil kit xs

theorem State.isSought_searchable {x : Nat} (h : u.isSought kit x = true) : u.searchable x = true := by
  rw [State.isSought, Bool.and_eq_true, Bool.and_eq_true] at h
  exact h.1.1

/-- In rising order the slots read are those up to the match that a step reads at all. -/
theorem State.readUntil_eq {xs : List Nat} (rising : xs.Pairwise (· < ·)) : u.readUntil kit xs =
    xs.filter fun x => u.searchable x && (xs.find? (u.isSought kit)).all fun h => decide (x ≤ h) := by
  induction xs with
  | nil => rfl
  | cons x xs ih =>
    obtain ⟨above, rising⟩ := List.pairwise_cons.1 rising
    rw [State.readUntil]
    by_cases sought : u.isSought kit x = true
    · rw [if_pos sought, List.find?_cons_of_pos sought, List.filter_cons_of_pos (by simp [State.isSought_searchable sought])]
      congr 1
      refine (List.filter_eq_nil_iff.2 fun y mem => ?_).symm
      have less := above y mem
      simp only [Option.all_some, Bool.and_eq_true, decide_eq_true_eq, not_and]
      omega
    · rw [if_neg sought, List.find?_cons_of_neg sought]
      have first : (xs.find? (u.isSought kit)).all (fun h => decide (x ≤ h)) = true := by
        cases found : xs.find? (u.isSought kit) with
        | none => rfl
        | some h => exact decide_eq_true (Nat.le_of_lt (above h (List.mem_of_find?_eq_some found)))
      split
      · next reads => rw [List.filter_cons_of_pos (by rw [reads, first]; rfl), ih rising]
      · next passes => rw [List.filter_cons_of_neg (by rw [Bool.eq_false_iff.2 passes, Bool.false_and]; exact nofun), ih rising]

/-- A step that has its match examines no more. -/
theorem foldl_searchSlot_found (t : Turn) (x : Nat) (xs : List Nat) :
    xs.foldl (searchSlot kit) (t, some x) = (t, some x) := by
  induction xs with
  | nil => rfl
  | cons y ys ih => exact ih

/-- One slot examined, by what its tag and its read say (R65). -/
theorem searchSlot_none {t : Turn} {x : Nat} : searchSlot kit (t, none) x =
    if (t.s.tag x).lifecycle = .free ∨ (t.s.tag x).damaged = true then (t, none)
    else if ((t.readLive x true).1.s.tag x).damaged = true then ((t.readLive x true).1, none)
    else if (t.readLive x true).2.kit = kit then ((t.readLive x true).1, some x) else ((t.readLive x true).1, none) := rfl

/-- What a step's slots come to, from a turn that has read others (R65). -/
theorem foldl_searchSlot {who : Requester} (xs : List Nat) : ∀ {t : Turn} {read : List Nat},
    SlotsRead u t who read → xs.Nodup → (∀ x ∈ xs, x ∉ read) →
    ∃ t', xs.foldl (searchSlot kit) (t, none) = (t', xs.find? (u.isSought kit))
      ∧ SlotsRead u t' who (read ++ u.readUntil kit xs) := by
  induction xs with
  | nil =>
    intro t read h _ _
    refine ⟨t, rfl, ?_⟩
    rw [State.readUntil, List.append_nil]
    exact h
  | cons x xs ih =>
    intro t read h distinct fresh
    obtain ⟨new, distinct⟩ := List.nodup_cons.1 distinct
    have freshX := fresh x List.mem_cons_self
    have freshXs : ∀ y ∈ xs, y ∉ read := fun y mem => fresh y (List.mem_cons_of_mem _ mem)
    have tag : t.s.tag x = u.tag x := (h.tag x).trans (if_neg freshX)
    rw [List.foldl_cons, searchSlot_none, tag, State.readUntil]
    by_cases passes : (u.tag x).lifecycle = .free ∨ (u.tag x).damaged = true
    · have passed : u.searchable x = false := by
        rw [State.searchable, Bool.and_eq_false_iff, decide_eq_false_iff_not, Bool.not_eq_false', ne_eq, not_not]
        exact passes
      have unsought : ¬u.isSought kit x = true := fun sought => by
        rw [State.isSought_searchable sought] at passed
        cases passed
      rw [if_pos passes, List.find?_cons_of_neg unsought, if_neg unsought, if_neg (by rw [passed]; exact nofun)]
      exact ih h distinct freshXs
    · obtain ⟨live, undamaged⟩ := not_or.1 passes
      have reads : u.searchable x = true := by
        rw [State.searchable, decide_eq_true live, Bool.eq_false_iff.2 undamaged]
        rfl
      obtain ⟨reading, one⟩ := h.readLive freshX
      have later : ∀ y ∈ xs, y ∉ read ++ [x] := fun y mem both => (List.mem_append.1 both).elim (freshXs y mem) fun last =>
        new (List.mem_singleton.1 last ▸ mem)
      have found : ((t.readLive x true).1.s.tag x).damaged = u.newlyDamaged x := by
        rw [one.tag, if_pos (List.mem_append_right _ List.mem_cons_self), State.tagRead, Bool.eq_false_iff.2 undamaged]
        rfl
      have sought : u.isSought kit x = true ↔ ¬u.newlyDamaged x = true ∧ (u.reading x).kit = kit := by
        rw [State.isSought, reads, Bool.true_and, Bool.and_eq_true, Bool.not_eq_true', decide_eq_true_eq, Bool.eq_false_iff]
      rw [if_neg passes, found, reading, if_pos reads]
      have goesOn (unsought : ¬u.isSought kit x = true) :
          ∃ t', xs.foldl (searchSlot kit) ((t.readLive x true).1, none) = (t', (x :: xs).find? (u.isSought kit))
            ∧ SlotsRead u t' who (read ++ if u.isSought kit x then [x] else x :: u.readUntil kit xs) := by
        obtain ⟨t', fold, slots⟩ := ih one distinct later
        rw [List.append_assoc, List.singleton_append] at slots
        rw [List.find?_cons_of_neg unsought, if_neg unsought]
        exact ⟨t', fold, slots⟩
      by_cases damages : u.newlyDamaged x = true
      · rw [if_pos damages]
        exact goesOn fun both => (sought.1 both).1 damages
      rw [if_neg damages]
      by_cases same : (u.reading x).kit = kit
      · have match' := sought.2 ⟨damages, same⟩
        rw [if_pos same, foldl_searchSlot_found, List.find?_cons_of_pos match', if_pos match']
        exact ⟨_, rfl, one⟩
      · rw [if_neg same]
        exact goesOn fun both => same (sought.1 both).2

end

end Sys2Proof.Machine
end

section
/-! PROOFS. A search step's turn, before and after its write (R65, R72, R75). -/

namespace Sys2Proof.Machine

set_option Elab.async false

/-! ## The step's examination -/

/-- The slots of a step (R65). -/
abbrev Search.slots (se : Search) : List Nat := (List.range 64).map (se.next + ·)

/-- The match of a step (R65). -/
def State.hitOf (u : State) (se : Search) : Option Nat := se.slots.find? (u.isSought se.kit)

/-- The slots a step reads (R65). -/
def State.readOf (u : State) (se : Search) : List Nat :=
  se.slots.filter fun x => u.searchable x && (u.hitOf se).all fun h => decide (x ≤ h)

theorem Search.slots_rising (se : Search) : se.slots.Pairwise (· < ·) :=
  List.pairwise_map.2 (List.pairwise_lt_range.imp fun less => Nat.add_lt_add_left less _)

theorem Turn.examine_read {u : State} (wf : Memory.wf u) (who : Requester) (se : Search) :
    ∃ t, (Turn.start who u).examine se = (t, u.hitOf se) ∧ SlotsRead u t who (u.readOf se) := by
  have distinct : se.slots.Nodup := (Search.slots_rising se).imp Nat.ne_of_lt
  obtain ⟨t, fold, slots⟩ := foldl_searchSlot (kit := se.kit) se.slots (SlotsRead.start wf who) distinct
    fun _ _ => List.not_mem_nil
  rw [List.nil_append, State.readUntil_eq (Search.slots_rising se)] at slots
  exact ⟨t, fold, slots⟩

theorem SlotsRead.undirected {u : State} {t : Turn} {who : Requester} {read : List Nat} (h : SlotsRead u t who read) :
    Undirected u t := ⟨by rw [h.frame], h.ways, by rw [h.frame]⟩

/-! ## The step before its end -/

/-- A step has read these slots and re-inserted its match, if it has to (R65). -/
structure Searched (u : State) (t : Turn) (who : Requester) (read : List Nat) (hit wiped : Option Nat)
    (written : List Nat) : Prop where
  wf : Memory.wf t.s
  link : t.s.link = u.link
  port : t.s.port = u.port
  sweep : t.s.sweep = u.sweep
  engine : t.s.engine = { u.engine with damaged := u.engine.damaged + (read.filter u.newlyDamaged).length }
  body : ∀ x, t.s.body x = if x ∈ read.filter u.corrects then ⟨u.reading x, u.reading x, []⟩ else u.body x
  bodies : ∀ x, x ∈ t.bodies ↔ x ∈ read.filter u.corrects
  tag : ∀ x, t.s.tag x = { (u.tag x).without wiped with
    damaged := (u.tag x).damaged || decide (x ∈ read.filter u.newlyDamaged)
    location := if hit = some x then (t.s.tag x).location else ((u.tag x).without wiped).location }
  bank : ∀ b, t.s.bank b = { u.bank b with corrected := u.correctedBy read b }
  bankFlag : t.s.memory.bankFlag = u.memory.bankFlag
  errors : FeedsErrors u t.s ((read.filter u.newlyDamaged).map .record ++ (wiped.map .directory).toList) who u.now
  armed : t.s.integrity.armed = u.integrity.armed
  ways : ∀ b, (∃ w, (b, w) ∈ t.ways) ↔ b ∈ written

section
variable {u : State} {t t' : Turn} {who : Requester} {read : List Nat}

theorem State.tagRead_eq {x : Nat} : (if x ∈ read then u.tagRead x else u.tag x) =
    { u.tag x with damaged := (u.tag x).damaged || decide (x ∈ read.filter u.newlyDamaged) } := by
  rw [State.tagRead]
  by_cases mem : x ∈ read
  · have newly : decide (x ∈ read.filter u.newlyDamaged) = u.newlyDamaged x := by
      simp only [List.mem_filter, mem, true_and, Bool.decide_eq_true]
    rw [if_pos mem, newly]
  · have none : decide (x ∈ read.filter u.newlyDamaged) = false :=
      decide_eq_false fun both => mem (List.mem_of_mem_filter both)
    rw [if_neg mem, none, Bool.or_false]

theorem SlotsRead.searched (h : SlotsRead u t who read) (hit : Option Nat) : Searched u t who read hit none [] := by
  have tag (x : Nat) := (h.tag x).trans State.tagRead_eq
  refine ⟨h.wf, by rw [h.frame], by rw [h.frame], by rw [h.frame], by rw [h.frame], h.body, h.bodies, fun x => ?_, h.bank,
    h.bankFlag, ?_, by rw [h.frame], fun b => ?_⟩
  · rw [tag, Tag.without_none]
    dsimp only
    rw [ite_self]
  · rw [Option.map_none, Option.toList_none, List.append_nil]
    exact h.errors
  · rw [h.ways]
    simp

/-- A tag that becomes DAMAGED loses its location in a wipe as it would else. -/
theorem Tag.without_damaged (tag : Tag) (damaged : Bool) (wiped : Option Nat) :
    { tag with damaged := damaged }.without wiped = { tag.without wiped with damaged := damaged } := by
  unfold Tag.without
  dsimp only
  split
  · split <;> rfl
  · rfl

theorem SlotsRead.searched_reinserted {kit : KitId} {home slot : Nat} {loc : Location} (h : SlotsRead u t who read)
    (nowhere : (u.tag slot).location = .nowhere) (re : Reinserted t slot kit home loc t') :
    Searched u t' who read (some slot) (u.wipedBy home) (u.entryWrites home) := by
  have ways : (t.s.bucket home).ways = (u.bucket home).ways :=
    congrArg (fun d : Directory => (cellRead Bucket.cleared d.buckets home).ways) h.undirected.dir
  have wiped := State.wipedBy_congr ways
  have tag (x : Nat) := (h.tag x).trans State.tagRead_eq
  obtain ⟨engine, link, port, sweep, _, _, armed⟩ := re.outside
  refine ⟨re.wf, link.trans (by rw [h.frame]), port.trans (by rw [h.frame]), sweep.trans (by rw [h.frame]),
    engine.trans (by rw [h.frame]), fun x => ?_, fun x => ?_, fun x => ?_, fun b => ?_, re.bank.2.trans h.bankFlag, ?_,
    armed.trans (by rw [h.frame]), fun b => ?_⟩
  · rw [re.body, h.body]
  · rw [re.bodies, h.bodies]
  · rw [re.tag]
    by_cases here : x = slot
    · rw [if_pos here, here, if_pos rfl, tag, Tag.without_of_nowhere nowhere]
    · rw [if_neg here, if_neg fun same => here (Option.some.inj same).symm, tag, wiped, Tag.without_damaged]
  · rw [re.bank.1, h.bank]
  · have errors := re.errors
    rw [wiped, h.whose, h.now] at errors
    exact h.errors.append errors
  · refine (re.ways b).trans ?_
    rw [h.ways, State.entryWrites_congr ways]
    exact ⟨fun mem => mem.resolve_left fun ⟨_, mem⟩ => absurd mem List.not_mem_nil, .inr⟩

end

/-! ## The step after its write -/

/-- What a search step leaves, but for the directory's entries and the search itself (R65, R75). -/
structure SearchEnds (u v : State) (who : Requester) (read : List Nat) (hit wiped : Option Nat) (written : List Nat) :
    Prop where
  sweep : v.sweep = u.sweep
  body : ∀ x, v.body x = if x ∈ read then u.bodyLeft x .read (u.reading x) else u.body x
  tag : ∀ x, v.tag x = { (u.tag x).without wiped with
    damaged := (u.tag x).damaged || decide (x ∈ read.filter u.newlyDamaged)
    location := if hit = some x then (v.tag x).location else ((u.tag x).without wiped).location }
  bank : ∀ b, v.bank b = { u.bank b with corrected := u.correctedBy read b }
  bankFlag : v.memory.bankFlag = u.memory.bankFlag
  errors : FeedsErrors u v ((read.filter u.newlyDamaged).map .record ++ (wiped.map .directory).toList) who u.now
  armed : v.integrity.armed = u.armedLeft (read.filter u.corrects) written
  begun : v.engine.begun = none
  engine : v.engine = { u.engine with
    waits := v.engine.waits, consecutive := v.engine.consecutive, begun := none
    damaged := u.engine.damaged + (read.filter u.newlyDamaged).length, held := v.engine.held
    commandSearch := v.engine.commandSearch, checkInSearch := v.engine.checkInSearch }

section
variable {u : State} {t : Turn} {who : Requester} {read : List Nat} {hit wiped : Option Nat} {written : List Nat}
  {f : State → State}

theorem Searched.ends (h : Searched u t who read hit wiped written) (aside : Aside t.s (f t.s))
    (cursor : (f t.s).engine.fetchCursor = t.s.engine.fetchCursor) (dropped : u.engine.begun = none) :
    SearchEnds u (t.map f).write.settle who read hit wiped written := by
  have closes := aside.closes
  have wf := closes.wf h.wf
  have armed : (t.map f).s.integrity.armed = u.integrity.armed := (congrArg Integrity.armed closes.integrity).trans h.armed
  have written' : (t.map f).write.engine = (f t.s).engine := Turn.write_engine _
  have engine := aside.engine
  rw [cursor, h.engine] at engine
  have begun : (t.map f).write.settle.engine.begun = none := by
    rw [State.settle_engine, written', engine]
    dsimp only
    rw [dropped]
    rfl
  refine ⟨(Turn.write_sweep (t.map f)).trans (aside.sweep.trans h.sweep), fun x => ?_, fun x => ?_,
    fun b => (closes.bank b).trans (h.bank b), closes.bankFlag.trans h.bankFlag, closes.errors h.errors, ?_, begun, ?_⟩
  · have body := (closes.body x).trans (h.body x)
    by_cases carried : x ∈ read.filter u.corrects
    · obtain ⟨mem, corrects⟩ := List.mem_filter.1 carried
      have writes : u.writesBody x .read = true := corrects
      rw [if_pos carried] at body
      rw [if_pos mem, State.bodyLeft, if_pos writes]
      refine (Turn.write_body_carried (t := t.map f) wf ((h.bodies x).2 carried) body).trans ?_
      rw [State.bodyWritten, State.bodyWritten, armed]
    · rw [if_neg carried] at body
      refine ((Turn.write_body_other (t := t.map f) wf fun mem => carried ((h.bodies x).1 mem)).trans body).trans ?_
      split
      · next mem =>
        have unwritten : ¬u.writesBody x .read = true := fun corrects => carried (List.mem_filter.2 ⟨mem, corrects⟩)
        rw [State.bodyLeft, if_neg unwritten]
      · rfl
  · rw [closes.tag]
    exact h.tag x
  · refine (closes.armed h.bodies h.ways).trans ?_
    rw [State.armedLeft, State.armedLeft, h.armed]
  · rw [State.settle_engine, written'] at begun ⊢
    rw [engine] at begun ⊢
    dsimp only at begun ⊢
    rw [begun]

end

end Sys2Proof.Machine
end

section
/-! PROOFS. The search step of a command or of a check-in (R65). -/

namespace Sys2Proof.Machine

set_option Elab.async false

/-! ## The row -/

section
variable {s u : State} {owner : Requester} {se : Search}

theorem exec_searchStep_of (granted : s.arbiter = some owner) (search : s.searchOf owner = some se) (unfound : se.found = none) :
    exec .searchStep s = .next (s.turn owner (workSearchStep owner se)) := by
  obtain ⟨kit, home, next, found⟩ := se
  cases unfound
  simp [exec, execSearchStep, granted, search]

/-- What a step does once its slots are examined (R65). -/
def Turn.endsStep (t : Turn) (owner : Requester) (se : Search) (hit : Option Nat) : Turn :=
  match hit with
  | some slot => (t.reinsert slot se.kit se.home).map (·.putSearch owner (some { se with found := some slot }))
  | none =>
    if se.next + Config.searchSlots < Config.slots then
      t.map (·.putSearch owner (some { se with next := se.next + Config.searchSlots }))
    else t.searchFails owner

theorem searchStep_work (wf : Memory.wf u) (owner : Requester) (se : Search) :
    ∃ t, SlotsRead u t owner (u.readOf se) ∧ workSearchStep owner se (Turn.start owner u) = t.endsStep owner se (u.hitOf se) := by
  obtain ⟨t, examined, slots⟩ := Turn.examine_read wf owner se
  refine ⟨t, slots, ?_⟩
  unfold workSearchStep
  rw [examined]
  rfl

theorem putSearch_aside (s : State) (owner : Requester) (se : Option Search) : Aside s (s.putSearch owner se) := by
  cases owner <;> exact ⟨rfl, rfl, rfl, rfl, rfl, id⟩

theorem putSearch_cursor (s : State) (owner : Requester) (se : Option Search) :
    (s.putSearch owner se).engine.fetchCursor = s.engine.fetchCursor := by
  cases owner <;> rfl

/-- The match of a step is a live, undamaged slot that reads as the kit sought (R65). -/
theorem hitOf_eq_some {x : Nat} (hit : s.hitOf se = some x) : x ∈ s.readOf se ∧ s.newlyDamaged x = false := by
  have sought := List.find?_some hit
  have searchable := State.isSought_searchable sought
  rw [State.isSought, Bool.and_eq_true, Bool.and_eq_true, Bool.not_eq_true'] at sought
  refine ⟨List.mem_filter.2 ⟨List.mem_of_find?_eq_some hit, ?_⟩, sought.1.2⟩
  rw [hit, searchable]
  exact decide_eq_true (Nat.le_refl x)

/-- The tag of the match before its re-insertion. -/
theorem SlotsRead.hit_tag {t : Turn} (h : SlotsRead s t owner (s.readOf se)) {x : Nat} (hit : s.hitOf se = some x) :
    t.s.tag x = s.tag x := by
  obtain ⟨mem, quiet⟩ := hitOf_eq_some hit
  rw [h.tag, if_pos mem, State.tagRead_of_not_newlyDamaged quiet]

/-- The corrections of a step's bank, counted slot by slot (R148). -/
theorem correctedBy_readOf (s : State) (se : Search) (b : Fin 4) : s.correctedBy (s.readOf se) b =
    let singles := ((s.readOf se).filter fun x => decide (bankIndex x = b ∧ (s.body x).check = .single)).length
    if singles = 0 then (s.bank b).corrected else min ((s.bank b).corrected + singles) 65535 := by
  have same : ((s.readOf se).filter fun x => decide (bankIndex x = b) && s.corrects x) =
      (s.readOf se).filter fun x => decide (bankIndex x = b ∧ (s.body x).check = .single) := by
    refine List.filter_congr fun x mem => ?_
    have reads := (List.mem_filter.1 mem).2
    rw [State.searchable, Bool.and_eq_true, Bool.and_eq_true, Bool.not_eq_true'] at reads
    rw [State.corrects, reads.1.2, Bool.not_false, Bool.true_and, Bool.decide_and]
  rw [State.correctedBy, same]
  rfl

end

/-! ## What the step's end does beside records and directory -/

/-- What a step leaves of the work of the requester that does not own the search (R65, R75). -/
def OtherWork (s v : State) (owner : Requester) : Prop :=
  (owner = .command → v.engine.checkInSearch = s.engine.checkInSearch)
    ∧ (owner = .checkIn → v.engine.commandSearch = s.engine.commandSearch ∧ v.engine.held = s.engine.held)

/-- The owner's search after a step that does not end it, with the work of the other requester (R65, R75). -/
structure GoesOn (s v : State) (owner : Requester) (se : Search) : Prop where
  work : v.engine.held = s.engine.held ∧ v.port = s.port ∧ v.link = s.link
  command : owner = .command → v.engine.commandSearch = some se
  checkIn : owner = .checkIn → v.engine.checkInSearch = some se
  other : OtherWork s v owner

section
variable {s : State} {t : Turn} {owner : Requester} {se : Search} {read : List Nat} {hit wiped : Option Nat}
  {written : List Nat}

theorem Searched.goesOn (h : Searched (s.begins owner) t owner read hit wiped written)
    (ours : owner = .command ∨ owner = .checkIn) (se : Search) :
    GoesOn s (t.map (·.putSearch owner (some se))).write.settle owner se := by
  have engine : (t.map (·.putSearch owner (some se))).write.engine = (t.s.putSearch owner (some se)).engine :=
    Turn.write_engine _
  have link := Turn.write_link (t.map (·.putSearch owner (some se)))
  have port := Turn.write_port (t.map (·.putSearch owner (some se)))
  have command' := congrArg RecordEngine.commandSearch engine
  have checkIn' := congrArg RecordEngine.checkInSearch engine
  have held' := congrArg RecordEngine.held engine
  have held : t.s.engine.held = s.engine.held := (congrArg RecordEngine.held h.engine).trans rfl
  have command : t.s.engine.commandSearch = s.engine.commandSearch := (congrArg RecordEngine.commandSearch h.engine).trans rfl
  have checkIn : t.s.engine.checkInSearch = s.engine.checkInSearch := (congrArg RecordEngine.checkInSearch h.engine).trans rfl
  rcases ours with rfl | rfl
  · exact ⟨⟨held'.trans held, port.trans h.port, link.trans h.link⟩, fun _ => command', nofun,
      fun _ => checkIn'.trans checkIn, nofun⟩
  · exact ⟨⟨held'.trans held, port.trans h.port, link.trans h.link⟩, nofun, fun _ => checkIn', nofun,
      fun _ => ⟨command'.trans command, held'.trans held⟩⟩

theorem Searched.goesOn_ends (h : Searched (s.begins owner) t owner read hit wiped written) (se : Search) :
    SearchEnds (s.begins owner) (t.map (·.putSearch owner (some se))).write.settle owner read hit wiped written :=
  h.ends (f := (·.putSearch owner (some se))) (putSearch_aside _ _ _) (putSearch_cursor _ _ _) rfl

/-- The end of a search that has found no slot: the held command is answered, or the check-in is unknown (R64, R65). -/
theorem Searched.fails (h : Searched (s.begins owner) t owner read hit wiped written)
    (search : owner = .command ∧ s.engine.commandSearch = some se ∧ s.engine.held ≠ none
      ∨ owner = .checkIn ∧ s.engine.checkInSearch = some se) :
    ∃ f : State → State, t.searchFails owner = t.map f ∧ Aside t.s (f t.s)
      ∧ (f t.s).engine.fetchCursor = t.s.engine.fetchCursor ∧ OtherWork s (t.map f).write.settle owner
      ∧ (∀ c, owner = .command → s.engine.held = some c →
          (t.map f).write.settle.finishedWith c.code .notFound [] ∧ (t.map f).write.settle.link = s.link)
      ∧ (owner = .checkIn → (t.map f).write.settle.engine.checkInSearch = none ∧ (t.map f).write.settle.port = s.port
          ∧ (t.map f).write.settle.link = s.link.unknown) := by
  have held : t.s.engine.held = s.engine.held := (congrArg RecordEngine.held h.engine).trans rfl
  have command : t.s.engine.commandSearch = s.engine.commandSearch := (congrArg RecordEngine.commandSearch h.engine).trans rfl
  have checkIn : t.s.engine.checkInSearch = s.engine.checkInSearch := (congrArg RecordEngine.checkInSearch h.engine).trans rfl
  rcases search with ⟨rfl, _, some'⟩ | ⟨rfl, _⟩
  · obtain ⟨c, holds⟩ := Option.ne_none_iff_exists'.1 some'
    refine ⟨fun x => x.release.respond c.code .notFound [], searchFails_command (held.trans holds),
      answer_aside _ c.code .notFound [], rfl, ⟨fun _ => (t.answer_checkInSearch c.code .notFound []).trans checkIn, nofun⟩,
      fun c' _ here => ?_, nofun⟩
    rw [holds] at here
    cases here
    exact ⟨t.answer_finished c.code .notFound [], (t.answer_link c.code .notFound []).trans h.link⟩
  · have engine : (t.map State.searchUnknown).write.engine = t.s.searchUnknown.engine := Turn.write_engine _
    refine ⟨State.searchUnknown, searchFails_checkIn t, searchUnknown_aside _, rfl,
      ⟨nofun, fun _ => ⟨(congrArg RecordEngine.commandSearch engine).trans command,
        (congrArg RecordEngine.held engine).trans held⟩⟩, nofun, fun _ => ⟨congrArg RecordEngine.checkInSearch engine,
        (Turn.write_port _).trans h.port, (Turn.write_link _).trans ?_⟩⟩
    exact congrArg KitLink.unknown h.link

theorem Turn.endsStep_more (more : se.next + 64 < 4096) :
    t.endsStep owner se none = t.map (·.putSearch owner (some { se with next := se.next + 64 })) := if_pos more

theorem Turn.endsStep_last (last : ¬se.next + 64 < 4096) : t.endsStep owner se none = t.searchFails owner := if_neg last

/-- The directory of a step that writes no entry. -/
theorem SlotsRead.dir_kept {u : State} {f : State → State} (h : SlotsRead u t owner read) (aside : Aside t.s (f t.s)) :
    (t.map f).write.settle.dir = u.dir :=
  (Turn.write_dir_of_none (t := t.map f) h.ways).trans (aside.dir.trans h.undirected.dir)

end

/-- Settles O38: the slots examined, the match and its re-insertion, and the search without a match. -/
theorem searchStep : Obligations.SearchStep := by
  intro s owner se wf granted unfound search live isIt slots hit read damaged enters wiped next goesOn
  have ours : owner = .command ∨ owner = .checkIn := search.imp (·.1) (·.1)
  have searchOf : s.searchOf owner = some se := by
    rcases search with ⟨rfl, search, _⟩ | ⟨rfl, search⟩ <;> exact search
  have row := exec_searchStep_of granted searchOf unfound
  have keeps := (turn_keeps s owner (workSearchStep owner se) (workSearchStep_keeps owner se (Turn.start owner _))).surroundings
  obtain ⟨t, slotsRead, work⟩ := searchStep_work (u := s.begins owner) wf owner se
  rw [State.turn, work] at row keeps
  have hitEq : (s.begins owner).hitOf se = hit := rfl
  rw [hitEq] at row keeps
  have bankLeft (b : Fin 4) : ({ s.bank b with corrected := (s.begins owner).correctedBy read b } : Bank) = _ :=
    congrArg (fun n => ({ s.bank b with corrected := n } : Bank)) (correctedBy_readOf s se b)
  cases found : s.hitOf se with
  | some x =>
    have hitSome : hit = some x := found
    have tag : t.s.tag x = s.tag x := slotsRead.hit_tag found
    rw [hitSome, Turn.endsStep] at row keeps
    by_cases nowhere : (s.tag x).location = .nowhere
    · have entersTrue : enters = true := by
        show hit.any _ = true
        rw [hitSome]
        exact decide_eq_true nowhere
      have wipedEq : wiped = s.wipedBy se.home := if_pos entersTrue
      have re := Turn.reinsert_reinserted (t := t) (slot := x) (kit := se.kit) (home := se.home) slotsRead.wf (by rw [tag, nowhere])
      have searched : Searched (s.begins owner) (t.reinsert x se.kit se.home) owner read hit wiped
          (if enters then s.entryWrites se.home else []) := by
        rw [hitSome, wipedEq, if_pos entersTrue]
        exact slotsRead.searched_reinserted nowhere re
      obtain ⟨sweep, body, tags, banks, flag, errors, armed, begun, engine⟩ := searched.goesOn_ends { se with found := some x }
      obtain ⟨work', command, checkIn, others, others'⟩ := searched.goesOn ours { se with found := some x }
      have closes := (putSearch_aside (t.reinsert x se.kit se.home).s owner (some { se with found := some x })).closes
      have reenters := re.reenters (f := (·.putSearch owner (some { se with found := some x }))) closes.toDirCloses
        slotsRead.undirected.dir slotsRead.ways slotsRead.undirected.counted (by rw [slotsRead.frame])
        (pass := s.sweep.pass) (by rw [slotsRead.frame]; rfl)
      refine ⟨_, row, keeps, sweep, body, tags, fun b => (banks b).trans (bankLeft b), flag, errors, armed,
        fun none => ?_, engine, others, others', ?_⟩
      · rw [entersTrue] at none
        cases none
      · rw [hitSome]
        dsimp only
        refine ⟨work', command, checkIn, ?_⟩
        rw [if_pos entersTrue]
        exact reenters
    · have entersFalse : enters = false := by
        show hit.any _ = false
        rw [hitSome]
        exact decide_eq_false nowhere
      have wipedEq : wiped = none := if_neg (by rw [entersFalse]; exact Bool.false_ne_true)
      have stays : t.reinsert x se.kit se.home = t := if_neg (by rw [tag]; exact nowhere)
      rw [stays] at row keeps
      have searched : Searched (s.begins owner) t owner read hit wiped
          (if enters then s.entryWrites se.home else []) := by
        rw [wipedEq, if_neg (by rw [entersFalse]; exact Bool.false_ne_true)]
        exact slotsRead.searched hit
      obtain ⟨sweep, body, tags, banks, flag, errors, armed, begun, engine⟩ := searched.goesOn_ends { se with found := some x }
      obtain ⟨work', command, checkIn, others, others'⟩ := searched.goesOn ours { se with found := some x }
      have closes := (putSearch_aside t.s owner (some { se with found := some x })).closes
      have dir := slotsRead.dir_kept (f := (·.putSearch owner (some { se with found := some x }))) (putSearch_aside _ _ _)
      refine ⟨_, row, keeps, sweep, body, tags, fun b => (banks b).trans (bankLeft b), flag, errors, armed,
        fun _ => closes.dirCorrected.trans slotsRead.undirected.counted, engine, others, others', ?_⟩
      rw [hitSome]
      dsimp only
      refine ⟨work', command, checkIn, ?_⟩
      rw [if_neg (by rw [entersFalse]; exact Bool.false_ne_true)]
      exact ⟨congrArg Tag.location ((closes.tag x).trans tag), dir⟩
  | none =>
    have hitNone : hit = none := found
    have entersFalse : enters = false := by
      show hit.any _ = false
      rw [hitNone]
      rfl
    have wipedEq : wiped = none := if_neg (by rw [entersFalse]; exact Bool.false_ne_true)
    have searched : Searched (s.begins owner) t owner read hit wiped
        (if enters then s.entryWrites se.home else []) := by
      rw [wipedEq, if_neg (by rw [entersFalse]; exact Bool.false_ne_true)]
      exact slotsRead.searched hit
    rw [hitNone] at row keeps
    by_cases more : se.next + 64 < 4096
    · rw [Turn.endsStep_more more] at row keeps
      obtain ⟨sweep, body, tags, banks, flag, errors, armed, begun, engine⟩ := searched.goesOn_ends { se with next := se.next + 64 }
      obtain ⟨work', command, checkIn, others, others'⟩ := searched.goesOn ours { se with next := se.next + 64 }
      have closes := (putSearch_aside t.s owner (some { se with next := se.next + 64 })).closes
      have dir := slotsRead.dir_kept (f := (·.putSearch owner (some { se with next := se.next + 64 }))) (putSearch_aside _ _ _)
      refine ⟨_, row, keeps, sweep, body, tags, fun b => (banks b).trans (bankLeft b), flag, errors, armed,
        fun _ => closes.dirCorrected.trans slotsRead.undirected.counted, engine, others, others', ?_⟩
      rw [hitNone]
      dsimp only
      rw [if_pos more]
      exact ⟨dir, work', command, checkIn⟩
    · rw [Turn.endsStep_last more] at row keeps
      obtain ⟨f, fails, aside, cursor, others, failed⟩ := searched.fails search
      rw [fails] at row keeps
      obtain ⟨sweep, body, tags, banks, flag, errors, armed, begun, engine⟩ := searched.ends (f := f) aside cursor rfl
      have dir := slotsRead.dir_kept (f := f) aside
      refine ⟨_, row, keeps, sweep, body, tags, fun b => (banks b).trans (bankLeft b), flag, errors, armed,
        fun _ => aside.closes.dirCorrected.trans slotsRead.undirected.counted, engine, others.1, others.2, ?_⟩
      rw [hitNone]
      dsimp only
      rw [if_neg more]
      exact ⟨dir, failed⟩

end Sys2Proof.Machine
end

section
/-! PROOFS. A record moved to another slot, before its directory entry follows (R157). -/

namespace Sys2Proof.Machine

set_option Elab.async false

/-- An evacuation's turn has moved the record of `source` to `target`, with no entry changed yet (R157 steps 3, 4). -/
structure Moved (u : State) (t : Turn) (source target : Nat) : Prop where
  whose : t.who = .evacuation
  wf : Memory.wf t.s
  frame : t.s = { u with
    memory := t.s.memory
    engine := t.s.engine
    integrity := { t.s.integrity with dirCorrected := u.integrity.dirCorrected, armed := u.integrity.armed } }
  ways : t.ways = []
  bodies : t.bodies = [target]
  tag : ∀ x, t.s.tag x = if x = source then Tag.cleared
    else if x = target then { u.tagRead source with location := .nowhere } else u.tag x
  body : ∀ x, t.s.body x = if x = target then ⟨u.reading source, u.reading source, []⟩ else u.body x
  bankSource : t.s.bank (bankIndex source) = { u.bank (bankIndex source) with
    free := (u.bank (bankIndex source)).free + 1, corrected := u.correctedLeft source .read }
  bankTarget : t.s.bank (bankIndex target) = { u.bank (bankIndex target) with free := (u.bank (bankIndex target)).free - 1 }
  bankOther : ∀ x, x ≠ bankIndex source → x ≠ bankIndex target → t.s.bank x = u.bank x
  bankFlag : t.s.memory.bankFlag = u.memory.bankFlag
  errors : FeedsErrors u t.s (u.errorsAt source) .evacuation u.now
  pointers : t.s.engine.allocPtr = (target + 1) % 4096 ∧ t.s.engine.movesMade = u.engine.movesMade
    ∧ t.s.engine.begun = u.engine.begun
  engine : u.tag target = Tag.cleared → t.s.engine = { u.engine with
    allocPtr := (target + 1) % 4096, damaged := u.engine.damaged + oneIf (u.newlyDamaged source) }

/-- The turn of a move, up to its directory entry (R157). -/
def Turn.moveBody (t : Turn) (source target : Nat) (r : Record) : Turn :=
  (((t.map (·.pastSlot target)).putBody target r).putTag target { t.s.tag source with location := .nowhere }).freeSlot source

theorem Turn.moveRecord_eq (t : Turn) (source target : Nat) (r : Record) : t.moveRecord source target r =
    ((t.moveBody source target r).moveEntry (t.s.tag source).location target r).map fun s => s.countMove.checkEvacuation := rfl

/-- A tag given to a cleared one and taken from another leaves the counts. -/
theorem RecordEngine.recount_moved (e : RecordEngine) (tag : Tag) (loc : Location) :
    (e.recount { tag with location := loc } Tag.cleared).recount Tag.cleared tag = e := by
  have back (n : Nat) (holds : Bool) : adjusted (adjusted n holds false) false holds = n := by
    cases holds <;> rfl
  have free (lc : Lifecycle) (other : lc ≠ .free) : decide (Tag.cleared.lifecycle = lc) = false :=
    decide_eq_false (Ne.symm other)
  have plain : Tag.cleared.damaged = false ∧ Tag.cleared.marked = false := ⟨rfl, rfl⟩
  unfold RecordEngine.recount
  simp only [free _ (show Lifecycle.enrolled ≠ .free from nofun), free _ (show Lifecycle.running ≠ .free from nofun),
    free _ (show Lifecycle.suspended ≠ .free from nofun), free _ (show Lifecycle.owned ≠ .free from nofun), plain.1, plain.2, back]

section
variable {u : State} {source target : Nat}

theorem State.correctedLeft_read (u : State) (slot : Nat) : u.correctedLeft slot .read =
    if u.corrects slot = true then bump (u.bank (bankIndex slot)).corrected else (u.bank (bankIndex slot)).corrected := by
  rw [State.correctedLeft]
  by_cases corrects : u.corrects slot = true
  · rw [if_pos corrects, if_pos ⟨nofun, corrects⟩]
    rfl
  · rw [if_neg corrects, if_neg fun both => corrects both.2]

/-- A tag has been written by a turn (R10, R153). -/
structure TagPut (t : Turn) (slot : Nat) (new : Tag) (t' : Turn) : Prop where
  wf : Memory.wf t'.s
  frame : t' = { t with s := { t.s with
    memory := t'.s.memory
    engine := t.s.engine.recount new (t.s.tag slot) } }
  tag : ∀ x, t'.s.tag x = if x = slot then new else t.s.tag x
  body : ∀ x, t'.s.body x = t.s.body x
  bank : ∀ b, t'.s.bank b = if b = bankIndex slot then
    { t.s.bank b with free := adjusted (t.s.bank b).free (new.lifecycle = .free) ((t.s.tag slot).lifecycle = .free) }
    else t.s.bank b
  bankFlag : t'.s.memory.bankFlag = t.s.memory.bankFlag

theorem Turn.putTag_put {t : Turn} (wf : Memory.wf t.s) (slot : Nat) (tag : Tag) : TagPut t slot tag (t.putTag slot tag) :=
  ⟨(Turn.putTag_keeps t slot tag).wf wf, rfl, State.tag_putTag wf slot tag, fun _ => rfl, State.bank_putTag t.s slot tag, rfl⟩

/-- The turn that has moved a record (R157). -/
theorem Turn.moveBody_moved (wf : Memory.wf u) (distinct : bankIndex target ≠ bankIndex source)
    (live : (u.tag source).lifecycle ≠ .free) (free : (u.tag target).lifecycle = .free) :
    Moved u (((Turn.start .evacuation u).readLive source false).1.moveBody source target (u.reading source)) source target := by
  have read := Turn.readLive_read (t := Turn.start .evacuation u) wf source false
  have other : source ≠ target := fun same => distinct (congrArg bankIndex same.symm)
  rw [Turn.moveBody]
  generalize ((Turn.start .evacuation u).readLive source false).1 = t1 at read ⊢
  obtain ⟨whose, wf1, frame1, ways, tag1, body1, bodies, bank1, flag1, errors⟩ := read
  simp only [Bool.false_and, Bool.false_eq_true, and_false, if_false] at body1 bodies
  have source1 : t1.s.tag source = u.tagRead source := (tag1 source).trans (if_pos rfl)
  have target1 : t1.s.tag target = u.tag target := (tag1 target).trans (if_neg (Ne.symm other))
  have wf2 : Memory.wf ((t1.map (·.pastSlot target)).putBody target (u.reading source)).s :=
    (Turn.putBody_keeps (t1.map (·.pastSlot target)) target _).wf wf1
  have body2 := Turn.body_putBody (t := t1.map (·.pastSlot target)) wf1 target (u.reading source)
  have frame2 : (t1.map (·.pastSlot target)).putBody target (u.reading source) = { t1 with
    s := { t1.s with
      memory := ((t1.map (·.pastSlot target)).putBody target (u.reading source)).s.memory
      engine := { t1.s.engine with allocPtr := (target + 1) % 4096 } }
    bodies := target :: t1.bodies } := rfl
  have tag2 (x : Nat) : ((t1.map (·.pastSlot target)).putBody target (u.reading source)).s.tag x = t1.s.tag x := rfl
  have bank2 (x : Fin 4) : ((t1.map (·.pastSlot target)).putBody target (u.reading source)).s.bank x = t1.s.bank x := rfl
  have flag2 : ((t1.map (·.pastSlot target)).putBody target (u.reading source)).s.memory.bankFlag = t1.s.memory.bankFlag := rfl
  generalize (t1.map (·.pastSlot target)).putBody target (u.reading source) = t2 at wf2 body2 frame2 tag2 bank2 flag2 ⊢
  obtain ⟨wf3, frame3, tag3, body3, bank3, flag3⟩ := Turn.putTag_put wf2 target { t1.s.tag source with location := .nowhere }
  generalize t2.putTag target { t1.s.tag source with location := .nowhere } = t3 at wf3 frame3 tag3 body3 bank3 flag3 ⊢
  obtain ⟨wf4, frame4, tag4, body4, bank4, flag4⟩ := Turn.putTag_put wf3 source Tag.cleared
  rw [Turn.freeSlot]
  generalize t3.putTag source Tag.cleared = t4 at wf4 frame4 tag4 body4 bank4 flag4 ⊢
  have kept : t3.s.tag source = u.tagRead source := (tag3 source).trans ((if_neg other).trans ((tag2 source).trans source1))
  have engine4 : t4.s.engine = (({ t1.s.engine with allocPtr := (target + 1) % 4096 } : RecordEngine).recount
      { u.tagRead source with location := .nowhere } (u.tag target)).recount Tag.cleared (u.tagRead source) := by
    rw [frame4, kept, frame3, tag2, target1, source1, frame2]
  have engine1 : t1.s.engine = { u.engine with damaged := u.engine.damaged + oneIf (u.newlyDamaged source) } := by
    rw [frame1]
    rfl
  have liveRead : decide ((u.tagRead source).lifecycle = .free) = false := decide_eq_false live
  refine ⟨?_, wf4, ?_, ?_, ?_, fun x => ?_, fun x => ?_, ?_, ?_, fun x notSource notTarget => ?_, ?_, ?_, ⟨?_, ?_, ?_⟩,
    fun cleared => ?_⟩
  · rw [frame4, frame3, frame2]
    exact whose
  · rw [frame4, frame3, frame2, frame1]
    rfl
  · rw [frame4, frame3, frame2]
    exact ways
  · rw [frame4, frame3, frame2, bodies]
    rfl
  · rw [tag4, tag3, source1, tag2]
    split
    · rfl
    · next notSource =>
      split
      · rfl
      · exact (tag1 x).trans (if_neg notSource)
  · rw [body4, body3, body2]
    split
    · rfl
    · exact body1 x
  · rw [bank4, if_pos rfl, bank3, if_neg (Ne.symm distinct), kept, liveRead, bank2, bank1, State.correctedLeft_read]
    by_cases corrects : u.corrects source = true
    · rw [if_pos ⟨rfl, corrects⟩, if_pos corrects]
      rfl
    · rw [if_neg fun both => corrects both.2, if_neg corrects]
      rfl
  · rw [bank4, if_neg distinct, bank3, if_pos rfl, bank2, bank1, if_neg fun both => distinct both.1, tag2, target1, source1,
      decide_eq_true free]
    exact (congrArg (fun holds => ({ u.bank (bankIndex target) with
      free := adjusted (u.bank (bankIndex target)).free holds true } : Bank)) liveRead).trans rfl
  · rw [bank4, if_neg notSource, bank3, if_neg notTarget, bank2, bank1, if_neg fun both => notSource both.1]
    rfl
  · rw [flag4, flag3, flag2, flag1]
    rfl
  · refine FeedsErrors.congr (a := t1.s) ?_ ?_
    · exact errors
    · rw [frame4, frame3, frame2]
  · rw [engine4]
    rfl
  · rw [engine4, engine1]
    rfl
  · rw [engine4, engine1]
    rfl
  · rw [engine4, engine1, cleared, RecordEngine.recount_moved]

end

end Sys2Proof.Machine
end

section
/-! PROOFS. The directory entry of a record that has been moved (R70, R71, R72). -/

namespace Sys2Proof.Machine

set_option Elab.async false

/-- A turn that has written no way yet has given the slot its location `loc`, a bucket `wiped` for it perhaps (R70). -/
structure Relocated (t : Turn) (slot : Nat) (loc : Location) (wiped : Option Nat) (written : List Nat) (t' : Turn) :
    Prop where
  bodies : t'.bodies = t.bodies
  wf : Memory.wf t'.s
  outside : t'.s.engine = t.s.engine ∧ t'.s.link = t.s.link ∧ t'.s.port = t.s.port ∧ t'.s.sweep = t.s.sweep
    ∧ t'.s.tariff = t.s.tariff ∧ t'.s.time = t.s.time ∧ t'.s.integrity.armed = t.s.integrity.armed
  body : ∀ x, t'.s.body x = t.s.body x
  bank : (∀ b, t'.s.bank b = t.s.bank b) ∧ t'.s.memory.bankFlag = t.s.memory.bankFlag
  tag : ∀ x, t'.s.tag x = if x = slot then { t.s.tag slot with location := loc } else (t.s.tag x).without wiped
  errors : FeedsErrors t.s t'.s (wiped.map .directory).toList t.who t.s.now
  ways : ∀ b, (∃ w, (b, w) ∈ t'.ways) ↔ b ∈ written

section
variable {t t' : Turn} {slot : Nat} {loc : Location} {wiped : Option Nat} {written : List Nat}

theorem Relocated.refl (wf : Memory.wf t.s) (fresh : t.ways = []) (slot : Nat) :
    Relocated t slot (t.s.tag slot).location none [] t := by
  refine ⟨rfl, wf, ⟨rfl, rfl, rfl, rfl, rfl, rfl, rfl⟩, fun _ => rfl, ⟨fun _ => rfl, rfl⟩, fun x => ?_,
    feedsErrors_nil ⟨rfl, rfl, rfl⟩ _ _, fun b => ?_⟩
  · rw [Tag.without_none]
    split
    · next here => rw [here]
    · rfl
  · rw [fresh]
    simp

theorem Reinserted.relocated {home : Nat} {kit : KitId} (h : Reinserted t slot kit home loc t') (fresh : t.ways = []) :
    Relocated t slot loc (t.s.wipedBy home) (t.s.entryWrites home) t' := by
  refine ⟨h.bodies, h.wf, h.outside, h.body, h.bank, h.tag, h.errors, fun b => (h.ways b).trans (or_iff_right ?_)⟩
  rw [fresh]
  rintro ⟨w, mem⟩
  exact List.not_mem_nil mem

theorem BucketRead.relocated {d : Nat} (h : BucketRead t d t') (fresh : t.ways = [])
    (nowhere : (t.s.tag slot).location = .nowhere) :
    Relocated t slot .nowhere (t.s.wipedBy d) (t.s.readWrites (some d)) t' := by
  refine ⟨h.bodies, h.wf, h.outside, h.memory.1, h.memory.2, fun x => (h.tag x).trans ?_, h.errors,
    fun b => (h.ways b).trans (or_iff_right ?_)⟩
  · split
    · next here => rw [here, Tag.without_of_nowhere nowhere, ← nowhere]
    · rfl
  · rw [fresh]
    rintro ⟨w, mem⟩
    exact List.not_mem_nil mem

theorem Relocated.putAt (h : Relocated t slot loc wiped [] t') (place : Location) (e : Option Entry)
    (x : Option SpillEntry) : Relocated t slot loc wiped place.buckets (t'.putAt place e x) := by
  have frame := t'.putAt_frame place e x
  have wf := Turn.putAt_wf h.wf place e x
  have ways : ∀ b, (∃ w, (b, w) ∈ (t'.putAt place e x).ways) ↔ b ∈ place.buckets := fun b => by
    simp only [Turn.mem_ways_putAt, exists_or, (h.ways b).trans (iff_of_false List.not_mem_nil id), or_false]
    cases place <;> simp [Location.buckets, eq_comm]
  rw [frame] at wf ways ⊢
  exact ⟨h.bodies, wf, h.outside, h.body, h.bank, h.tag, h.errors.congr rfl, ways⟩

theorem Relocated.countWay (h : Relocated t slot loc wiped written t') : Relocated t slot loc wiped written t'.countWay :=
  ⟨h.bodies, (Turn.countWay_keeps t').wf h.wf, h.outside, h.body, h.bank, h.tag, h.errors, h.ways⟩

theorem Relocated.setLocation (h : Relocated t slot loc wiped written t') (place : Location) :
    Relocated t slot place wiped written (t'.setLocation slot place) := by
  obtain ⟨engine, bank⟩ := setLocation_keeps t' slot place
  obtain ⟨engine', outside⟩ := h.outside
  refine ⟨h.bodies, (Turn.putTag_keeps t' slot _).wf h.wf, ⟨engine.trans engine', outside⟩, h.body,
    ⟨fun b => (bank b).trans (h.bank.1 b), h.bank.2⟩, fun x => (State.tag_putTag h.wf slot _ x).trans ?_, h.errors, h.ways⟩
  rw [h.tag, h.tag, if_pos rfl]
  split <;> rfl

theorem readWrites_of_broken {s : State} {d : Nat} (broken : (s.bucket d).broken = true) : s.readWrites (some d) = [d] := by
  rw [State.readWrites, Option.toList_some, List.filter_cons, if_pos (by rw [broken]; rfl), List.filter_nil]

end

/-! ## The move of an entry -/

section
variable {t : Turn} {target : Nat} {r : Record}

theorem Turn.moveEntry_damaged (damaged : (t.s.tag target).damaged = true) : t.moveEntry .nowhere target r = t := by
  rw [Turn.moveEntry, if_pos rfl, if_pos damaged]

theorem Turn.moveEntry_nowhere (undamaged : (t.s.tag target).damaged = false) :
    t.moveEntry .nowhere target r = t.reinsert target r.kit (homeBucket r.kit) := by
  rw [Turn.moveEntry, if_pos rfl, undamaged, if_neg Bool.false_ne_true]

theorem Turn.moveEntry_double {d : Nat} {w : Fin 4} (double : ((t.s.bucket d).ways.get w).check = .double) :
    t.moveEntry (.way d w) target r = (t.wipe d).setLocation target .nowhere := by
  rw [Turn.moveEntry, if_neg nofun, Turn.repoint]
  dsimp only
  rw [double]

theorem Turn.moveEntry_single {d : Nat} {w : Fin 4} (single : ((t.s.bucket d).ways.get w).check = .single) :
    t.moveEntry (.way d w) target r = (((t.putWay d w
      (((t.s.bucket d).ways.get w).value.map fun e => { e with slot := target })).countWay).setLocation target (.way d w)) := by
  rw [Turn.moveEntry, if_neg nofun, Turn.repoint, StoredWay.value, single]

theorem Turn.moveEntry_good {d : Nat} {w : Fin 4} (good : ((t.s.bucket d).ways.get w).check = .good) :
    t.moveEntry (.way d w) target r = ((t.putWay d w
      (((t.s.bucket d).ways.get w).value.map fun e => { e with slot := target })).setLocation target (.way d w)) := by
  rw [Turn.moveEntry, if_neg nofun, Turn.repoint, StoredWay.value, good]

theorem Turn.moveEntry_spill {i : Nat} : t.moveEntry (.spill i) target r =
    (t.putSpill i ((t.s.spillEntry i).map fun e => { e with slot := target })).setLocation target (.spill i) := by
  rw [Turn.moveEntry, if_neg nofun, Turn.repoint]

/-- An entry in a readable way follows its record (R70). -/
theorem Turn.moveEntry_way (wf : Memory.wf t.s) (fresh : t.ways = []) {d : Nat} {w : Fin 4}
    (sound : ((t.s.bucket d).ways.get w).check ≠ .double) :
    let moved := ((t.s.bucket d).ways.get w).value.map fun e => { e with slot := target }
    let t' := t.moveEntry (.way d w) target r
    Relocated t target (.way d w) none [d] t'
      ∧ DirIs t' (fun x v => if x = d ∧ v = w then ⟨moved, moved, .good⟩ else (t.s.bucket x).ways.get v)
          (fun x => (t.s.bucket x).state) t.s.spillEntry [d]
      ∧ t'.s.integrity.dirCorrected = if ((t.s.bucket d).ways.get w).check = .single
          then min (t.s.integrity.dirCorrected + 1) 65535 else t.s.integrity.dirCorrected := by
  intro moved t'
  have none : DirIs t (fun x v => (t.s.bucket x).ways.get v) (fun x => (t.s.bucket x).state) t.s.spillEntry [] :=
    ⟨fun _ _ => rfl, fun b v mem => (by rw [fresh] at mem; exact absurd mem List.not_mem_nil), fun _ => rfl, fun _ => rfl,
      fun b => by rw [fresh]; simp⟩
  have put := none.putWay wf d w moved
  have relocated := (Relocated.refl wf fresh target).putAt (.way d w) moved Option.none
  cases check : ((t.s.bucket d).ways.get w).check with
  | double => exact absurd check sound
  | single =>
    have move : t' = ((t.putWay d w moved).countWay).setLocation target (.way d w) := Turn.moveEntry_single check
    rw [move]
    exact ⟨relocated.countWay.setLocation _, put.congr rfl rfl, rfl⟩
  | good =>
    have move : t' = (t.putWay d w moved).setLocation target (.way d w) := Turn.moveEntry_good check
    rw [move]
    exact ⟨relocated.setLocation _, put.congr rfl rfl, rfl⟩

/-- An entry in the spill list follows its record (R70). -/
theorem Turn.moveEntry_inSpill (wf : Memory.wf t.s) (fresh : t.ways = []) (i : Nat) :
    let t' := t.moveEntry (.spill i) target r
    Relocated t target (.spill i) none [] t' ∧ t'.s.dir.buckets = t.s.dir.buckets ∧ t'.ways = []
      ∧ (∀ j, t'.s.spillEntry j =
          if j = i then (t.s.spillEntry i).map (fun e => { e with slot := target }) else t.s.spillEntry j)
      ∧ t'.s.integrity.dirCorrected = t.s.integrity.dirCorrected := by
  intro t'
  have move : t' = _ := Turn.moveEntry_spill
  have relocated := (Relocated.refl wf fresh target).putAt (.spill i) none
    ((t.s.spillEntry i).map fun e => { e with slot := target })
  rw [move]
  exact ⟨relocated.setLocation _, rfl, fresh, Turn.spillEntry_putSpill wf i _, rfl⟩

/-- An entry in an uncorrectable way is lost with its bucket (R71). -/
theorem Turn.moveEntry_broken (wf : Memory.wf t.s) (fresh : t.ways = []) {d : Nat} {w : Fin 4}
    (double : ((t.s.bucket d).ways.get w).check = .double) (nowhere : (t.s.tag target).location = .nowhere) :
    ∃ t1, BucketRead t d t1 ∧ t.moveEntry (.way d w) target r = t1.setLocation target .nowhere
      ∧ Relocated t target .nowhere (some d) [d] (t1.setLocation target .nowhere) := by
  have broken : (t.s.bucket d).broken = true := (Bucket.broken_iff _).2 ⟨w, double⟩
  obtain ⟨t1, same, read⟩ := Turn.readBucket_read wf d
  have wiped : t.wipe d = t1 := congrArg Prod.fst ((Turn.readBucket_of_broken broken).symm.trans same)
  have relocated := (read.relocated fresh nowhere).setLocation .nowhere
  rw [State.wipedBy_of_broken broken, readWrites_of_broken broken] at relocated
  exact ⟨t1, read, (Turn.moveEntry_double double).trans (by rw [wiped]), relocated⟩

end

end Sys2Proof.Machine
end

section
/-! PROOFS. The end of an evacuation move: the count of moves, the end of the evacuation, and the turn's write (R157, R158). -/

namespace Sys2Proof.Machine

set_option Elab.async false

/-- What ends an evacuation move: it is counted, and the evacuation ends with the last live slot (R157 step 5, R158). -/
def State.endsMove (s : State) : State := s.countMove.checkEvacuation

theorem State.endsMove_frame (x : State) : x.endsMove = { x with
    memory := { x.memory with
      bodies := x.endsMove.memory.bodies
      banks := x.endsMove.memory.banks
      bankFlag := x.endsMove.memory.bankFlag }
    engine := { x.engine with movesMade := x.engine.movesMade + 1 } } := by
  unfold State.endsMove State.checkEvacuation
  split
  · rfl
  · split <;> rfl

theorem State.endsMove_wf {x : State} (wf : Memory.wf x) : Memory.wf x.endsMove :=
  (checkEvacuation_keeps x.countMove).wf wf

theorem State.endsMove_closes (x : State) : DirCloses id x x.endsMove := by
  refine DirCloses.of_dir ?_ ?_ ?_ State.endsMove_wf <;> rw [x.endsMove_frame]

/-- The end of the evacuation by a move, of a bank with one live slot or none counted (R158). -/
theorem State.endsMove_checked {u x : State} {b : Fin 4} (evacuating : u.evacuatingBank = some b)
    (states : ∀ d, (x.bank d).state = (u.bank d).state) (freed : (x.bank b).free = (u.bank b).free + 1) :
    EvacuationChecked x.countMove x.endsMove b (u.liveIn b ≤ 1) := by
  refine evacuationChecked_of_eq ?_
  have left : x.countMove.liveIn b = u.liveIn b - 1 :=
    (congrArg (Config.bankSlots - ·) freed).trans (Nat.sub_add_eq _ _ _)
  have evacuates : x.countMove.evacuatingBank = some b := (State.evacuatingBank_congr states).trans evacuating
  rw [State.endsMove, State.checkEvacuation, evacuates]
  simp only [left, Nat.sub_eq_zero_iff_le]

/-- What an evacuation move leaves outside the directory (R157, R158). -/
structure MoveEnds (u v : State) (source target : Nat) (loc : Location) (wiped : Option Nat) (written : List Nat) :
    Prop where
  outside : v.port = u.port ∧ v.sweep = u.sweep ∧ v.link = u.link
  tag : ∀ x, v.tag x = if x = source then Tag.cleared
    else if x = target then { u.tagRead source with location := loc } else (u.tag x).without wiped
  bodyTarget : v.body target = u.bodyWritten target (u.reading source)
  body : ∀ x, x ≠ target → bankIndex x ≠ bankIndex source ∨ 1 < u.liveIn (bankIndex source) → v.body x = u.body x
  corrected : (v.bank (bankIndex source)).corrected = u.correctedLeft source .read
  bankOther : ∀ x, x ≠ bankIndex source → (v.bank x).corrected = (u.bank x).corrected
    ∧ (v.bank x).state = (u.bank x).state
  armed : v.integrity.armed = u.armedLeft [target] written
  errors : FeedsErrors u v (u.errorsAt source ++ (wiped.map .directory).toList) .evacuation u.now
  engine : u.tag target = Tag.cleared → v.engine = { u.engine with
    waits := v.engine.waits, consecutive := v.engine.consecutive, begun := none
    allocPtr := (target + 1) % 4096, movesMade := u.engine.movesMade + 1
    damaged := u.engine.damaged + oneIf (u.newlyDamaged source) }
  pointers : v.engine.movesMade = u.engine.movesMade + 1 ∧ v.engine.allocPtr = (target + 1) % 4096
  free : (v.bank (bankIndex target)).free = (u.bank (bankIndex target)).free - 1
  stays : 1 < u.liveIn (bankIndex source) → (v.bank (bankIndex source)).state = .evacuating
    ∧ (v.bank (bankIndex source)).free = (u.bank (bankIndex source)).free + 1 ∧ v.memory.bankFlag = u.memory.bankFlag
  ends : u.liveIn (bankIndex source) = 1 → (v.bank (bankIndex source)).state = .outOfService
    ∧ (v.bank (bankIndex source)).free = 0 ∧ v.memory.bankFlag = true
    ∧ ∀ x, bankIndex x = bankIndex source → (v.body x).stored = Record.cleared

section
variable {u : State} {t t' : Turn} {source target : Nat} {loc : Location} {wiped : Option Nat} {written : List Nat}

/-- The state after an evacuation move's turn. -/
def Turn.moveEnded (t : Turn) : State := (t.map State.endsMove).write.settle

theorem Moved.states (h : Moved u t source target) (x : Fin 4) : (t.s.bank x).state = (u.bank x).state := by
  by_cases source' : x = bankIndex source
  · rw [source', h.bankSource]
  by_cases target' : x = bankIndex target
  · rw [target', h.bankTarget]
  · rw [h.bankOther x source' target']

theorem Moved.dir (h : Moved u t source target) : t.s.dir = u.dir := by rw [h.frame]

/-- The end of a move whose record and entry are in their place. -/
theorem Moved.ends (h : Moved u t source target) (distinct : bankIndex target ≠ bankIndex source)
    (evacuating : u.evacuatingBank = some (bankIndex source)) (none : u.engine.begun = Option.none)
    (rel : Relocated t target loc wiped written t') : MoveEnds u t'.moveEnded source target loc wiped written := by
  have closes := t'.s.endsMove_closes
  have other : source ≠ target := fun same => distinct (congrArg bankIndex same.symm)
  have states (x : Fin 4) : (t'.s.bank x).state = (u.bank x).state := (congrArg Bank.state (rel.bank.1 x)).trans (h.states x)
  have bankSource := (rel.bank.1 (bankIndex source)).trans h.bankSource
  have checked := State.endsMove_checked (x := t'.s) evacuating states (congrArg Bank.free bankSource)
  have bank (x : Fin 4) : t'.moveEnded.bank x = t'.s.endsMove.bank x := Turn.write_bank (t'.map State.endsMove) x
  have bankOther (x : Fin 4) (not : x ≠ bankIndex source) : t'.moveEnded.bank x = t.s.bank x :=
    (bank x).trans ((checked.others x not).trans (rel.bank.1 x))
  have flag : t'.moveEnded.memory.bankFlag = t'.s.endsMove.memory.bankFlag := Turn.write_bankFlag (t'.map State.endsMove)
  have engine : t'.moveEnded.engine = { t.s.engine with
      movesMade := t.s.engine.movesMade + 1
      waits := t'.moveEnded.engine.waits
      consecutive := t'.moveEnded.engine.consecutive
      begun := Option.none } := by
    have inner : (t'.map State.endsMove).write.engine = { t.s.engine with movesMade := t.s.engine.movesMade + 1 } := by
      refine (Turn.write_engine (t'.map State.endsMove)).trans ?_
      show t'.s.endsMove.engine = _
      rw [t'.s.endsMove_frame, rel.outside.1]
    have begun : t.s.engine.begun = Option.none := h.pointers.2.2.trans none
    rw [Turn.moveEnded, State.settle_engine, inner, begun]
    rfl
  have integrity : (t'.map State.endsMove).s.integrity.armed = u.integrity.armed := by
    refine (congrArg Integrity.armed closes.integrity).trans (rel.outside.2.2.2.2.2.2.trans ?_)
    rw [h.frame]
  have armed : t.s.armedLeft [target] written = u.armedLeft [target] written := by
    rw [State.armedLeft, h.frame]
    rfl
  have bodies : ∀ x, x ∈ t'.bodies ↔ x ∈ [target] := fun x => by rw [rel.bodies, h.bodies]
  have body (x : Nat) (kept : bankIndex x ≠ bankIndex source ∨ ¬u.liveIn (bankIndex source) ≤ 1) :
      (t'.map State.endsMove).s.body x = t.s.body x := (checked.body x kept).trans (rel.body x)
  refine ⟨?_, fun x => ?_, ?_, fun x not kept => ?_, ?_, fun x not => ⟨?_, ?_⟩, ?_, ?_, fun cleared => ?_, ?_, ?_,
    fun more => ?_, fun one => ?_⟩
  · have port : t'.moveEnded.port = t'.s.endsMove.port := Turn.write_port (t'.map State.endsMove)
    have sweep : t'.moveEnded.sweep = t'.s.endsMove.sweep := Turn.write_sweep (t'.map State.endsMove)
    have link : t'.moveEnded.link = t'.s.endsMove.link := Turn.write_link (t'.map State.endsMove)
    obtain ⟨_, link', port', sweep', _⟩ := rel.outside
    rw [port, sweep, link, t'.s.endsMove_frame]
    refine ⟨port'.trans ?_, sweep'.trans ?_, link'.trans ?_⟩ <;> rw [h.frame]
  · refine (closes.tag x).trans ((rel.tag x).trans ?_)
    rw [h.tag, h.tag, if_neg (Ne.symm other), if_pos rfl]
    by_cases here : x = source
    · rw [if_neg (here ▸ other), if_pos here, if_pos here]
      rfl
    · rw [if_neg here, if_neg here]
      split <;> rfl
  · refine (Turn.write_body_carried (t := t'.map State.endsMove) (closes.wf rel.wf) ((bodies target).2 List.mem_cons_self)
      ((body target (.inl distinct)).trans ((h.body target).trans (if_pos rfl)))).trans ?_
    rw [State.bodyWritten, State.bodyWritten, integrity]
  · refine (Turn.write_body_other (t := t'.map State.endsMove) (closes.wf rel.wf)
      fun mem => not (List.mem_singleton.1 ((bodies x).1 mem))).trans ((body x ?_).trans ((h.body x).trans (if_neg not)))
    exact kept.imp_right Nat.not_le.2
  · rw [bank, checked.corrected]
    exact congrArg Bank.corrected bankSource
  · rw [bankOther x not]
    by_cases target' : x = bankIndex target
    · rw [target', h.bankTarget]
    · rw [h.bankOther x not target']
  · rw [bankOther x not, h.states]
  · refine (closes.armed bodies rel.ways).trans (Eq.trans ?_ armed)
    rw [State.armedLeft, State.armedLeft, rel.outside.2.2.2.2.2.2]
  · refine closes.errors (h.errors.append ?_)
    have now : t.s.now = u.now := by rw [State.now, h.frame]; rfl
    rw [← h.whose, ← now]
    exact rel.errors
  · rw [engine, h.engine cleared]
  · rw [engine]
    exact ⟨congrArg (· + 1) h.pointers.2.1, h.pointers.1⟩
  · rw [bankOther _ distinct, h.bankTarget]
  · have same := checked.stays (Nat.not_le.2 more)
    have flag' : t'.s.countMove.memory.bankFlag = u.memory.bankFlag := rel.bank.2.trans h.bankFlag
    have bank' : t'.s.countMove.bank (bankIndex source) = t.s.bank (bankIndex source) := rel.bank.1 _
    rw [bank, flag, same, flag', bank', h.bankSource]
    exact ⟨State.state_of_evacuatingBank evacuating, rfl, rfl⟩
  · obtain ⟨state, free, raised, cleared⟩ := checked.ends one.le
    rw [bank, flag]
    refine ⟨state, free, raised, fun x here => ?_⟩
    exact (Turn.write_body_stored (t := t'.map State.endsMove) (closes.wf rel.wf) x).trans
      (congrArg StoredBody.stored (cleared x here))

end

end Sys2Proof.Machine
end

section
/-! PROOFS. The directory after an evacuation move (R70, R71, R72), and the move as the statement gives it (R157). -/

namespace Sys2Proof.Machine

set_option Elab.async false

/-- The bucket that the move of a record wipes, if any (R71, R72). -/
def State.moveWipes (s : State) (source : Nat) : Option Nat :=
  match (s.tagRead source).location with
  | .way d w => if ((s.bucket d).ways.get w).check = .double then some d else none
  | .spill _ => none
  | .nowhere => if (s.tagRead source).damaged then none else s.wipedBy (homeBucket (s.reading source).kit)

/-- The buckets that the move of a record writes (R70 to R72). -/
def State.moveWrites (s : State) (source : Nat) : List Nat :=
  match (s.tagRead source).location with
  | .way d _ => [d]
  | .spill _ => []
  | .nowhere => if (s.tagRead source).damaged then [] else s.entryWrites (homeBucket (s.reading source).kit)

/-- A way's entry after the move of its record, and the ways around it (R70, R71). -/
def WayFollows (s v : State) (target d : Nat) (w : Fin 4) (wiped : Option Nat) : Prop :=
  (let way := (s.bucket d).ways.get w
   let moved := way.value.map fun e => { e with slot := target }
   WaysAre s v (fun x y => if wiped = some x then ⟨none, none, .good⟩
     else if x = d ∧ y = w then ⟨moved, moved, .good⟩ else (s.bucket x).ways.get y)
   ∧ v.integrity.dirCorrected = (if way.check = .single then min (s.integrity.dirCorrected + 1) 65535
       else s.integrity.dirCorrected))
  ∧ (wiped = none → (v.tag target).location = .way d w
    ∧ ((v.bucket d).ways.get w).value = ((s.bucket d).ways.get w).value.map (fun e => { e with slot := target })
    ∧ (∀ y, y ≠ w → ((v.bucket d).ways.get y).value = ((s.bucket d).ways.get y).value)
    ∧ (v.bucket d).state = (s.bucket d).state)
  ∧ (wiped ≠ none → (v.tag target).location = .nowhere
    ∧ (v.bucket d).values = ⟨none, none, none, none⟩ ∧ (v.bucket d).state = .rebuilding s.sweep.pass)
  ∧ (∀ x, x ≠ d → v.bucket x = s.bucket x) ∧ ∀ i, v.spillEntry i = s.spillEntry i

/-- A spill entry after the move of its record (R70). -/
def SpillFollows (s v : State) (target i : Nat) : Prop :=
  (v.tag target).location = .spill i ∧ v.dir.buckets = s.dir.buckets
    ∧ v.integrity.dirCorrected = s.integrity.dirCorrected
    ∧ ∀ j, v.spillEntry j =
      if j = i then (s.spillEntry i).map (fun e => { e with slot := target }) else s.spillEntry j

/-- The directory after the move of a record without a location (R72). -/
def UnplacedFollows (s v : State) (target : Nat) (damaged : Bool) (kit : KitId) : Prop :=
  (damaged = true → (v.tag target).location = .nowhere ∧ v.dir = s.dir
    ∧ v.integrity.dirCorrected = s.integrity.dirCorrected)
  ∧ (damaged = false → Reenters s v target kit (homeBucket kit) s.sweep.pass id)

section
variable {u : State} {t t' : Turn} {source target : Nat} {loc : Location} {wiped : Option Nat} {written : List Nat}

theorem Moved.bucket (h : Moved u t source target) (b : Nat) : t.s.bucket b = u.bucket b :=
  congrArg (fun d : Directory => cellRead Bucket.cleared d.buckets b) h.dir

theorem Moved.spillEntry (h : Moved u t source target) (i : Nat) : t.s.spillEntry i = u.spillEntry i :=
  congrArg (fun d : Directory => cellRead none d.spill i) h.dir

theorem Moved.integrity (h : Moved u t source target) : t.s.integrity.dirCorrected = u.integrity.dirCorrected
    ∧ t.s.integrity.armed = u.integrity.armed ∧ t.s.sweep.pass = u.sweep.pass := by
  rw [h.frame]
  exact ⟨rfl, rfl, rfl⟩

theorem Moved.tagTarget (h : Moved u t source target) (other : source ≠ target) :
    t.s.tag target = { u.tagRead source with location := .nowhere } := by
  rw [h.tag, if_neg (Ne.symm other), if_pos rfl]

theorem Relocated.location (h : Relocated t target loc wiped written t') : (t'.moveEnded.tag target).location = loc := by
  refine congrArg Tag.location ((t'.s.endsMove_closes.tag target).trans ((h.tag target).trans (if_pos rfl)))

theorem Relocated.bucket_other (h : Relocated t target loc wiped written t') {b : Nat} (unwritten : b ∉ written) :
    t'.moveEnded.bucket b = t'.s.bucket b :=
  (Turn.write_bucket_of_unwritten (t := t'.map State.endsMove) (State.endsMove_wf h.wf)
    fun w mem => unwritten ((h.ways b).1 ⟨w, mem⟩)).trans
    (congrArg (fun d : Directory => cellRead Bucket.cleared d.buckets b) (by rw [Turn.map, t'.s.endsMove_frame]))

/-- The entry of a readable way follows the record (R70). -/
theorem Moved.follows_way (h : Moved u t source target) {d : Nat} {w : Fin 4} (r : Record)
    (sound : ((u.bucket d).ways.get w).check ≠ .double) :
    Relocated t target (.way d w) none [d] (t.moveEntry (.way d w) target r)
      ∧ WayFollows u (t.moveEntry (.way d w) target r).moveEnded target d w none := by
  obtain ⟨rel, dir, counted⟩ := Turn.moveEntry_way (r := r) (target := target) h.wf h.ways
    (show ((t.s.bucket d).ways.get w).check ≠ .double by rw [h.bucket]; exact sound)
  generalize t.moveEntry (.way d w) target r = t' at rel dir counted
  simp only [h.bucket] at dir counted
  obtain ⟨dirCorrected, armed, _⟩ := h.integrity
  have closes := t'.s.endsMove_closes
  have ended : DirIs (t'.map State.endsMove) _ _ _ _ := dir.congr (by rw [Turn.map, t'.s.endsMove_frame]) rfl
  obtain ⟨values, states, spill, ways⟩ := ended.settled (State.endsMove_wf rel.wf)
  have armed' : (t'.map State.endsMove).s.integrity.armed = u.integrity.armed :=
    (congrArg Integrity.armed closes.integrity).trans (rel.outside.2.2.2.2.2.2.trans armed)
  refine ⟨rel, ⟨fun x y unarmed => ?_, ?_⟩, fun _ => ⟨rel.location, ?_, fun y other => ?_, states d⟩,
    fun some' => absurd rfl some', fun x other => ?_, fun i => (spill i).trans (h.spillEntry i)⟩
  · exact (ways x y (armed' ▸ unarmed)).trans (if_neg (c := none = some x) nofun).symm
  · rw [dirCorrected] at counted
    exact closes.dirCorrected.trans counted
  · exact (values d w).trans (congrArg StoredWay.value (if_pos ⟨rfl, rfl⟩))
  · exact (values d y).trans (congrArg StoredWay.value (if_neg fun both => other both.2))
  · refine (rel.bucket_other fun mem => other (List.mem_singleton.1 mem)).trans (congrArg₂ Bucket.mk (Four.ext_get fun y => ?_) ?_)
    · exact (dir.way x y).trans (if_neg fun both => other both.1)
    · exact dir.state x

/-- The entry of an uncorrectable way is lost (R71). -/
theorem Moved.follows_broken (h : Moved u t source target) (other : source ≠ target) {d : Nat} {w : Fin 4} (r : Record)
    (double : ((u.bucket d).ways.get w).check = .double) :
    Relocated t target .nowhere (some d) [d] (t.moveEntry (.way d w) target r)
      ∧ WayFollows u (t.moveEntry (.way d w) target r).moveEnded target d w (some d) := by
  have broken : (u.bucket d).broken = true := (Bucket.broken_iff _).2 ⟨w, double⟩
  obtain ⟨t1, read, move, rel⟩ := Turn.moveEntry_broken (r := r) h.wf h.ways
    (show ((t.s.bucket d).ways.get w).check = .double by rw [h.bucket]; exact double)
    (congrArg Tag.location (h.tagTarget other))
  obtain ⟨dirCorrected, armed, pass⟩ := h.integrity
  have way := read.way
  have state := read.state
  have spill (i : Nat) : t1.s.spillEntry i = u.spillEntry i :=
    (congrArg (cellRead none · i) read.spill).trans (h.spillEntry i)
  have counted := read.counted.trans (State.dirCorrectedLeft_congr h.dir dirCorrected _)
  have clean := read.clean fun b v mem => by
    rw [h.ways] at mem
    exact absurd mem List.not_mem_nil
  simp only [h.bucket, Bucket.wayLeft, Bucket.stateLeft, broken, if_true, pass] at way state
  rw [State.dirCorrectedLeft, if_pos broken, if_pos rfl] at counted
  have closes := (t1.setLocation target .nowhere).s.endsMove_closes
  rw [move]
  have values := closes.values rel.wf (t := t1.setLocation target .nowhere) clean
  refine ⟨rel, ⟨fun x y unarmed => ?_, ?_⟩, nofun, fun _ => ⟨rel.location, ?_, ?_⟩, fun x not => ?_,
    fun i => (closes.spillEntry i).trans (spill i)⟩
  · refine (closes.way_unarmed rel.wf ?_ y).trans ((way x y).trans ?_)
    · rw [rel.outside.2.2.2.2.2.2, armed]
      exact unarmed
    · simp only [Option.some.injEq, eq_comm (a := d)]
      by_cases here : x = d
      · rw [if_pos here, if_pos here]
        rfl
      · rw [if_neg here, if_neg here, if_neg fun both => here both.1]
  · rw [double, if_neg nofun]
    exact closes.dirCorrected.trans counted
  · refine (values d).trans (Four.ext_get fun y => ?_)
    refine (Bucket.values_get _ y).trans ((congrArg StoredWay.value ((way d y).trans (if_pos rfl))).trans ?_)
    fin_cases y <;> rfl
  · exact (closes.bucketState rel.wf d).trans ((state d).trans (if_pos rfl))
  · refine (rel.bucket_other fun mem => not (List.mem_singleton.1 mem)).trans (congrArg₂ Bucket.mk (Four.ext_get fun y => ?_) ?_)
    · exact (way x y).trans (if_neg not)
    · exact (state x).trans (if_neg not)

/-- The spill entry follows the record (R70). -/
theorem Moved.follows_spill (h : Moved u t source target) (i : Nat) (r : Record) :
    Relocated t target (.spill i) none [] (t.moveEntry (.spill i) target r)
      ∧ SpillFollows u (t.moveEntry (.spill i) target r).moveEnded target i := by
  obtain ⟨rel, buckets, ways, spill, counted⟩ := Turn.moveEntry_inSpill (r := r) (target := target) h.wf h.ways i
  generalize t.moveEntry (.spill i) target r = t' at rel buckets ways spill counted
  have closes := t'.s.endsMove_closes
  refine ⟨rel, rel.location, ?_, closes.dirCorrected.trans (counted.trans h.integrity.1), fun j => ?_⟩
  · have dir : t'.moveEnded.dir = t'.s.endsMove.dir := Turn.write_dir_of_none (t := t'.map State.endsMove) ways
    rw [dir, t'.s.endsMove_frame]
    exact buckets.trans (congrArg Directory.buckets h.dir)
  · rw [← h.spillEntry, ← h.spillEntry]
    exact (closes.spillEntry j).trans (spill j)

/-- A DAMAGED record without a location stays without one (R72). -/
theorem Moved.follows_damaged (h : Moved u t source target) (other : source ≠ target) (r : Record)
    (damaged : (u.tagRead source).damaged = true) :
    Relocated t target .nowhere none [] (t.moveEntry .nowhere target r)
      ∧ UnplacedFollows u (t.moveEntry .nowhere target r).moveEnded target (u.tagRead source).damaged (u.reading source).kit := by
  have tag := h.tagTarget other
  have rel := Relocated.refl h.wf h.ways target
  rw [congrArg Tag.location tag] at rel
  rw [Turn.moveEntry_damaged ((congrArg Tag.damaged tag).trans damaged)]
  refine ⟨rel, fun _ => ⟨rel.location, ?_, t.s.endsMove_closes.dirCorrected.trans h.integrity.1⟩, fun undamaged => ?_⟩
  · have dir : t.moveEnded.dir = t.s.endsMove.dir := Turn.write_dir_of_none (t := t.map State.endsMove) h.ways
    rw [dir, t.s.endsMove_frame]
    exact h.dir
  · rw [damaged] at undamaged
    cases undamaged

/-- An undamaged record without a location is re-inserted (R72). -/
theorem Moved.follows_unplaced (h : Moved u t source target) (other : source ≠ target)
    (undamaged : (u.tagRead source).damaged = false) :
    let home := homeBucket (u.reading source).kit
    let t' := t.moveEntry .nowhere target (u.reading source)
    (∃ loc, Relocated t target loc (u.wipedBy home) (u.entryWrites home) t')
      ∧ UnplacedFollows u t'.moveEnded target (u.tagRead source).damaged (u.reading source).kit := by
  intro home t'
  have tag := h.tagTarget other
  have ways : (t.s.bucket home).ways = (u.bucket home).ways := congrArg Bucket.ways (h.bucket home)
  have re := Turn.reinsert_reinserted (kit := (u.reading source).kit) (home := home) h.wf (congrArg Tag.location tag)
  have rel := re.relocated h.ways
  rw [State.wipedBy_congr ways, State.entryWrites_congr ways] at rel
  obtain ⟨dirCorrected, armed, pass⟩ := h.integrity
  have move : t' = t.reinsert target (u.reading source).kit home :=
    Turn.moveEntry_nowhere ((congrArg Tag.damaged tag).trans undamaged)
  rw [move]
  refine ⟨⟨_, rel⟩, fun damaged => ?_, fun _ =>
    re.reenters (State.endsMove_closes _) h.dir h.ways dirCorrected armed pass⟩
  rw [undamaged] at damaged
  cases damaged

/-- The directory after the move of a record, whatever its location (R70 to R72). -/
theorem Moved.follows (h : Moved u t source target) (other : source ≠ target) :
    let t' := t.moveEntry (u.tagRead source).location target (u.reading source)
    (∃ loc, Relocated t target loc (u.moveWipes source) (u.moveWrites source) t')
      ∧ match (u.tagRead source).location with
        | .way d w => WayFollows u t'.moveEnded target d w (u.moveWipes source)
        | .spill i => SpillFollows u t'.moveEnded target i
        | .nowhere => UnplacedFollows u t'.moveEnded target (u.tagRead source).damaged (u.reading source).kit := by
  rw [State.moveWipes, State.moveWrites]
  cases (u.tagRead source).location with
  | way d w =>
    by_cases double : ((u.bucket d).ways.get w).check = .double
    · simp only [double, if_true]
      exact (h.follows_broken other _ double).imp_left fun rel => ⟨_, rel⟩
    · simp only [double, if_false]
      exact (h.follows_way _ double).imp_left fun rel => ⟨_, rel⟩
  | spill i => exact (h.follows_spill i _).imp_left fun rel => ⟨_, rel⟩
  | nowhere =>
    cases damaged : (u.tagRead source).damaged with
    | true =>
      have follows := h.follows_damaged other (u.reading source) damaged
      rw [damaged] at follows
      exact follows.imp_left fun rel => ⟨_, rel⟩
    | false =>
      have follows := h.follows_unplaced other damaged
      rw [damaged] at follows
      exact follows

end

end Sys2Proof.Machine
end

section
/-! PROOFS. The evacuation's move from its grant to the turn's end (R157). -/

namespace Sys2Proof.Machine

set_option Elab.async false

section
variable {u : State} {b : Fin 4} {source target : Nat}

/-- The slots that a move takes from and to (R157 steps 1, 2). -/
theorem lowestLive_eq_some (inRange : source < 4096) (here : bankIndex source = b) (live : (u.tag source).lifecycle ≠ .free)
    (before : ∀ x, x < source → bankIndex x = b → (u.tag x).lifecycle = .free) : u.lowestLive b = some source := by
  refine (scan_zero_eq_some_iff (by decide)).2 ⟨inRange, ?_, fun x below => ?_⟩
  · rw [decide_eq_true here, decide_eq_true live]
    rfl
  · by_cases in' : bankIndex x = b
    · rw [decide_eq_false (not_not_intro (before x below in')), Bool.and_false]
    · rw [decide_eq_false in', Bool.false_and]

/-- The work of a move once its source and target are known (R157). -/
theorem workEvacuationMove_of (evacuating : u.evacuatingBank = some b) (lowest : u.lowestLive b = some source)
    (next : u.nextFree = some target) : workEvacuationMove (Turn.start .evacuation u) =
      (((Turn.start .evacuation u).readLive source false).1.moveRecord source target (u.reading source)) := by
  have evacuating' : (Turn.start .evacuation u).s.evacuatingBank = some b := evacuating
  have lowest' : (Turn.start .evacuation u).s.lowestLive b = some source := lowest
  have next' : (Turn.start .evacuation u).s.nextFree = some target := next
  unfold workEvacuationMove
  simp only [evacuating', lowest', next', Turn.readLive_record]
  rfl

/-- The turn of a move, by what it moves and what it leaves (R157, R158). -/
theorem evacuationTurn_ends (wf : Memory.wf u) (none : u.engine.begun = .none) (distinct : bankIndex target ≠ bankIndex source)
    (evacuating : u.evacuatingBank = some (bankIndex source)) (live : (u.tag source).lifecycle ≠ .free)
    (free : (u.tag target).lifecycle = .free) : ∃ loc, ∃ t : Turn,
      ((Turn.start .evacuation u).readLive source false).1.moveRecord source target (u.reading source) = t.map State.endsMove
        ∧ MoveEnds u t.moveEnded source target loc (u.moveWipes source) (u.moveWrites source)
        ∧ match (u.tagRead source).location with
          | .way d w => WayFollows u t.moveEnded target d w (u.moveWipes source)
          | .spill i => SpillFollows u t.moveEnded target i
          | .nowhere => UnplacedFollows u t.moveEnded target (u.tagRead source).damaged (u.reading source).kit := by
  have other : source ≠ target := fun same => distinct (congrArg bankIndex same.symm)
  have moved := Turn.moveBody_moved wf distinct live free
  have read := (Turn.readLive_read (t := Turn.start .evacuation u) wf source false).tag source
  rw [if_pos rfl] at read
  have location : (((Turn.start .evacuation u).readLive source false).1.s.tag source).location =
      (u.tagRead source).location := congrArg Tag.location read
  obtain ⟨⟨loc, rel⟩, follows⟩ := moved.follows other
  refine ⟨loc, _, ?_, moved.ends distinct evacuating none rel, follows⟩
  rw [Turn.moveRecord_eq, location]
  rfl

end

/-- Settles O52: the record and its entry moved, and the end of the evacuation with the bank's last live slot. -/
theorem evacuationMove : Obligations.EvacuationMove := by
  intro s b source target wf granted evacuating ptr inRange here live before first r tag home wiped
  subst here
  have next := (State.nextFree_eq_some_iff (s := s) ptr).2 first
  have distinct : bankIndex target ≠ bankIndex source := fun same => by
    have inService := first.2.1.2
    rw [same, State.state_of_evacuatingBank evacuating] at inService
    cases inService
  have work := workEvacuationMove_of (u := s.begins .evacuation) (source := source) (target := target) evacuating
    (lowestLive_eq_some (u := s) inRange rfl live before) next
  obtain ⟨loc, t, ended, ends, follows⟩ := evacuationTurn_ends (u := s.begins .evacuation) wf rfl distinct evacuating live
    first.2.1.1
  have row := exec_evacuationMove granted
  have turn : s.turn .evacuation workEvacuationMove = t.moveEnded := by
    rw [Turn.moveEnded, ← ended, ← work]
    rfl
  have keeps := (turn_keeps s .evacuation workEvacuationMove (workEvacuationMove_keeps (Turn.start .evacuation _))).surroundings
  rw [turn] at row keeps
  obtain ⟨⟨port, sweep, link⟩, tags, bodyTarget, body, corrected, bankOther, armed, errors, engine, ⟨moves, pointer⟩, free, stays,
    finishes⟩ := ends
  have other : source ≠ target := fun same => distinct (congrArg bankIndex same.symm)
  refine ⟨t.moveEnded, row, keeps, port, sweep, link, (tags source).trans (if_pos rfl), bodyTarget, ?_, fun x not not' => ?_,
    body, corrected, bankOther, armed, errors, ?_, engine, moves, pointer, free, stays, finishes⟩
  · rw [tags, if_neg (Ne.symm other), if_pos rfl]
    rfl
  · rw [tags, if_neg not, if_neg not']
    rfl
  · have follows' : match tag.location with
      | .way d w => WayFollows s t.moveEnded target d w wiped
      | .spill i => SpillFollows s t.moveEnded target i
      | .nowhere => UnplacedFollows s t.moveEnded target tag.damaged r.kit := follows
    cases place : tag.location with
    | way d w =>
      rw [place] at follows'
      exact follows'
    | spill i =>
      rw [place] at follows'
      exact follows'
    | nowhere =>
      rw [place] at follows'
      exact follows'

end Sys2Proof.Machine
end

section
/-! PROOFS. A lookup in an uncorrectable bucket, with no spill entry of the kit (R62, R64, R65, R71). -/

namespace Sys2Proof.Machine

set_option Elab.async false

theorem wayHolding_empty (kit : KitId) : wayHolding ⟨none, none, none, none⟩ kit = none :=
  wayHolding_eq_none_iff.2 fun w => by fin_cases w <;> exact nofun

theorem State.spillHolding_congr {s s' : State} (spill : s'.dir.spill = s.dir.spill) (home : Nat) (kit : KitId) :
    s'.spillHolding home kit = s.spillHolding home kit := by
  have entry : s'.spillEntry = s.spillEntry := funext fun i => congrArg (cellRead none · i) spill
  have holds : s'.spillHolds home kit = s.spillHolds home kit := funext fun i => by rw [State.spillHolds, entry]; rfl
  rw [State.spillHolding, holds, entry]
  rfl

/-- A tag once the bucket that its location names a way of is wiped (R71). -/
theorem Tag.without_some (tag : Tag) (b : Nat) : tag.without (some b) = { tag with
    location := if ∃ w, tag.location = .way b w then .nowhere else tag.location } := by
  obtain ⟨lifecycle, damaged, location, marked⟩ := tag
  cases location with
  | nowhere => simp [Tag.without]
  | spill i => simp [Tag.without]
  | way d w =>
    by_cases same : d = b
    · simp [Tag.without, same]
    · simp [Tag.without, same]

theorem State.dirCorrectedLeft_of_broken {s : State} {home : Nat} (broken : (s.bucket home).broken = true) :
    s.dirCorrectedLeft (some home) = s.integrity.dirCorrected := by
  rw [State.dirCorrectedLeft, if_pos broken, if_pos rfl]

section
variable {s u : State} {kit : KitId} {c : RecordCommand} {who : Requester}

/-- The lookup of a kit in an uncorrectable bucket, without a spill entry of the kit (R65). -/
theorem Turn.withKit_wiped (wf : Memory.wf u) (who : Requester) (code : Byte) (use : Turn → Nat → Record → Turn)
    (broken : (u.bucket (homeBucket kit)).broken = true) (unspilled : u.spillHolding (homeBucket kit) kit = none) :
    ∃ t, BucketRead (Turn.start who u) (homeBucket kit) t
      ∧ (Turn.start who u).withKit code kit use = t.startCommandSearch kit := by
  obtain ⟨t, same, read⟩ := Turn.readBucket_read (t := Turn.start who u) wf (homeBucket kit)
  have broken' : ((Turn.start who u).s.bucket (homeBucket kit)).broken = true := broken
  rw [Bucket.seen, if_pos broken'] at same
  have state : (t.s.bucket (homeBucket kit)).state = .rebuilding u.sweep.pass := by
    rw [read.state, if_pos rfl, Bucket.stateLeft, if_pos broken']
    rfl
  have spilled : t.s.spillHolding (homeBucket kit) kit = none :=
    (State.spillHolding_congr (s := u) read.spill (homeBucket kit) kit).trans unspilled
  have ended : t.s.lookupEnd ⟨none, none, none, none⟩ kit = .rebuilding := by
    rw [State.lookupEnd, wayHolding_empty]
    dsimp only
    rw [spilled]
    dsimp only
    rw [state]
  refine ⟨t, read, ?_⟩
  rw [Turn.withKit, Turn.lookup, same]
  dsimp only
  rw [ended]

/-- The command turn of such a lookup: the bucket is wiped and the full search starts (R65, R71). -/
theorem wipedTurn_searches (clock : c.needsMinute = true → s.now ≠ none) (h : s.commandTurnFor c) (seeks : c.seeks = some kit)
    (broken : (s.bucket (homeBucket kit)).broken = true) (unspilled : s.spillHolding (homeBucket kit) kit = none) :
    let home := homeBucket kit
    ∃ t, exec .commandTurn s = .next t ∧ KeepsSurroundings s t ∧ t.port = s.port ∧ t.link = s.link
      ∧ (t.bucket home).values = ⟨none, none, none, none⟩ ∧ (t.bucket home).state = .rebuilding s.sweep.pass
      ∧ (∀ b, b ≠ home → t.bucket b = s.bucket b) ∧ t.dir.spill = s.dir.spill
      ∧ (∀ x, t.body x = s.body x ∧ t.tag x = { s.tag x with
          location := if ∃ w, (s.tag x).location = .way home w then .nowhere else (s.tag x).location })
      ∧ FeedsError s t (.directory home) .command ∧ t.integrity.dirCorrected = s.integrity.dirCorrected
      ∧ t.engine.held = some c ∧ t.engine.commandSearch = some ⟨kit, home, 0, none⟩ := by
  intro home
  have wf := h.1
  obtain ⟨t, read, work⟩ := Turn.withKit_wiped (u := s.begins .command) wf .command c.code c.use broken unspilled
  have work' : c.work (Turn.start .command (s.begins .command)) = t.startCommandSearch kit :=
    (RecordCommand.work_of_seeks seeks (t := Turn.start .command (s.begins .command)) clock).trans work
  have keeps := commandTurn_keeps s c
  have row := exec_commandTurn h
  rw [State.turn, work'] at keeps row
  have closes : Closes id t.s (t.startCommandSearch kit).s := (startCommandSearch_aside t.s _).closes
  have wipes : (s.begins .command).wipedBy home = some home := State.wipedBy_of_broken (s := s.begins .command) broken
  have clean : t.waysClean := read.clean fun b w mem => absurd mem List.not_mem_nil
  obtain ⟨engine, link, port, sweep, _⟩ := read.outside
  have bodies : (t.startCommandSearch kit).bodies = [] := read.bodies
  have broken' : ((Turn.start .command (s.begins .command)).s.bucket home).broken = true := broken
  have fed := read.errors
  rw [show (Turn.start .command (s.begins .command)).s.wipedBy home = some home from wipes] at fed
  have counted : t.s.integrity.dirCorrected = s.integrity.dirCorrected := 
    read.counted.trans (State.dirCorrectedLeft_of_broken broken')
  refine ⟨_, row, keeps, (Turn.write_port _).trans port, (Turn.write_link _).trans link, ?_, ?_, fun b other => ?_,
    (Turn.write_spill _).trans read.spill, fun x => ⟨?_, ?_⟩, (closes.errors fed).single, closes.dirCorrected.trans counted, ?_, ?_⟩
  · refine (closes.values read.wf clean home).trans (Four.ext_get fun w => ?_)
    rw [Bucket.values_get, read.way, if_pos rfl, Bucket.wayLeft, if_pos broken']
    fin_cases w <;> rfl
  · refine (closes.bucketState read.wf home).trans ((read.state home).trans ((if_pos rfl).trans ?_))
    rw [Bucket.stateLeft, if_pos broken']
    rfl
  · refine (Turn.write_bucket_of_unwritten (t := t.startCommandSearch kit) read.wf fun w mem => ?_).trans
      (congrArg₂ Bucket.mk (Four.ext_get fun w => (read.way b w).trans (if_neg other)) ((read.state b).trans (if_neg other)))
    rcases (read.ways b).1 ⟨w, mem⟩ with ⟨v, old⟩ | written
    · exact absurd old List.not_mem_nil
    · exact other (eq_of_mem_readWrites written)
  · have memory := Turn.write_memory_of_none bodies
    exact (congrArg (fun m : RecordMemory => cellRead StoredBody.cleared m.bodies x) memory).trans (read.memory.1 x)
  · refine (closes.tag x).trans ((read.tag x).trans ?_)
    rw [show (Turn.start .command (s.begins .command)).s.wipedBy home = some home from wipes]
    exact Tag.without_some _ _
  · rw [State.settle_engine, Turn.write_engine]
    exact (congrArg RecordEngine.held engine).trans h.2.1
  · rw [State.settle_engine, Turn.write_engine]
    rfl

end

end Sys2Proof.Machine
end

section
/-! PROOFS. What a turn does depends neither on the injection armed nor on the ways it has written so far: the operations
of a turn commute with both (R75, R152). -/

namespace Sys2Proof.Machine

set_option Elab.async false

/-- The state with another injection armed, or none (R152). -/
def State.arming (s : State) (a : Option Injection) : State := { s with integrity := { s.integrity with armed := a } }

/-- The turn with another injection armed, and with further ways written before. -/
def Turn.carrying (t : Turn) (a : Option Injection) (ws : List (Nat × Fin 4)) : Turn :=
  { t with s := t.s.arming a, ways := t.ways ++ ws }

/-- A step of a turn's work that neither the injection armed nor the ways written before change. -/
def Carries (f : Turn → Turn) : Prop := ∀ t a ws, f (t.carrying a ws) = (f t).carrying a ws

/-- A use of a slot that neither changes. -/
def UseCarries (use : Turn → Nat → Record → Turn) : Prop := ∀ slot r, Carries fun t => use t slot r

section
variable {t : Turn} {a : Option Injection} {ws : List (Nat × Fin 4)}

theorem Turn.carrying_self (t : Turn) : t.carrying t.s.integrity.armed [] = t := by
  rw [Turn.carrying, List.append_nil]
  rfl

/-- Such a step leaves the injection armed. -/
theorem Carries.armed {f : Turn → Turn} (h : Carries f) (t : Turn) : (f t).s.integrity.armed = t.s.integrity.armed := by
  have same := h t t.s.integrity.armed []
  rw [t.carrying_self] at same
  exact (congrArg (fun t : Turn => t.s.integrity.armed) same).trans rfl

theorem Carries.comp {f g : Turn → Turn} (hf : Carries f) (hg : Carries g) : Carries fun t => g (f t) := fun t a ws =>
  (congrArg g (hf t a ws)).trans (hg (f t) a ws)

theorem Carries.map {f : State → State} (h : ∀ s a, f (s.arming a) = (f s).arming a) : Carries (·.map f) := fun t a ws =>
  congrArg (fun s : State => ({ t with s := s, ways := t.ways ++ ws } : Turn)) (h t.s a)

/-! ## The operations -/

theorem Turn.putBody_carries (slot : Nat) (r : Record) : Carries (·.putBody slot r) := fun _ _ _ => rfl

theorem Turn.putTag_carries (slot : Nat) (tag : Tag) : Carries (·.putTag slot tag) := fun _ _ _ => rfl

theorem Turn.putRecord_carries (slot : Nat) (lc : Lifecycle) (r : Record) : Carries (·.putRecord slot lc r) :=
  fun _ _ _ => rfl

theorem Turn.putWay_carries (b : Nat) (w : Fin 4) (e : Option Entry) : Carries (·.putWay b w e) := fun _ _ _ => rfl

theorem Turn.putEntry_carries (loc : Location) (kit : KitId) (slot home : Nat) : Carries (·.putEntry loc kit slot home) :=
  fun _ _ _ => by cases loc <;> rfl

theorem Turn.removeEntry_carries (loc : Location) : Carries (·.removeEntry loc) := fun _ _ _ => by cases loc <;> rfl

theorem State.feedError_arming (s : State) (place : ErrorPlace) (who : Requester) (a : Option Injection) :
    (s.arming a).feedError place who = (s.feedError place who).arming a := by
  unfold State.feedError
  rw [show (s.arming a).integrity.report = s.integrity.report from rfl]
  cases s.integrity.report with
  | none => rfl
  | some e => cases place <;> rfl

theorem Turn.damage_carries (slot : Nat) : Carries (·.damage slot) := fun t a ws =>
  congrArg (fun s : State => ({ t with s := s, ways := t.ways ++ ws } : Turn))
    (State.feedError_arming (t.putTag slot { t.s.tag slot with damaged := true }).s (.record slot) t.who a)

theorem Turn.readLive_carrying (t : Turn) (slot : Nat) (wb : Bool) (a : Option Injection) (ws : List (Nat × Fin 4)) :
    (t.carrying a ws).readLive slot wb = ((t.readLive slot wb).1.carrying a ws, (t.readLive slot wb).2) := by
  unfold Turn.readLive
  rw [show (t.carrying a ws).s.tag slot = t.s.tag slot from rfl, show (t.carrying a ws).s.body slot = t.s.body slot from rfl]
  by_cases damaged : (t.s.tag slot).damaged = true
  · rw [if_pos damaged, if_pos damaged]
  · rw [if_neg damaged, if_neg damaged]
    cases (t.s.body slot).check with
    | good => rfl
    | single => cases wb <;> rfl
    | double => exact congrArg (·, (t.s.body slot).read) (Turn.damage_carries slot t a ws)

theorem Turn.answer_carries (code : Byte) (st : Status) (fields : List Byte) : Carries (·.answer code st fields) :=
  fun _ _ _ => rfl

theorem Turn.refuse_carries (code : Byte) (st : Status) : Carries (·.refuse code st) := fun _ _ _ => rfl

theorem State.checkEvacuation_arming (s : State) (a : Option Injection) :
    (s.arming a).checkEvacuation = s.checkEvacuation.arming a := by
  unfold State.checkEvacuation
  rw [show (s.arming a).evacuatingBank = s.evacuatingBank from rfl]
  cases s.evacuatingBank with
  | none => rfl
  | some b =>
    dsimp only
    rw [show (s.arming a).liveIn b = s.liveIn b from rfl]
    split <;> rfl

theorem Turn.placeNew_carries (loc : Location) (slot : Nat) (lc : Lifecycle) (r : Record) :
    Carries (·.placeNew loc slot lc r) :=
  (Turn.putEntry_carries loc r.kit slot (homeBucket r.kit)).comp
    (g := fun t => ((t.putBody slot r).putTag slot ⟨lc, false, loc, r.marks.any⟩).map (·.pastSlot slot)) fun _ _ _ => rfl

end

end Sys2Proof.Machine
end

section
/-! PROOFS. The work of the command turns that look up a kit, and of a check-in turn, after the lookup (R75, R152). -/

namespace Sys2Proof.Machine

set_option Elab.async false

section
variable {f g : Turn → Turn}

/-- A step that branches on what it reads of the state. -/
theorem Carries.ite {p : Turn → Prop} [DecidablePred p] (same : ∀ t a ws, p (Turn.carrying t a ws) ↔ p t) (hf : Carries f)
    (hg : Carries g) : Carries fun t => if p t then f t else g t := fun t a ws => by
  dsimp only
  by_cases holds : p t
  · rw [if_pos holds, if_pos ((same t a ws).2 holds)]
    exact hf t a ws
  · rw [if_neg holds, if_neg fun h => holds ((same t a ws).1 h)]
    exact hg t a ws

/-- A step that uses what it reads of the state. -/
theorem Carries.reading {α : Type} {x : Turn → α} {h : α → Turn → Turn} (same : ∀ t a ws, x (Turn.carrying t a ws) = x t)
    (steps : ∀ v, Carries (h v)) : Carries fun t => h (x t) t := fun t a ws => by
  dsimp only
  rw [same]
  exact steps (x t) t a ws

theorem Turn.readLive_carries (slot : Nat) (wb : Bool) {h : Record → Turn → Turn} (steps : ∀ r, Carries (h r)) :
    Carries fun t => h (t.readLive slot wb).2 (t.readLive slot wb).1 := fun t a ws => by
  dsimp only
  rw [Turn.readLive_carrying]
  exact steps _ _ a ws

theorem Turn.withClock_carries (code : Byte) {h : Nat → Turn → Turn} (steps : ∀ now, Carries (h now)) :
    Carries fun t => t.withClock code fun now => h now t := fun t a ws => by
  dsimp only
  unfold Turn.withClock
  rw [show (t.carrying a ws).s.now = t.s.now from rfl]
  cases t.s.now with
  | none => rfl
  | some now => exact steps now t a ws

theorem Turn.undamaged_carries (code : Byte) (slot : Nat) {h : Lifecycle → Turn → Turn} (steps : ∀ lc, Carries (h lc)) :
    Carries fun t => t.undamaged code slot fun lc => h lc t :=
  Carries.ite (fun _ _ _ => Iff.rfl) (Turn.refuse_carries _ _)
    (Carries.reading (x := fun t => (t.s.tag slot).lifecycle) (fun _ _ _ => rfl) steps)

end

/-! ## The uses of a slot found -/

theorem Turn.answerCredit_carries (code : Byte) (slot : Nat) (c : TariffClass) (now : Nat) (res : Option CreditResult) :
    Carries (·.answerCredit code slot c now res) := by
  cases res with
  | none => exact Turn.refuse_carries _ _
  | some res => exact fun _ _ _ => rfl

theorem useTopUp_carries (amount : BitVec 24) : UseCarries (useTopUp amount) := fun slot r =>
  Turn.withClock_carries _ fun now => Turn.undamaged_carries _ _ fun lc =>
    Carries.ite (fun _ _ _ => Iff.rfl) (Turn.refuse_carries _ _) <|
      Carries.ite (fun _ _ _ => Iff.rfl) (Turn.refuse_carries _ _) <|
        Carries.reading (x := fun t => t.s.tariffClass r.cls) (fun _ _ _ => rfl) fun c =>
          Turn.answerCredit_carries 0x11 slot c now (topUp ⟨lc, r⟩ c amount.toNat now)

theorem useAdjust_carries (minutes : BitVec 24) : UseCarries (useAdjust minutes) := fun slot r =>
  Turn.withClock_carries _ fun now => Turn.undamaged_carries _ _ fun lc =>
    Carries.ite (fun _ _ _ => Iff.rfl) (Turn.refuse_carries _ _) <|
      Carries.reading (x := fun t => t.s.tariffClass r.cls) (fun _ _ _ => rfl) fun c =>
        Turn.answerCredit_carries 0x12 slot c now
          (if 0 < minutes.toInt then adjustUp ⟨lc, r⟩ c minutes.toInt.natAbs now
           else some (adjustDown ⟨lc, r⟩ c minutes.toInt.natAbs now))

theorem useSuspend_carries : UseCarries useSuspend := fun _ _ =>
  Turn.withClock_carries _ fun _ => Turn.undamaged_carries _ _ fun _ =>
    Carries.ite (fun _ _ _ => Iff.rfl) (Turn.refuse_carries _ _) fun _ _ _ => rfl

theorem useResume_carries : UseCarries useResume := fun _ _ =>
  Turn.withClock_carries _ fun _ => Turn.undamaged_carries _ _ fun _ =>
    Carries.ite (fun _ _ _ => Iff.rfl) (Turn.refuse_carries _ _) fun _ _ _ => rfl

theorem useChangeClass_carries (cls : Byte) : UseCarries (useChangeClass cls) := fun _ _ =>
  Turn.undamaged_carries _ _ fun _ => Carries.ite (fun _ _ _ => Iff.rfl) (Turn.refuse_carries _ _) <|
    Carries.ite (fun _ _ _ => Iff.rfl) (Turn.refuse_carries _ _) fun _ _ _ => rfl

theorem retireAt_carries (code : Byte) : UseCarries (retireAt code) := fun slot r =>
  Carries.reading (x := fun t => (t.image slot r, (t.s.tag slot).location)) (fun _ _ _ => rfl)
    (h := fun v t => (((t.removeEntry v.2).freeSlot slot).map State.checkEvacuation).answer code .ok (imageBytes v.1))
    fun v => ((Turn.removeEntry_carries v.2).comp (Turn.putTag_carries slot Tag.cleared)).comp
      ((Carries.map State.checkEvacuation_arming).comp (Turn.answer_carries code .ok (imageBytes v.1)))

theorem useReadRecord_carries : UseCarries useReadRecord := fun _ _ _ _ _ => rfl

theorem RecordCommand.use_carries (c : RecordCommand) : UseCarries c.use := by
  cases c with
  | topUp kit amount => exact useTopUp_carries amount
  | adjust kit minutes => exact useAdjust_carries minutes
  | suspend kit => exact useSuspend_carries
  | resume kit => exact useResume_carries
  | changeClass kit cls => exact useChangeClass_carries cls
  | retire kit => exact retireAt_carries 0x16
  | readRecord kit => exact useReadRecord_carries
  | enrol | retireSlot | restore | readSlot | fetchMarked => exact fun _ _ => Turn.refuse_carries _ _

/-! ## What follows a lookup -/

theorem Turn.useFound_carries (code : Byte) (slot : Nat) {use : Turn → Nat → Record → Turn} (h : UseCarries use) :
    Carries (·.useFound code slot use) :=
  Carries.ite (fun _ _ _ => Iff.rfl) (Turn.refuse_carries _ _) (Turn.readLive_carries slot true (h := fun r t => use t slot r) (h slot))

theorem Turn.readFound_carries (slot : Nat) : Carries (·.readFound slot) :=
  Carries.ite (fun _ _ _ => Iff.rfl) (fun _ _ _ => rfl) (Turn.readLive_carries slot true (h := fun _ t => t) fun _ _ _ _ => rfl)

theorem Turn.insert_carries (code : Byte) (kit : KitId) (ways : Four (Option Entry)) (l : Lookup)
    {place : Turn → Location → Nat → Turn} (h : ∀ loc slot, Carries fun t => place t loc slot) :
    Carries fun t => t.insert code kit ways l place :=
  Carries.ite (fun _ _ _ => Iff.rfl) (Turn.refuse_carries _ _) <|
    Carries.ite (fun _ _ _ => Iff.rfl) (Turn.refuse_carries _ _) <|
      Carries.reading (x := fun t => (t.s.placeFor (homeBucket kit) ways, t.s.allocate)) (fun _ _ _ => rfl)
        (h := fun v t => match v.2 with
          | none => t.refuse code .tableFull
          | some slot => place t v.1 slot) fun (loc, taken) => by
          cases taken with
          | none => exact Turn.refuse_carries _ _
          | some slot => exact h loc slot

theorem Turn.restoreInPlace_carries (i : RecordImage) (c : TariffClass) (now slot : Nat) :
    Carries (·.restoreInPlace i c now slot) :=
  Turn.readLive_carries slot true (h := fun old t =>
    let r := restoredRecord i c now old.drift
    let lc := imageLifecycle i
    if Config.maxReserve < r.reserve then t.refuse 0x18 .creditFull
    else ((t.putBody slot r).putTag slot ⟨lc, false, (t.s.tag slot).location, r.marks.any⟩).answer 0x18 .ok
      (restoreBytes slot false lc r c now)) fun _ =>
    Carries.ite (fun _ _ _ => Iff.rfl) (Turn.refuse_carries _ _) fun _ _ _ => rfl

end Sys2Proof.Machine
end

section
/-! PROOFS. The turns whose work begins with the lookup of a kit (R64, R82, R84, R93, R103). -/

namespace Sys2Proof.Machine

set_option Elab.async false

/-- A work that begins with the lookup of a kit, in the turns that read the time and the tariff as `x` holds them; what
follows depends neither on the injection armed nor on the ways the lookup has written. -/
def LooksUpFirst (x : State) (kit : KitId) (work : Turn → Turn) : Prop :=
  ∃ rest : Four (Option Entry) → Lookup → Turn → Turn, (∀ ways l, Carries (rest ways l))
    ∧ ∀ t : Turn, t.s.now = x.now → t.s.tariff = x.tariff → work t = rest (t.lookup kit).2.1 (t.lookup kit).2.2 (t.lookup kit).1

/-- What follows the lookup of a command that uses the slot found (R82). -/
def Turn.goesOnUse (t : Turn) (code : Byte) (kit : KitId) (use : Turn → Nat → Record → Turn) (l : Lookup) : Turn :=
  match l with
  | .absent => t.refuse code .notFound
  | .rebuilding => t.startCommandSearch kit
  | .found slot => t.useFound code slot use

theorem withKit_looksUpFirst (x : State) (code : Byte) (kit : KitId) {use : Turn → Nat → Record → Turn} (h : UseCarries use) :
    LooksUpFirst x kit fun t => t.withKit code kit use := by
  refine ⟨fun _ l t => t.goesOnUse code kit use l, fun _ l => ?_, fun _ _ _ => rfl⟩
  cases l with
  | absent => exact Turn.refuse_carries _ _
  | rebuilding => exact fun _ _ _ => rfl
  | found slot => exact Turn.useFound_carries code slot h

theorem LooksUpFirst.congr {x : State} {kit : KitId} {f g : Turn → Turn} (h : LooksUpFirst x kit f)
    (same : ∀ t : Turn, t.s.now = x.now → t.s.tariff = x.tariff → g t = f t) : LooksUpFirst x kit g := by
  obtain ⟨rest, carries, first⟩ := h
  exact ⟨rest, carries, fun t now tariff => (same t now tariff).trans (first t now tariff)⟩

/-- What follows the lookup of ENROL (R84). -/
def Turn.goesOnEnrol (t : Turn) (kit : KitId) (cls : Byte) (outstanding : BitVec 32) (now : Nat)
    (ways : Four (Option Entry)) (l : Lookup) : Turn :=
  match l with
  | .found slot => (t.readFound slot).refuse 0x10 .kitExists
  | l => t.insert 0x10 kit ways l fun t loc slot =>
    (t.placeNew loc slot .enrolled (enrolledRecord kit cls.toNat outstanding.toNat now)).answer 0x10 .ok (beBytes 2 slot)

theorem Turn.goesOnEnrol_carries (kit : KitId) (cls : Byte) (outstanding : BitVec 32) (now : Nat)
    (ways : Four (Option Entry)) (l : Lookup) : Carries (·.goesOnEnrol kit cls outstanding now ways l) := by
  have inserts (l : Lookup) : Carries fun t => t.insert 0x10 kit ways l fun t loc slot =>
      (t.placeNew loc slot .enrolled (enrolledRecord kit cls.toNat outstanding.toNat now)).answer 0x10 .ok (beBytes 2 slot) :=
    Turn.insert_carries _ _ _ _ fun loc slot => (Turn.placeNew_carries loc slot _ _).comp (Turn.answer_carries _ _ _)
  cases l with
  | found slot => exact (Turn.readFound_carries slot).comp (Turn.refuse_carries _ _)
  | absent => exact inserts .absent
  | rebuilding => exact inserts .rebuilding

theorem workEnrol_looksUpFirst {x : State} {now : Nat} (running : x.now = some now) (kit : KitId) (cls : Byte)
    (outstanding : BitVec 32) (sells : (x.tariffClass cls.toNat).price ≠ 0) :
    LooksUpFirst x kit (workEnrol kit cls outstanding) := by
  refine ⟨fun ways l t => t.goesOnEnrol kit cls outstanding now ways l, Turn.goesOnEnrol_carries kit cls outstanding now,
    fun t clock tariff => ?_⟩
  have sells' : (t.s.tariffClass cls.toNat).price ≠ 0 := by
    rw [State.tariffClass, tariff]
    exact sells
  rw [workEnrol, Turn.withClock, clock, running]
  dsimp only
  rw [if_neg sells']
  rfl

/-- What follows the lookup of RESTORE (R93). -/
def Turn.goesOnRestore (t : Turn) (i : RecordImage) (c : TariffClass) (now : Nat) (ways : Four (Option Entry))
    (l : Lookup) : Turn :=
  match l with
  | .found slot => t.restoreInPlace i c now slot
  | l => t.insert 0x18 i.kit ways l fun t loc slot =>
    let r := restoredRecord i c now 0
    let lc := imageLifecycle i
    if Config.maxReserve < r.reserve then t.refuse 0x18 .creditFull
    else (t.placeNew loc slot lc r).answer 0x18 .ok (restoreBytes slot true lc r c now)

theorem Turn.goesOnRestore_carries (i : RecordImage) (c : TariffClass) (now : Nat) (ways : Four (Option Entry)) (l : Lookup) :
    Carries (·.goesOnRestore i c now ways l) := by
  have inserts (l : Lookup) : Carries fun t => t.insert 0x18 i.kit ways l fun t loc slot =>
      if Config.maxReserve < (restoredRecord i c now 0).reserve then t.refuse 0x18 .creditFull
      else (t.placeNew loc slot (imageLifecycle i) (restoredRecord i c now 0)).answer 0x18 .ok
        (restoreBytes slot true (imageLifecycle i) (restoredRecord i c now 0) c now) :=
    Turn.insert_carries _ _ _ _ fun loc slot => Carries.ite (fun _ _ _ => Iff.rfl) (Turn.refuse_carries _ _)
      ((Turn.placeNew_carries loc slot _ _).comp (Turn.answer_carries _ _ _))
  cases l with
  | found slot => exact Turn.restoreInPlace_carries i c now slot
  | absent => exact inserts .absent
  | rebuilding => exact inserts .rebuilding

theorem workRestore_looksUpFirst {x : State} {now : Nat} (running : x.now = some now) (i : RecordImage) :
    LooksUpFirst x i.kit (workRestore i) := by
  refine ⟨fun ways l t => t.goesOnRestore i (x.tariffClass i.cls.toNat) now ways l,
    Turn.goesOnRestore_carries i _ now, fun t clock tariff => ?_⟩
  have cls : t.s.tariffClass i.cls.toNat = x.tariffClass i.cls.toNat := by
    rw [State.tariffClass, tariff]
    rfl
  rw [workRestore, Turn.withClock, clock, running]
  dsimp only
  rw [cls]
  rfl

/-- Every command that looks up a kit does so first (R82, R84, R93). -/
theorem RecordCommand.work_looksUpFirst {x : State} {c : RecordCommand} {kit : KitId} (looks : c.looksUp = some kit)
    (clock : c.needsMinute = true → x.now ≠ none)
    (sells : ∀ k cls o, c = .enrol k cls o → (x.tariffClass cls.toNat).price ≠ 0) : LooksUpFirst x kit c.work := by
  have seeking (seeks : c.seeks = some kit) : LooksUpFirst x kit c.work :=
    (withKit_looksUpFirst x c.code kit c.use_carries).congr fun t now _ =>
      RecordCommand.work_of_seeks seeks fun needs => by rw [now]; exact clock needs
  cases c with
  | enrol k cls outstanding =>
    obtain ⟨now, running⟩ := Option.ne_none_iff_exists'.1 (clock rfl)
    cases looks
    exact workEnrol_looksUpFirst running kit cls outstanding (sells _ _ _ rfl)
  | restore i =>
    obtain ⟨now, running⟩ := Option.ne_none_iff_exists'.1 (clock rfl)
    cases looks
    exact workRestore_looksUpFirst running i
  | _ => exact seeking looks

/-! ## The check-in turn (R103) -/

/-- What follows the lookup of a check-in turn (R103, R104). -/
def Turn.goesOnCheckIn (t : Turn) (a : Arrival) (l : Lookup) : Turn :=
  match l with
  | .absent => t.map State.noticeUnknown
  | .rebuilding => t.map (·.startCheckInSearch a.checkIn.kit)
  | .found slot =>
    if (t.s.tag slot).lifecycle = .free then t.map State.noticeUnknown
    else (t.readLive slot true).1.serve slot (t.readLive slot true).2 a

theorem State.handOver_arming (s : State) (g : Grant) (a : Arrival) (armed : Option Injection) :
    (s.arming armed).handOver g a = (s.handOver g a).arming armed := by
  have link : ((s.arming armed).handOver g a).link = (s.handOver g a).link := 
    handOver_link_congr (s := s) (s' := s.arming armed) rfl rfl g a
  rw [(s.arming armed).handOver_frame, s.handOver_frame, link]
  rfl

theorem Turn.serve_carries (slot : Nat) (r : Record) (a : Arrival) : Carries (·.serve slot r a) := fun t armed ws => by
  have hands (t : Turn) (g : Grant) : (t.carrying armed ws).map (·.handOver g a) = (t.map (·.handOver g a)).carrying armed ws :=
    Carries.map (f := (·.handOver g a)) (fun s armed => s.handOver_arming g a armed) t armed ws
  dsimp only
  unfold Turn.serve
  rw [show (t.carrying armed ws).s.tag slot = t.s.tag slot from rfl, show (t.carrying armed ws).s.now = t.s.now from rfl]
  cases (t.s.tag slot).damaged with
  | true => exact hands t _
  | false =>
    cases t.s.now with
    | none => exact hands t _
    | some now =>
      let lc := (t.s.tag slot).lifecycle
      let cls := t.s.tariffClass r.cls
      exact hands (t.putRecord slot lc (checkedInRecord lc r a.checkIn cls now))
        (ordinaryGrant lc (checkedInRecord lc r a.checkIn cls now) a.checkIn cls now)

theorem Turn.goesOnCheckIn_carries (a : Arrival) (l : Lookup) : Carries (·.goesOnCheckIn a l) := by
  cases l with
  | absent => exact fun _ _ _ => rfl
  | rebuilding => exact fun _ _ _ => rfl
  | found slot =>
    exact Carries.ite (fun _ _ _ => Iff.rfl) (fun _ _ _ => rfl)
      (Turn.readLive_carries slot true (h := fun r t => t.serve slot r a) fun r => Turn.serve_carries slot r a)

theorem workCheckIn_looksUpFirst (x : State) (a : Arrival) (rest : List Arrival) :
    ∃ work, LooksUpFirst x a.checkIn.kit work ∧ ∀ t : Turn, workCheckIn a rest t = work (t.map (·.takeArrival a rest)) :=
  ⟨fun t => (t.lookup a.checkIn.kit).1.goesOnCheckIn a (t.lookup a.checkIn.kit).2.2,
    ⟨fun _ l t => t.goesOnCheckIn a l, fun _ l => Turn.goesOnCheckIn_carries a l, fun _ _ _ => rfl⟩, fun _ => rfl⟩

end Sys2Proof.Machine
end

section
/-! PROOFS. A turn whose lookup reads an uncorrectable bucket does what it does with the bucket wiped (R62, R71, R152). -/

namespace Sys2Proof.Machine

set_option Elab.async false

/-! ## The write of a turn that carries all ways of a bucket -/

/-- The injection left armed once the ways of a bucket have been written (R152). -/
def State.disarmed (s : State) (home : Nat) : Option Injection :=
  if s.integrity.armed.map (·.target) = some (.bucket home) then none else s.integrity.armed

/-- The ways of a bucket, as a wipe of it writes them. -/
def wayMarks (home : Nat) : List (Nat × Fin 4) := [(home, 0), (home, 1), (home, 2), (home, 3)]

theorem lowestWritten_append_other {b home : Nat} (other : b ≠ home) (ways : List (Nat × Fin 4)) :
    lowestWritten b (ways ++ wayMarks home) = lowestWritten b ways := by
  have mem (w : Fin 4) : (b, w) ∈ ways ++ wayMarks home ↔ (b, w) ∈ ways := by
    rw [List.mem_append, wayMarks]
    simp [other]
  unfold lowestWritten
  simp only [mem]

theorem lowestWritten_append_self (home : Nat) (ways : List (Nat × Fin 4)) :
    lowestWritten home (ways ++ wayMarks home) = some 0 :=
  lowestWritten_eq_some (List.mem_append_right _ List.mem_cons_self) fun v below => absurd below (Fin.not_lt_zero v)

section
variable {t : Turn} {home : Nat} {a : Option Injection}

/-- An injection armed for another target is taken or not as without the ways of the bucket. -/
theorem Turn.write_carrying_other (same : t.s.integrity.armed = a) (other : a.map (·.target) ≠ some (.bucket home)) :
    (t.carrying a (wayMarks home)).write = t.write := by
  have arming : t.s.arming a = t.s := by rw [← same]; rfl
  rw [Turn.carrying, arming]
  unfold Turn.write
  dsimp only
  cases armed : t.s.integrity.armed with
  | none => rfl
  | some i =>
    obtain ⟨target, m⟩ := i
    cases target with
    | record x => rfl
    | bucket b =>
      have away : b ≠ home := fun here => other (by rw [← same, armed, here]; rfl)
      dsimp only
      rw [lowestWritten_append_other away]

/-- An injection armed for the bucket spoils its way 0 (R152; log 22). -/
theorem Turn.write_carrying_self {m : InjectMode} :
    (t.carrying (some ⟨.bucket home, m⟩) (wayMarks home)).write = t.s.spoilWay home 0 m := by
  have write := Turn.write_of_bucket (t := t.carrying (some ⟨.bucket home, m⟩) (wayMarks home)) (b := home) (m := m) rfl
  rw [show (t.carrying (some ⟨.bucket home, m⟩) (wayMarks home)).ways = t.ways ++ wayMarks home from rfl,
    lowestWritten_append_self] at write
  exact write.trans rfl

end

/-! ## The state with the bucket wiped -/

/-- The state with the buckets, the tags and the error report of another, and an injection armed or none. -/
def State.rewritten (s w : State) (a : Option Injection) : State :=
  { s with
    dir := { s.dir with buckets := w.dir.buckets }
    memory := { s.memory with tags := w.memory.tags }
    integrity := { w.integrity with armed := a } }

section
variable {s x : State} {home : Nat} {who : Requester} {kit : KitId} {work : Turn → Turn}

/-- The state that a turn's wipe of a bucket makes (R71). -/
def State.wipedIn (x : State) (who : Requester) (home : Nat) : State := ((Turn.start who x).wipe home).s

theorem Turn.wipe_read (wf : Memory.wf x) (broken : (x.bucket home).broken = true) :
    (Turn.start who x).readBucket home = ((Turn.start who x).wipe home, ⟨none, none, none, none⟩)
      ∧ BucketRead (Turn.start who x) home ((Turn.start who x).wipe home) := by
  have broken' : ((Turn.start who x).s.bucket home).broken = true := broken
  obtain ⟨t, same, read⟩ := Turn.readBucket_read (t := Turn.start who x) wf home
  have wiped := Turn.readBucket_of_broken broken'
  rw [wiped] at same
  have wipe : (Turn.start who x).wipe home = t := congrArg Prod.fst same
  rw [wipe] at wiped ⊢
  exact ⟨wiped, read⟩

/-- The wipe of a bucket changes no more than the buckets, the tags and the error report (R71). -/
theorem State.wipedIn_arming (wf : Memory.wf x) (broken : (x.bucket home).broken = true) (a : Option Injection) :
    (x.wipedIn who home).arming a = x.rewritten (x.wipedIn who home) a := by
  have frame := (Turn.wipe_read (who := who) wf broken).2.frame
  exact (congrArg (State.arming · a) frame).trans rfl

/-- The turn that has wiped the bucket is the one that found it so, with its ways written and its injection armed. -/
theorem Turn.wipe_eq_carrying (wf : Memory.wf x) (broken : (x.bucket home).broken = true) (a : Option Injection) :
    (Turn.start who x).wipe home =
      (Turn.start who (x.rewritten (x.wipedIn who home) a)).carrying x.integrity.armed (wayMarks home) := by
  have read := (Turn.wipe_read (who := who) wf broken).2
  have armed : (x.wipedIn who home).integrity.armed = x.integrity.armed := read.outside.2.2.2.2.2.2
  rw [← State.wipedIn_arming wf broken, ← armed]
  rfl

/-- What the buckets, the tags and the report are, once the bucket is wiped. -/
theorem State.wipedIn_wiped (wfS : Memory.wf s) (wf : Memory.wf x) (broken : (x.bucket home).broken = true) (memory : x.memory = s.memory)
    (dir : x.dir = s.dir) (integrity : x.integrity = s.integrity) (pass : x.sweep.pass = s.sweep.pass) :
    Wiped s (s.rewritten (x.wipedIn who home) (s.disarmed home)) home who x.now := by
  have read := (Turn.wipe_read (who := who) wf broken).2
  have broken' : ((Turn.start who x).s.bucket home).broken = true := broken
  have bucketX (b : Nat) : x.bucket b = s.bucket b := congrArg (fun d : Directory => cellRead Bucket.cleared d.buckets b) dir
  have wipes : (Turn.start who x).s.wipedBy home = some home := State.wipedBy_of_broken broken'
  refine ⟨?_, ?_, fun b other => ?_, fun y => ?_, ?_, rfl, ?_⟩
  · obtain ⟨_, tags, buckets, _⟩ := read.wf
    obtain ⟨bodies, _, _, others⟩ := wfS
    exact ⟨bodies, tags, buckets, others⟩
  · refine congrArg₂ Bucket.mk (Four.ext_get fun w => ?_) ?_
    · refine (read.way home w).trans ((if_pos rfl).trans ?_)
      rw [Bucket.wayLeft, if_pos broken']
      fin_cases w <;> rfl
    · refine (read.state home).trans ((if_pos rfl).trans ?_)
      rw [Bucket.stateLeft, if_pos broken', ← pass]
      rfl
  · refine Eq.trans (congrArg₂ Bucket.mk (Four.ext_get fun w => (read.way b w).trans (if_neg other))
      ((read.state b).trans (if_neg other))) (bucketX b)
  · refine (read.tag y).trans ?_
    rw [wipes]
    exact congrArg (fun m : RecordMemory => (cellRead Tag.cleared m.tags y).without (some home)) memory
  · have fed := read.errors
    rw [wipes] at fed
    have fed' : FeedsErrors x (x.wipedIn who home) [.directory home] who x.now := fed
    rw [FeedsErrors, integrity] at fed'
    exact fed'
  · have counted : (x.wipedIn who home).integrity.dirCorrected = s.integrity.dirCorrected :=
      read.counted.trans ((State.dirCorrectedLeft_of_broken broken').trans (congrArg Integrity.dirCorrected integrity))
    rw [← counted]
    rfl

/-- The wiped bucket reads as empty, with nothing to correct. -/
theorem Turn.readBucket_wiped {y : State} {state : BucketState}
    (empty : y.bucket home = ⟨⟨⟨none, none, .good⟩, ⟨none, none, .good⟩, ⟨none, none, .good⟩, ⟨none, none, .good⟩⟩, state⟩) :
    (Turn.start who y).readBucket home = (Turn.start who y, ⟨none, none, none, none⟩) := by
  have empty' : (Turn.start who y).s.bucket home = _ := empty
  have corrects (w : Fin 4) : Turn.correctWay home (Turn.start who y) w = Turn.start who y := by
    unfold Turn.correctWay
    rw [empty']
    fin_cases w <;> rfl
  unfold Turn.readBucket
  rw [empty']
  simp only [List.foldl_cons, List.foldl_nil, corrects]
  rfl

end

end Sys2Proof.Machine
end

section
/-! PROOFS. The turns of commands and check-ins whose lookup reads an uncorrectable bucket (R62, R71; log 22, log 31). -/

namespace Sys2Proof.Machine

set_option Elab.async false

section
variable {s x : State} {who : Requester} {kit : KitId} {work : Turn → Turn}

/-- The work of a turn that finds the bucket uncorrectable is its work on the wiped bucket, with the ways of the bucket
written before it. -/
theorem LooksUpFirst.work_wiped (first : LooksUpFirst x kit work) (wf : Memory.wf x)
    (broken : (x.bucket (homeBucket kit)).broken = true) (a : Option Injection) {state : BucketState}
    (empty : (x.wipedIn who (homeBucket kit)).bucket (homeBucket kit) =
      ⟨⟨⟨none, none, .good⟩, ⟨none, none, .good⟩, ⟨none, none, .good⟩, ⟨none, none, .good⟩⟩, state⟩) :
    let T := work (Turn.start who (x.rewritten (x.wipedIn who (homeBucket kit)) a))
    work (Turn.start who x) = T.carrying x.integrity.armed (wayMarks (homeBucket kit)) ∧ T.s.integrity.armed = a := by
  intro T
  obtain ⟨rest, carries, looks⟩ := first
  have wiped := Turn.readBucket_wiped (who := who) (y := x.rewritten (x.wipedIn who (homeBucket kit)) a) empty
  have read := (Turn.wipe_read (who := who) wf broken).1
  rw [Turn.wipe_eq_carrying (who := who) wf broken a] at read
  have inWiped := looks (Turn.start who (x.rewritten (x.wipedIn who (homeBucket kit)) a)) rfl rfl
  have inBroken := looks (Turn.start who x) rfl rfl
  rw [Turn.lookup, wiped] at inWiped
  rw [Turn.lookup, read] at inBroken
  refine ⟨?_, ?_⟩
  · exact inBroken.trans ((carries _ _ _ _ _).trans (congrArg (Turn.carrying · _ _) inWiped.symm))
  · exact (congrArg (fun t : Turn => t.s.integrity.armed) inWiped).trans ((carries _ _).armed _)

/-- The way 0 that an injection armed for the bucket spoils (R152; log 22). -/
theorem State.spoilWay_first {y : State} (wf : Memory.wf y) (unarmed : y.integrity.armed = none) (home : Nat)
    (m : InjectMode) :
    ((y.spoilWay home 0 m).bucket home).ways = (y.bucket home).ways.set 0 { (y.bucket home).ways.get 0 with
        check := match m with | .single => .single | .double => .double }
      ∧ ((y.spoilWay home 0 m).bucket home).state = (y.bucket home).state
      ∧ (∀ b, b ≠ home → (y.spoilWay home 0 m).bucket b = y.bucket b)
      ∧ y.spoilWay home 0 m = { y with dir := { y.dir with buckets := (y.spoilWay home 0 m).dir.buckets } } := by
  have bucket := State.bucket_spoilWay wf home 0 m
  refine ⟨?_, ?_, fun b other => (bucket b).trans (if_neg other), ?_⟩
  · rw [bucket, if_pos rfl]
    cases m <;> rfl
  · rw [bucket, if_pos rfl]
  · rw [State.spoilWay, ← unarmed]

/-- A turn that ends with `fin` and begins with a lookup in an uncorrectable bucket does what it does with the bucket
wiped. -/
theorem goesOnWiped_of (first : LooksUpFirst x kit work) (wfS : Memory.wf s) (wf : Memory.wf x)
    (broken : (s.bucket (homeBucket kit)).broken = true) (memory : x.memory = s.memory) (dir : x.dir = s.dir)
    (integrity : x.integrity = s.integrity) (pass : x.sweep.pass = s.sweep.pass)
    (keeps : ∀ w a, Memory.wf (x.rewritten w a) → Memory.wf (work (Turn.start who (x.rewritten w a))).s) {fin : State → State}
    (redirects : ∀ y bs, fin { y with dir := { y.dir with buckets := bs } } =
      { fin y with dir := { (fin y).dir with buckets := bs } })
    (finDir : ∀ y, (fin y).dir = y.dir) {row : Instr} (found : exec row s = .next (fin (work (Turn.start who x)).write))
    (wiped : ∀ w a, Memory.wf (s.rewritten w a) → exec row (s.rewritten w a) =
      .next (fin (work (Turn.start who (x.rewritten w a))).write)) :
    GoesOnWiped s row (homeBucket kit) who x.now := by
  have bucketX : x.bucket (homeBucket kit) = s.bucket (homeBucket kit) :=
    congrArg (fun d : Directory => cellRead Bucket.cleared d.buckets (homeBucket kit)) dir
  have brokenX : (x.bucket (homeBucket kit)).broken = true := by rw [bucketX, broken]
  have wipes := State.wipedIn_wiped (who := who) wfS wf brokenX memory dir integrity pass
  have wfU := wipes.1
  obtain ⟨same, armed⟩ := first.work_wiped (who := who) wf brokenX (s.disarmed (homeBucket kit)) wipes.2.1
  have wfT := keeps (x.wipedIn who (homeBucket kit)) (s.disarmed (homeBucket kit)) ⟨wf.1, wfU.2.1, wfU.2.2.1, wf.2.2.2⟩
  have row' := wiped _ _ wfU
  rw [same] at found
  rw [integrity] at found
  generalize work (Turn.start who (x.rewritten (x.wipedIn who (homeBucket kit)) (s.disarmed (homeBucket kit)))) = T
    at armed wfT row' found
  have finBucket (y : State) (b : Nat) : (fin y).bucket b = y.bucket b :=
    congrArg (fun d : Directory => cellRead Bucket.cleared d.buckets b) (finDir y)
  refine ⟨_, _, _, wipes, row', found, fun other => ?_, fun m here => ?_⟩
  · have kept : s.disarmed (homeBucket kit) = s.integrity.armed := if_neg other
    exact congrArg fin (Turn.write_carrying_other (armed.trans kept) other)
  · have none : T.s.integrity.armed = none := armed.trans (if_pos (by rw [here]; rfl))
    obtain ⟨ways, state, others, frame⟩ := State.spoilWay_first wfT none (homeBucket kit) m
    have frame' := (congrArg fin frame).trans (redirects T.s _)
    rw [here, Turn.write_carrying_self, Turn.write_of_unarmed none]
    simp only [finBucket]
    refine ⟨ways, state, others, frame'.trans ?_⟩
    rw [finDir (T.s.spoilWay (homeBucket kit) 0 m)]

end

/-! ## The turns -/

section
variable {s : State}

theorem commandTurn_goesOnWiped {c : RecordCommand} {kit : KitId} (clock : c.needsMinute = true → s.now ≠ none)
    (h : s.commandTurnFor c) (looks : c.looksUp = some kit)
    (sells : ∀ k cls o, c = .enrol k cls o → (s.tariffClass cls.toNat).price ≠ 0)
    (broken : (s.bucket (homeBucket kit)).broken = true) :
    GoesOnWiped s .commandTurn (homeBucket kit) .command s.now :=
  goesOnWiped_of (x := s.begins .command) (fin := State.settle)
    (RecordCommand.work_looksUpFirst (x := s.begins .command) looks clock sells) h.1 h.1 broken rfl rfl rfl rfl
    (fun _ _ wf => (RecordCommand.work_keeps c _).wf wf) (fun _ _ => rfl) (fun _ => rfl) (exec_commandTurn h)
    fun w a wf => exec_commandTurn (s := s.rewritten w a) ⟨wf, h.2⟩

/-- The work of a check-in turn, from the state on which the head of the queue has been taken. -/
theorem checkInWork_of {a : Arrival} {rest : List Arrival} {work : Turn → Turn}
    (same : ∀ t : Turn, workCheckIn a rest t = work (t.map (·.takeArrival a rest))) (y : State) :
    workCheckIn a rest (Turn.start .checkIn y) = work (Turn.start .checkIn (y.takeArrival a rest)) := same _

theorem checkInTurn_goesOnWiped {a : Arrival} {rest : List Arrival} (h : CheckInNext s a rest)
    (broken : (s.bucket (homeBucket a.checkIn.kit)).broken = true) :
    GoesOnWiped s .checkInTurn (homeBucket a.checkIn.kit) .checkIn s.now := by
  obtain ⟨work, first, same⟩ := workCheckIn_looksUpFirst ((s.begins .checkIn).takeArrival a rest) a rest
  have works := checkInWork_of same
  refine goesOnWiped_of (x := (s.begins .checkIn).takeArrival a rest) (fin := State.settle) first h.1 h.1 broken rfl rfl rfl
    rfl (fun w i wf => ?_) (fun _ _ => rfl) (fun _ => rfl) ?_ fun w i wf => ?_
  · have keeps := workCheckIn_keeps a rest (Turn.start .checkIn ((s.begins .checkIn).rewritten w i)) (.inl h.2.1)
    rw [works] at keeps
    exact keeps.wf wf
  · rw [← works]
    exact exec_checkInTurn h
  · have row := exec_checkInTurn (s := s.rewritten w i) (a := a) (rest := rest) ⟨wf, h.2⟩
    rw [State.turn, works] at row
    exact row

theorem begunTurn_goesOnWiped {b : BegunTurn} (wf : Memory.wf s) (search : s.engine.checkInSearch = none)
    (other : s.link.queue = [] ∨ s.arbiter ≠ some .checkIn) (begun : s.engine.begun = some b)
    (broken : (s.bucket (homeBucket b.arrival.checkIn.kit)).broken = true) :
    GoesOnWiped s .checkInTurn (homeBucket b.arrival.checkIn.kit) .checkIn b.now := by
  obtain ⟨work, first, same⟩ := workCheckIn_looksUpFirst ((b.resume s).takeArrival b.arrival s.link.queue) b.arrival
    s.link.queue
  have works := checkInWork_of same
  have now : ((b.resume s).takeArrival b.arrival s.link.queue).now = b.now := s.resume_now b
  rw [← now]
  refine goesOnWiped_of (x := (b.resume s).takeArrival b.arrival s.link.queue)
    (fin := fun y => ({ y with time := s.time } : State).settle) first wf wf broken rfl rfl rfl
    rfl (fun w i wf => ?_) (fun _ _ => rfl) (fun _ => rfl) ?_ fun w i _ => ?_
  · have keeps := workCheckIn_keeps b.arrival s.link.queue (Turn.start .checkIn ((b.resume s).rewritten w i)) (.inr rfl)
    rw [works] at keeps
    exact keeps.wf wf
  · have row := exec_checkInTurn_begun search other begun
    rw [State.finishTurn, works] at row
    exact row
  · have row := exec_checkInTurn_begun (s := s.rewritten w i) search other begun
    rw [State.finishTurn, show (s.rewritten w i).link.queue = s.link.queue from rfl, works] at row
    exact row

end

/-- Settles O42: the bucket wiped by the lookup, and every turn that goes on with it so. -/
theorem uncorrectableBucket : Obligations.UncorrectableBucket :=
  ⟨fun _ _ _ clock turn seeks broken unspilled => wipedTurn_searches clock turn seeks broken unspilled,
    fun _ _ _ clock turn looks sells broken => commandTurn_goesOnWiped clock turn looks sells broken,
    fun _ _ _ next broken => checkInTurn_goesOnWiped next broken,
    fun _ _ wf search other begun broken => begunTurn_goesOnWiped wf search other begun broken⟩

end Sys2Proof.Machine
end
